-- ==== Sys2Proof/Word.lean ====
section
/-! DEFINITION. The words of the station frames, the digitizer frames and the nonvolatile array (R209). -/

namespace Sys2Proof

/-- One byte on a link or in the nonvolatile array. -/
abbrev Byte := BitVec 8

/-- A two-byte operand of a station frame. -/
abbrev Half := BitVec 16

/-- A three-byte operand of a station frame (a price, a span). -/
abbrev Tri := BitVec 24

/-- A four-byte operand of a station frame. -/
abbrev Word := BitVec 32

end Sys2Proof
end

