-- ==== Sys2Proof/Syntax.lean ====
section
/-! DEFINITION. The commands of the part: one constructor for each row of spec/opcode_table.json, with its operands.
A request carries the fields of its frame raw, at the widths of R210, so that every refusal can occur. -/

namespace Sys2Proof

/-- The three scales: bridges A and B and platform P. -/
inductive Scale where
  | a | b | p
  deriving DecidableEq, Repr, Inhabited

/-- The four station ports. -/
inductive Port where
  | s0 | s1 | s2 | s3
  deriving DecidableEq, Repr, Inhabited

/-- One byte received on a digitizer link, with whether its stop bit was missing (R2). -/
structure RxByte where
  value : Byte
  framingError : Bool
  deriving DecidableEq, Repr, Inhabited

/-- How the cells of an array operation differ from what the operation should have left them (log 5), byte by byte
from the operation's first byte; a missing byte differs in nothing. `stuck`: bits that should have been cleared and were
not (for an erase: bits that had been set when it was cut short); `lost`: bits that were cleared unasked. -/
structure Cells where
  stuck : List Byte
  lost : List Byte
  deriving DecidableEq, Repr, Inhabited

/-- An array operation that left the cells exactly as it should. -/
abbrev Cells.good : Cells := ⟨[], []⟩

/-- The two layouts of READ TARE (R210): a slot, or the ID layout of every other selector. -/
inductive TareKey where
  | slot (n : Byte)
  | id (selector : Byte) (vehicle : List Byte)
  deriving DecidableEq, Repr, Inhabited

/-- The commands. `p` is the station port on which a frame is taken. -/
inductive Instr where
  -- scale channels
  | digitizerFrame (sc : Scale) (bytes : List RxByte)
  | silenceEvent (sc : Scale)
  | captureTimeout (sc : Scale)
  -- immediate reads: `clocked` is how many bytes the master clocks out after the operands
  | readStatus (p : Port) (clocked : Nat)
  | readResult (p : Port) (clocked : Nat)
  | readNotice (p : Port) (clocked : Nat)
  | readJournal (p : Port) (receipt : Word)
  | journalStreamRead (p : Port) (decay : List (Nat × Byte))
  | streamEnd (p : Port)
  | malformedFrame (p : Port)
  -- tickets
  | openTicket (p : Port) (cls : Byte) (vehicle : List Byte)
  | setVehicle (p : Port) (ticket : Half) (vehicle : List Byte)
  | setSeller (p : Port) (ticket : Half) (seller : List Byte)
  -- weighing
  | weigh (p : Port) (scale kind : Byte) (ticket : Half) (grade : Byte)
  | weighStoreTare (p : Port) (scale : Byte) (vehicle : List Byte)
  | cancelWeigh (p : Port) (scale : Byte)
  | readScale (p : Port) (scale : Byte)
  | zeroScale (p : Port) (scale : Byte)
  | restoreScale (p : Port) (scale : Byte)
  | calibrate (p : Port) (scale : Byte) (zeroSum : Word) (span : Tri) (trim1 trim2 trim3 trim4 : Half)
  | calibrationRecordWritten (sc : Scale) (cells : Cells)
  | lockCalibration (p : Port) (scale : Byte)
  | calibrationLockWritten (sc : Scale) (cells : Cells)
  | scaleSettings (p : Port) (scale enable settle timeout empty recovery : Byte)
  | dockLine (p : Port) (ticket : Half) (grade : Byte) (dock : Word)
  | closeOnStoredTare (p : Port) (ticket : Half) (grade : Byte)
  | voidTicket (p : Port) (ticket : Half) (reason : Byte)
  | readTicket (p : Port) (ticket : Half) (part : Byte)
  | listTickets (p : Port) (selection : Byte)
  -- claims, holds and the yard clock
  | claimTicket (p : Port) (ticket : Half)
  | releaseTicket (p : Port) (ticket : Half)
  | claimExpiry (ticket : Half)
  | endHold (p : Port) (ticket : Half)
  | extendHold (p : Port) (ticket : Half) (expiry : Word)
  | setClock (p : Port) (time : Word)
  | readClock (p : Port)
  | clockAdvance
  -- settlement and the journal
  | settleTicket (p : Port) (ticket : Half)
  | commitHeader (cells torn check : Cells)
  | commitBody (cells torn check : Cells)
  | commitComplete (cells torn check : Cells)
  | printedMark (cells time : Cells)
  | auditThrough (p : Port) (receipt : Word)
  | auditMark (cells : Cells)
  | eraseAheadStart
  | eraseResume
  | blankCheck (decay : List (Nat × Byte))
  | eraseDone (remains : List (Nat × Byte))
  | readJournalState (p : Port)
  -- printing
  | printFetch (decay : List (Nat × Byte))
  | endOfJobSent
  | responseTimeout
  | ack
  | err
  | paperLow
  | paperOut
  | coverOpen
  | ready
  | statusQueryTimeout
  | retryWait (slot : Nat)
  | printReceipt (p : Port) (receipt : Word)
  | cancelPrint (p : Port) (slot kind : Byte) (receipt : Word)
  | listPrintQueue (p : Port)
  | readPrinter (p : Port)
  | restorePrinter (p : Port)
  -- shift totals
  | closeShift (p : Port)
  | readTally (p : Port) (source first : Byte)
  -- grades and stored tares
  | setPrice (p : Port) (grade : Byte) (price : Tri)
  | defineGrade (p : Port) (grade : Byte) (name : List Byte) (flags holdHours : Byte) (price : Tri)
  | readGrade (p : Port) (grade : Byte)
  | deleteTare (p : Port) (vehicle : List Byte)
  | readTare (p : Port) (key : TareKey)
  -- ports and the fault status
  | setFilter (p : Port) (kinds scales : Byte)
  | setRole (p : Port) (port role scales noticeKinds noticeScales : Byte)
  | portEnable (p : Port) (port : Byte)
  | portDisable (p : Port) (port : Byte)
  | readFault (p : Port)
  | clearFault (p : Port) (kinds : Half) (record : Byte)
  -- modes, settings store and power
  | setHeader (p : Port) (line : Byte) (text : List Byte)
  | setFirstReceipt (p : Port) (first : Word) (claimTimeout : Half) (tareValidity : Byte) (masks severities : Half)
  | enterConfig (p : Port)
  | leaveConfig (p : Port)
  | storeSettings (p : Port)
  | storeErase (good : Bool)
  | storeImageProgram (good : Bool)
  | storeValidMark (good : Bool)
  | mainSupplyLoss (cut : Cells)
  | resetNLow (cut : Cells)
  | start (retained sense : Bool) (decay : List (Nat × Byte))
  deriving DecidableEq, Repr

end Sys2Proof
end

