-- ==== Sys2Proof/Decode.lean ====
section
/-! DEFINITION. The words of the opcode table, which gives its rows no bits; and the frame layer of a station port: the bytes of
a frame to the command that it is (R176, R209, R210; log 26). -/

namespace Sys2Proof

/-- The command that a word of the opcode table spells. The table gives no row any bits, so no word spells one. -/
def decodeTableWord (_nbits _w : Nat) : Option Instr := none

/-! ## Fields, most significant byte first (R209) -/

/-- A two-byte field. -/
def half (a b : Byte) : Half := a ++ b

/-- A three-byte field. -/
def tri (a b c : Byte) : Tri := a ++ (b ++ c)

/-- A four-byte field. -/
def word (a b c d : Byte) : Word := a ++ (b ++ (c ++ d))

/-- The bytes of a two-byte field. -/
def halfBytes (h : Half) : List Byte := [h.extractLsb' 8 8, h.extractLsb' 0 8]

/-- The bytes of a three-byte field. -/
def triBytes (t : Tri) : List Byte := [t.extractLsb' 16 8, t.extractLsb' 8 8, t.extractLsb' 0 8]

/-- The bytes of a four-byte field. -/
def wordBytes (w : Word) : List Byte :=
  [w.extractLsb' 24 8, w.extractLsb' 16 8, w.extractLsb' 8 8, w.extractLsb' 0 8]

/-- An ID: its length byte and its characters. -/
def idBytes (t : List Byte) : List Byte := BitVec.ofNat 8 t.length :: t

/-- The characters of an ID that ends the frame exactly at its length. -/
def idOf : List Byte → Option (List Byte)
  | n :: t => if n.toNat = t.length then some t else none
  | [] => none

/-! ## Request frames (R210) -/

/-- The requests with no operand. -/
def decodeBare (p : Port) (code : Byte) : Option Instr :=
  match code.toNat with
  | 0x35 => some (.readClock p)
  | 0x42 => some (.readJournalState p)
  | 0x4A => some (.listPrintQueue p)
  | 0x4B => some (.restorePrinter p)
  | 0x4C => some (.readPrinter p)
  | 0x68 => some (.closeShift p)
  | 0x71 => some (.enterConfig p)
  | 0x72 => some (.leaveConfig p)
  | 0x73 => some (.storeSettings p)
  | 0x77 => some (.readFault p)
  | _ => none

/-- The requests of a fixed length, after their code byte. -/
def decodeFixed (p : Port) (code : Byte) : List Byte → Option Instr
  | [] => decodeBare p code
  | [a] =>
    match code.toNat with
    | 0x24 => some (.cancelWeigh p a)
    | 0x50 => some (.readScale p a)
    | 0x51 => some (.zeroScale p a)
    | 0x52 => some (.restoreScale p a)
    | 0x54 => some (.lockCalibration p a)
    | 0x29 => some (.listTickets p a)
    | 0x62 => some (.readGrade p a)
    | 0x75 => some (.portEnable p a)
    | 0x76 => some (.portDisable p a)
    | _ => none
  | [a, b] =>
    match code.toNat with
    | 0x30 => some (.claimTicket p (half a b))
    | 0x31 => some (.releaseTicket p (half a b))
    | 0x32 => some (.endHold p (half a b))
    | 0x40 => some (.settleTicket p (half a b))
    | 0x69 => some (.readTally p a b)
    | 0x70 => some (.setFilter p a b)
    | _ => none
  | [a, b, c] =>
    match code.toNat with
    | 0x26 => some (.closeOnStoredTare p (half a b) c)
    | 0x27 => some (.voidTicket p (half a b) c)
    | 0x28 => some (.readTicket p (half a b) c)
    | 0x78 => some (.clearFault p (half a b) c)
    | _ => none
  | [a, b, c, d] =>
    match code.toNat with
    | 0x34 => some (.setClock p (word a b c d))
    | 0x41 => some (.auditThrough p (word a b c d))
    | 0x48 => some (.printReceipt p (word a b c d))
    | 0x60 => some (.setPrice p a (tri b c d))
    | _ => none
  | [a, b, c, d, e] =>
    match code.toNat with
    | 0x74 => some (.setRole p a b c d e)
    | _ => none
  | [a, b, c, d, e, f] =>
    match code.toNat with
    | 0x33 => some (.extendHold p (half a b) (word c d e f))
    | 0x49 => some (.cancelPrint p a b (word c d e f))
    | 0x55 => some (.scaleSettings p a b c d e f)
    | _ => none
  | [a, b, c, d, e, f, g] =>
    match code.toNat with
    | 0x25 => some (.dockLine p (half a b) c (word d e f g))
    | _ => none
  | [a, b, c, d, e, f, g, h, i, j, k] =>
    match code.toNat with
    | 0x7A => some (.setFirstReceipt p (word a b c d) (half e f) g (half h i) (half j k))
    | _ => none
  | [g, n1, n2, n3, n4, n5, n6, n7, n8, f, h, a, b, c] =>
    match code.toNat with
    | 0x61 => some (.defineGrade p g [n1, n2, n3, n4, n5, n6, n7, n8] f h (tri a b c))
    | _ => none
  | [s, a, b, c, d, e, f, g, h, i, j, k, l, m, n, o] =>
    match code.toNat with
    | 0x53 => some (.calibrate p s (word a b c d) (tri e f g) (half h i) (half j k) (half l m) (half n o))
    | _ => none
  | _ => none

/-- The requests that an ID ends. -/
def decodeWithId (p : Port) (code : Byte) (bs : List Byte) : Option Instr :=
  match code.toNat, bs with
  | 0x20, c :: t => (idOf t).map (.openTicket p c)
  | 0x21, a :: b :: t => (idOf t).map (.setVehicle p (half a b))
  | 0x22, a :: b :: t => (idOf t).map (.setSeller p (half a b))
  | 0x63, t => (idOf t).map (.deleteTare p)
  | _, _ => none

/-- WEIGH: kind byte 4 has the STORE_TARE layout, every other the ticket layout (R210). -/
def decodeWeigh (p : Port) : List Byte → Option Instr
  | sc :: k :: t =>
    if k = 4#8 then (idOf t).map (.weighStoreTare p sc)
    else match t with
      | [a, b, g] => some (.weigh p sc k (half a b) g)
      | _ => none
  | _ => none

/-- READ TARE: selector 0 has the slot layout, every other the ID layout (R210). -/
def decodeTare (p : Port) : List Byte → Option Instr
  | sel :: t =>
    if sel = 0#8 then (match t with | [n] => some (.readTare p (.slot n)) | _ => none)
    else (idOf t).map (fun v => .readTare p (.id sel v))
  | [] => none

/-- SET HEADER: a line and 32 characters (R210). -/
def decodeHeader (p : Port) : List Byte → Option Instr
  | n :: t => if t.length = 32 then some (.setHeader p n t) else none
  | [] => none

/-- The request of a code and its operand bytes; none when the frame is malformed (R210). -/
def decodeRequest (p : Port) (code : Byte) (bs : List Byte) : Option Instr :=
  match code.toNat with
  | 0x23 => decodeWeigh p bs
  | 0x64 => decodeTare p bs
  | 0x79 => decodeHeader p bs
  | 0x20 => decodeWithId p code bs
  | 0x21 => decodeWithId p code bs
  | 0x22 => decodeWithId p code bs
  | 0x63 => decodeWithId p code bs
  | _ => decodeFixed p code bs

/-- An immediate read (R176, R210): every byte clocked after the code is one of its reply, but for the operand of READ JOURNAL.
A READ JOURNAL frame cut short in its operand changes nothing beyond the summary byte it clocked out: it is a read of the status
of which no byte was clocked (log 26). -/
def decodeRead (p : Port) (code : Byte) (bs : List Byte) : Option Instr :=
  match code.toNat with
  | 0x80 => some (.readStatus p bs.length)
  | 0x81 => some (.readResult p bs.length)
  | 0x82 => some (.readNotice p bs.length)
  | 0x83 =>
    match bs with
    | a :: b :: c :: d :: _ => some (.readJournal p (word a b c d))
    | _ => some (.readStatus p 0)
  | _ => none

/-- The command that a frame is (R176, R210): its whole bytes, and whether clocks are left over after the last. A frame with no
whole byte is ignored. -/
def decodeFrame (p : Port) (bytes : List Byte) (leftover : Bool) : Option Instr :=
  match bytes with
  | [] => none
  | code :: bs =>
    match decodeRead p code bs with
    | some i => some i
    | none =>
      if leftover then some (.malformedFrame p)
      else some ((decodeRequest p code bs).getD (.malformedFrame p))

/-! ## Status bytes of the printer (R147, R214) -/

/-- The command that a byte from the printer is (R147, R214); none for a byte with a framing error or of any other value, which
is ignored. -/
def decodeStatusByte (b : Byte) (framingError : Bool) : Option Instr :=
  if framingError then none
  else match b.toNat with
    | 0x06 => some .ack
    | 0x15 => some .err
    | 0x11 => some .paperLow
    | 0x12 => some .paperOut
    | 0x13 => some .coverOpen
    | 0x14 => some .ready
    | _ => none

/-! ## Frames of requests (R210) -/

/-- The frame of a request (R210); none for what is no request of a port. -/
def encodeFrame : Instr → Option (Port × List Byte)
  | .openTicket p c v => some (p, 0x20#8 :: c :: idBytes v)
  | .setVehicle p t v => some (p, 0x21#8 :: (halfBytes t ++ idBytes v))
  | .setSeller p t v => some (p, 0x22#8 :: (halfBytes t ++ idBytes v))
  | .weigh p sc k t g => some (p, 0x23#8 :: sc :: k :: (halfBytes t ++ [g]))
  | .weighStoreTare p sc v => some (p, 0x23#8 :: sc :: 4#8 :: idBytes v)
  | .cancelWeigh p sc => some (p, [0x24#8, sc])
  | .dockLine p t g d => some (p, 0x25#8 :: (halfBytes t ++ g :: wordBytes d))
  | .closeOnStoredTare p t g => some (p, 0x26#8 :: (halfBytes t ++ [g]))
  | .voidTicket p t r => some (p, 0x27#8 :: (halfBytes t ++ [r]))
  | .readTicket p t n => some (p, 0x28#8 :: (halfBytes t ++ [n]))
  | .listTickets p x => some (p, [0x29#8, x])
  | .claimTicket p t => some (p, 0x30#8 :: halfBytes t)
  | .releaseTicket p t => some (p, 0x31#8 :: halfBytes t)
  | .endHold p t => some (p, 0x32#8 :: halfBytes t)
  | .extendHold p t e => some (p, 0x33#8 :: (halfBytes t ++ wordBytes e))
  | .setClock p t => some (p, 0x34#8 :: wordBytes t)
  | .readClock p => some (p, [0x35#8])
  | .settleTicket p t => some (p, 0x40#8 :: halfBytes t)
  | .auditThrough p n => some (p, 0x41#8 :: wordBytes n)
  | .readJournalState p => some (p, [0x42#8])
  | .printReceipt p n => some (p, 0x48#8 :: wordBytes n)
  | .cancelPrint p x k n => some (p, 0x49#8 :: x :: k :: wordBytes n)
  | .listPrintQueue p => some (p, [0x4A#8])
  | .restorePrinter p => some (p, [0x4B#8])
  | .readPrinter p => some (p, [0x4C#8])
  | .readScale p sc => some (p, [0x50#8, sc])
  | .zeroScale p sc => some (p, [0x51#8, sc])
  | .restoreScale p sc => some (p, [0x52#8, sc])
  | .calibrate p sc z sp t1 t2 t3 t4 => some (p, 0x53#8 :: sc ::
      (wordBytes z ++ (triBytes sp ++ (halfBytes t1 ++ (halfBytes t2 ++ (halfBytes t3 ++ halfBytes t4))))))
  | .lockCalibration p sc => some (p, [0x54#8, sc])
  | .scaleSettings p sc e st ti em re => some (p, [0x55#8, sc, e, st, ti, em, re])
  | .setPrice p g x => some (p, 0x60#8 :: g :: triBytes x)
  | .defineGrade p g n f h x => some (p, 0x61#8 :: g :: (n ++ f :: h :: triBytes x))
  | .readGrade p g => some (p, [0x62#8, g])
  | .deleteTare p v => some (p, 0x63#8 :: idBytes v)
  | .readTare p (.slot n) => some (p, [0x64#8, 0#8, n])
  | .readTare p (.id s v) => some (p, 0x64#8 :: s :: idBytes v)
  | .closeShift p => some (p, [0x68#8])
  | .readTally p x g => some (p, [0x69#8, x, g])
  | .setFilter p k sc => some (p, [0x70#8, k, sc])
  | .enterConfig p => some (p, [0x71#8])
  | .leaveConfig p => some (p, [0x72#8])
  | .storeSettings p => some (p, [0x73#8])
  | .setRole p q r m k n => some (p, [0x74#8, q, r, m, k, n])
  | .portEnable p q => some (p, [0x75#8, q])
  | .portDisable p q => some (p, [0x76#8, q])
  | .readFault p => some (p, [0x77#8])
  | .clearFault p k r => some (p, 0x78#8 :: (halfBytes k ++ [r]))
  | .setHeader p n t => some (p, 0x79#8 :: n :: t)
  | .setFirstReceipt p n c v m x =>
    some (p, 0x7A#8 :: (wordBytes n ++ (halfBytes c ++ v :: (halfBytes m ++ halfBytes x))))
  | _ => none

end Sys2Proof
end

