-- ==== Sys2Proof/Config.lean ====
section
/-! DEFINITION. What the spec leaves open: the free values, constants with no body that no proof can look into. -/

namespace Sys2Proof

/-- Free 32-bit values, one for each index: used where a value the spec describes falls outside its 32 bits
(a hold expiry, a tare's expiry, a reported weight, the print queue's age counter). DESIGN CHOICE, log 14. Safe. -/
opaque Config.freeWord : Nat → Word

/-- The four bytes of a STORE_MEDIA detail, which R191 describes (an area and a scale, or the settings store) and no rule
encodes. The first argument numbers the area, the second is the scale code or 0. DESIGN CHOICE, log 17. Safe. -/
opaque Config.storeMediaCode : Nat → Nat → Word

/-- The kind (0 PAYOUT, 1 VOID, 2 SHIFT) of an entry whose kind byte is none of the three codes, a damaged header that R165
and R174 still ask the kind of. DESIGN CHOICE, log 19. Safe. -/
opaque Config.damagedKind : Byte → Fin 3

end Sys2Proof
end

