-- ==== Sys2Proof/Machine/State.lean ====
section
/-! DEFINITION. The state of the part: every piece of state the spec names, as plain data, and its value right after the
first cold start of a new part. -/

namespace Sys2Proof.Machine

/-! ## Collections of fixed shape -/

/-- One value for each scale. -/
structure PerScale (α : Type) where
  a : α
  b : α
  p : α
  deriving DecidableEq, Repr

/-- One value for each station port. -/
structure PerPort (α : Type) where
  s0 : α
  s1 : α
  s2 : α
  s3 : α
  deriving DecidableEq, Repr

/-- Bytes of the nonvolatile array by address, strictly rising, none blank: an unlisted address reads 0xFF (R116). -/
abbrev Memory := List Host.Cell

/-! ## Scale channels (R1, R67, R216) -/

/-- The scale states, numbered from 0 in this order (R1, R212). -/
inductive ScaleState where
  | disabled | empty | moving | stable | overload | fault
  deriving DecidableEq, Repr

/-- The causes of a bad-frame event, numbered from 0 in this order (R1, R211). -/
inductive BadCause where
  | check | sequence | cells | overRange | digitizer | silence
  deriving DecidableEq, Repr

/-- The recovery modes: 0 MANUAL, 1 AUTO (R210). -/
inductive Recovery where
  | manual | auto
  deriving DecidableEq, Repr

/-- The class of a scale or a ticket. -/
inductive Class where
  | bridge | platform
  deriving DecidableEq, Repr

/-- The five live settings of a scale (R1). -/
structure ScaleSettings where
  enabled : Bool
  settle : Nat
  timeout : Nat
  empty : Nat
  recovery : Recovery
  deriving DecidableEq, Repr

/-- A calibration record (section 1.8, R216); `trims` holds the four trims carried, in ten-thousandths. -/
structure CalRecord where
  sequence : Nat
  zeroSum : Int
  span : Nat
  trims : List Nat
  time : Nat
  deriving DecidableEq, Repr

/-- The kinds of capture and of weighing. -/
inductive CaptureKind where
  | gross | drop | tare | storeTare
  deriving DecidableEq, Repr

/-- The capture record of a scale (R67). -/
structure Capture where
  kind : CaptureKind
  ticket : Option Nat
  vehicle : Option (List Byte)
  grade : Option Nat
  port : Port
  armedTime : Nat
  remaining : Nat
  loadSeen : Bool
  deriving DecidableEq, Repr

/-- One scale channel (R1). `w1` is the corrected weight of the last good frame, which ZERO SCALE adds (R16); `rx` is the
receiver's incomplete frame (R2); `nextSlot` is the calibration slot after the last one that programming has reached (R20). -/
structure Channel where
  state : ScaleState
  weight : Option Int
  w1 : Option Int
  reference : Option Int
  motion : Nat
  faultCount : Nat
  lastBad : Option BadCause
  seqRef : Option Nat
  silence : Nat
  zeroOffset : Int
  live : Option CalRecord
  calCounter : Nat
  slotsUsed : Nat
  nextSlot : Nat
  calLocked : Bool
  capture : Option Capture
  rx : List RxByte
  deriving DecidableEq, Repr

/-- The calibration area of one scale: 64 slots of 32 bytes at 32 * slot + offset, and the lock location (R216). -/
structure CalArea where
  slots : Memory
  lock : Byte
  deriving DecidableEq, Repr

/-- A calibration write handed to the program engine and not yet ended (R20, R22). -/
inductive CalJob where
  | record (port : Port) (record : CalRecord)
  | lock (port : Port)
  deriving DecidableEq, Repr

/-! ## Tares, tickets, claims and holds (R33, R41, R42, R87, R93) -/

/-- A stored tare (R33). -/
structure Tare where
  vehicle : List Byte
  cls : Class
  weight : Int
  time : Nat
  deriving DecidableEq, Repr

/-- A weighing record (R42). -/
structure Weighing where
  scale : Scale
  kind : CaptureKind
  weight : Int
  time : Nat
  grade : Option Nat
  deriving DecidableEq, Repr

/-- A line record (R42). -/
structure Line where
  grade : Nat
  net : Nat
  dock : Nat
  price : Option Nat
  amount : Option Nat
  deriving DecidableEq, Repr

/-- The tare source of a closed ticket (R41). -/
inductive TareSource where
  | weighed
  | stored (weight : Int)
  deriving DecidableEq, Repr

/-- The states of a ticket outside FREE, numbered from 0 in this order (R41, R211). -/
inductive TicketState where
  | opened | onYard | held | payable | committing
  deriving DecidableEq, Repr

/-- A ticket's hold (R41). -/
structure Hold where
  expiry : Nat
  endedEarly : Bool
  deriving DecidableEq, Repr

/-- A ticket's claim: the holder and the seconds remaining (R87). -/
structure Claim where
  port : Port
  remaining : Nat
  deriving DecidableEq, Repr

/-- The kinds of commit and of journal entry: 1 PAYOUT, 2 VOID, 3 SHIFT (R215). -/
inductive EntryKind where
  | payout | void | shift
  deriving DecidableEq, Repr

/-- The commit field of a COMMITTING ticket (R41, R59). -/
structure TicketCommit where
  kind : EntryKind
  reason : Option Nat
  port : Port
  before : TicketState
  receipt : Option Nat
  deriving DecidableEq, Repr

/-- A ticket record outside FREE (R41). -/
structure Ticket where
  number : Nat
  state : TicketState
  cls : Class
  openedBy : Port
  openedTime : Nat
  vehicle : Option (List Byte)
  seller : Option (List Byte)
  weighings : List Weighing
  lines : List Line
  tareSource : Option TareSource
  closedTime : Option Nat
  total : Option Nat
  hold : Option Hold
  claim : Option Claim
  capture : Option Scale
  commit : Option TicketCommit
  deriving DecidableEq, Repr

/-- An entry of the hold list (R93). -/
structure HoldEntry where
  ticket : Nat
  expiry : Nat
  deriving DecidableEq, Repr

/-! ## Settlement and the journal (R100, R116 to R136) -/

/-- A settlement record (R100); `jobs` are the print slots it reserves. -/
structure Settlement where
  kind : EntryKind
  ticket : Option Nat
  port : Port
  jobs : List Nat
  receipt : Option Nat
  torn : List Nat
  deriving DecidableEq, Repr

/-- The states of a sector, numbered from 0 in this order (R116). -/
inductive SectorState where
  | blankUnchecked | erased | filling | full | erasing | bad
  deriving DecidableEq, Repr

/-- What a status byte reads as (R119): blank, a mark, or the BAD pattern. -/
inductive Mark where
  | blank | started | complete | printed | torn | audited | badPattern
  deriving DecidableEq, Repr

/-- One record of the sector map (R116). `kinds` holds the kind byte of each slot's header as the scan read it (R165). -/
structure Sector where
  state : SectorState
  first : Option Nat
  used : Nat
  marks : List Mark
  kinds : List Byte
  deriving DecidableEq, Repr

/-- A request in the commit queue (R105, R122). -/
structure CommitReq where
  kind : EntryKind
  ticket : Option Nat
  port : Port
  deriving DecidableEq, Repr

/-- Where the head commit stands: the two waits of R124, or the step whose programming it waits for or is in (R123). -/
inductive HeadStep where
  | waitErasing | waitEmpty | header | body | complete
  deriving DecidableEq, Repr

/-- The head commit (R122, R123): its attempt, the number assigned, its step, its entry's place and the entry as built. -/
structure Head where
  attempt : Nat
  number : Nat
  step : HeadStep
  sector : Nat
  slot : Nat
  entry : List Byte
  deriving DecidableEq, Repr

/-- An operation the program engine has taken (R127). `live` is no for a read whose answer will be discarded (R138, R156);
`again` is yes for the second programming of a mark (R129, R136). -/
inductive EngineOp where
  | fetch (receipt : Nat) (live : Bool)
  | stream (port : Port) (live : Bool)
  | commitStep
  | calRecord (sc : Scale)
  | calLock (sc : Scale)
  | storeErase
  | storeImage
  | storeMark
  | printedMark (again : Bool)
  | auditMark (again : Bool)
  | blankCheck
  | erase
  deriving DecidableEq, Repr

/-- A read waiting at preference 1 (R127). -/
inductive ReadReq where
  | fetch
  | stream (port : Port)
  deriving DecidableEq, Repr

/-- An operation waiting at preference 2 (R127). -/
inductive WriteReq where
  | commitStep
  | calRecord (sc : Scale)
  | calLock (sc : Scale)
  | storeErase
  | storeImage
  | storeMark
  deriving DecidableEq, Repr

/-- The erase-ahead operation in progress (R128, R132); `checking` while it is the blank check. -/
structure EraseJob where
  sector : Nat
  checking : Bool
  suspended : Bool
  count : Nat
  retried : Bool
  deriving DecidableEq, Repr

/-- The program engine (R127): the operation in hand and the waiting ones, the one that has waited longest first. -/
structure Engine where
  current : Option EngineOp
  reads : List ReadReq
  writes : List WriteReq
  erase : Option EraseJob
  deriving DecidableEq, Repr

/-- The state of an audit pass (R135). -/
structure Pass where
  target : Nat
  next : Nat
  port : Port
  deriving DecidableEq, Repr

/-- A request of the pending-mark list (R129). -/
structure MarkReq where
  receipt : Nat
  time : Nat
  deriving DecidableEq, Repr

/-! ## Print engine (R143, R146) -/

/-- The kinds of job, numbered from 0 in this order (R143, R211). -/
inductive JobKind where
  | original | duplicate | voidSlip | shiftReport | tally
  deriving DecidableEq, Repr

/-- The states of a job, numbered from 0 in this order (R143, R211). -/
inductive JobState where
  | reserved | queued | printing | retryWait
  deriving DecidableEq, Repr

/-- A print job (R143). -/
structure Job where
  kind : JobKind
  receipt : Option Nat
  port : Option Port
  state : JobState
  attempts : Nat
  restarted : Bool
  age : Nat
  wait : Nat
  deriving DecidableEq, Repr

/-- The activity of the print engine (R146). -/
inductive Activity where
  | idle | fetching | sending | awaiting
  deriving DecidableEq, Repr

/-- The paper condition (R146). -/
inductive Paper where
  | ok | low | out
  deriving DecidableEq, Repr

/-- The cover condition (R146). -/
inductive Cover where
  | closed | opened
  deriving DecidableEq, Repr

/-- The link state (R146). -/
inductive Link where
  | normal | warn | offline
  deriving DecidableEq, Repr

/-- The volatile state of the print engine (R146, R157). `tx` is the transmission in progress, `sent` the last one ended. -/
structure PrintEngine where
  activity : Activity
  job : Option Nat
  pausePaper : Bool
  pauseCover : Bool
  pauseStart : Bool
  paper : Paper
  cover : Cover
  linkErrors : Nat
  link : Link
  responseTimer : Option Nat
  queryTimer : Option Nat
  tx : List Byte
  sent : List Byte
  deriving DecidableEq, Repr

/-- The backlog walk (R165). -/
structure Backlog where
  next : Nat
  last : Nat
  deriving DecidableEq, Repr

/-! ## Shift totals (R166) -/

/-- The figures of one grade (R166). -/
structure GradeFigures where
  net : Nat
  payable : Nat
  amount : Nat
  lines : Nat
  deriving DecidableEq, Repr

/-- The tally (R166); `grades` has one set of figures for each grade code from 1 to 64. -/
structure Tally where
  shift : Nat
  openTime : Nat
  receipts : Nat
  voids : Nat
  torn : Nat
  total : Nat
  incomplete : Bool
  grades : List GradeFigures
  deriving DecidableEq, Repr

/-- An occupied snapshot (R166). -/
structure Snapshot where
  tally : Tally
  receipt : Nat
  deriving DecidableEq, Repr

/-! ## Station ports, notices and the fault status (R175, R184, R191) -/

/-- The roles, numbered from 0 in this order (R210). -/
inductive Role where
  | view | scale | window | office
  deriving DecidableEq, Repr

/-- The result codes, numbered from 0 in this order (R211). -/
inductive ResultCode where
  | ok | armed | format | role | mode | disabled | self | noTicket | state | held | claimed | notClaimed | claimsFull
  | tableFull | capturePending | scaleBusy | scaleState | cls | grade | linesFull | weighingsFull | sellerIdRequired
  | clockUnset | range | order | noTare | tareExpired | journalFull | queueFull | media | auditUnprinted | tooLate
  | tallyPending | locked | counterSpent
  deriving DecidableEq, Repr

/-- A result: its code and its data bytes (R179, R211). -/
structure Result where
  code : ResultCode
  data : List Byte
  deriving DecidableEq, Repr

/-- The notice kinds, numbered from 1 in this order (R184, R212). -/
inductive NoticeKind where
  | weighed | weighFailed | claimExpired | printDone | auditDone | printAbandoned | ticketPayable | receiptCommitted
  | scaleState | printerState | journalLow | modeChange | fault
  deriving DecidableEq, Repr

/-- A notice (R184): `subject` absent for the kinds without one, `detail` its leading bytes as R212 lays them out. -/
structure Notice where
  kind : NoticeKind
  subject : Option Nat
  detail : List Byte
  time : Nat
  deriving DecidableEq, Repr

/-- A filter or notice default: a mask of the eight broadcast kinds and a mask of the scales (R189, R210). -/
structure Filter where
  kinds : Byte
  scales : BitVec 3
  deriving DecidableEq, Repr

/-- The states of a port (R175). -/
inductive PortState where
  | idle | busy | done
  deriving DecidableEq, Repr

/-- A port context, apart from its live settings (R175). `summaryOut` and `dataOut` are what the data output carried in the
port's latest frame: the summary byte, and the bytes from the reply's start on; after those listed it carried 0x00 (log 22). -/
structure PortCtx where
  state : PortState
  enabled : Bool
  result : Option Result
  overrun : Bool
  filter : Filter
  queue : List Notice
  overflow : Nat
  stream : Option Nat
  summaryOut : Byte
  dataOut : List Byte
  deriving DecidableEq, Repr

/-- The part of a port context that belongs to the live settings (R181, R189). -/
structure PortSettings where
  role : Role
  scaleMask : BitVec 3
  noticeDefault : Filter
  deriving DecidableEq, Repr

/-- The fault kinds, numbered from 0 in this order (R191, R210). -/
inductive FaultKind where
  | scaleFaultA | scaleFaultB | scaleFaultP | printerOffline | journalFull | journalMedia | tornFound | settingsLost
  | storeMedia | retentionLost | clockUnset
  deriving DecidableEq, Repr

/-- The detail of a setting event (R191). -/
inductive FaultDetail where
  | none
  | badCause (c : BadCause)
  | attempt (timeout : Bool)
  | commitKind (k : EntryKind)
  | receipt (n : Nat)
  | sector (i : Nat)
  | calArea (sc : Scale)
  | calLock (sc : Scale)
  | store
  | storeInterrupted
  deriving DecidableEq, Repr

/-- The detail and time of the latest event that set a fault status bit (R191). -/
structure FaultRecord where
  detail : FaultDetail
  time : Nat
  deriving DecidableEq, Repr

/-- The first-fault record when it is not empty (R191). -/
structure FirstFault where
  kind : FaultKind
  detail : FaultDetail
  time : Nat
  more : Bool
  deriving DecidableEq, Repr

/-! ## Mode control (R26, R196, R200, R201) -/

/-- The part modes, numbered from 0 in this order (R196, R211). -/
inductive Mode where
  | starting | run | configPending | config | storing
  deriving DecidableEq, Repr

/-- One entry of the grade table, found by its position (R26). -/
structure Grade where
  defined : Bool
  name : List Byte
  active : Bool
  restricted : Bool
  holdHours : Nat
  stored : Nat
  live : Nat
  deriving DecidableEq, Repr

/-- The live settings (R200, R206), live prices beside the stored ones; also the shape of a settings image. Bit i of the fault
masks and severities is fault kind i; a set bit is masked, or STOP. -/
structure Settings where
  grades : List Grade
  ports : PerPort PortSettings
  scales : PerScale ScaleSettings
  claimTimeout : Nat
  tareValidity : Nat
  headers : List (List Byte)
  firstReceipt : Nat
  faultMasks : BitVec 11
  faultStops : BitVec 11
  deriving DecidableEq, Repr

/-- The settings store sector (R200): the image when it is programmed whole and its check value holds, and whether the valid
mark reads exactly its pattern. -/
structure Store where
  image : Option Settings
  marked : Bool
  deriving DecidableEq, Repr

/-- A store write in progress (R201): the staged image and the attempt, 1 or 2. -/
structure StoreWrite where
  staged : Settings
  attempt : Nat
  deriving DecidableEq, Repr

/-! ## The machine -/

/-- The state of the part, and the queue of commands that are waiting. -/
structure State where
  pending : List Instr
  -- power and mode
  supply : Bool
  resetHigh : Bool
  lostSupply : Bool
  mode : Mode
  settings : Settings
  dirty : Bool
  storeRecord : Bool
  storeWrite : Option StoreWrite
  store : Store
  -- scales
  channels : PerScale Channel
  cal : PerScale CalArea
  calJobs : PerScale (Option CalJob)
  -- tares, tickets, clock
  tares : List (Option Tare)
  tickets : List Ticket
  nextTicket : Nat
  clock : Nat
  clockSet : Bool
  holds : List HoldEntry
  -- settlement and the journal
  settlements : List Settlement
  journal : Memory
  sectors : List Sector
  scanned : Bool
  counter : Nat
  exhausted : Bool
  commitQueue : List CommitReq
  head : Option Head
  engine : Engine
  pass : Option Pass
  pendingMarks : List MarkReq
  lowFlag : Bool
  eraseRecord : Option Nat
  -- printing
  jobs : List (Option Job)
  pe : PrintEngine
  ageCounter : Nat
  backlog : Option Backlog
  -- shift totals
  tally : Tally
  snapshot : Option Snapshot
  -- station ports
  ports : PerPort PortCtx
  faults : List (Option FaultRecord)
  firstFault : Option FirstFault
  -- the model's own: the index of the next free value, and the millisecond of the timers' second
  free : Nat
  msPhase : Nat
  deriving DecidableEq, Repr

/-- No event of the part stops it: a refused request is a result code and a device failure a fault status bit (log 31).
There is no fault for anything to raise; nothing is lost by that, so it is safe. -/
inductive Fault where
  deriving DecidableEq, Repr

/-- Why a command has no meaning. -/
inductive Refusal where
  /-- Raised by an arm of exec whose meaning is not written yet. Safe: the model stops. No arm uses it. -/
  | notModelled (mnemonic : String)
  deriving DecidableEq, Repr

/-! ## Reset -/

/-- An undefined grade (R26). -/
def Grade.undefined : Grade := ⟨false, List.replicate 8 0x20#8, false, false, 0, 0, 0⟩

/-- The default scale settings (R1). -/
def ScaleSettings.default : ScaleSettings := ⟨true, 10, 45, 10, .manual⟩

/-- The default filter: every broadcast kind and every scale (R189). -/
def Filter.all : Filter := ⟨0xFF#8, 0b111#3⟩

/-- The default live settings, which a cold start takes from an invalid store (R200). The scale masks of S0, S2 and S3, where
the table of R181 has a dash, are empty: DESIGN CHOICE, log 37. -/
def Settings.default : Settings where
  grades := List.replicate 64 Grade.undefined
  ports := ⟨⟨.office, 0b000#3, Filter.all⟩, ⟨.scale, 0b111#3, Filter.all⟩, ⟨.window, 0b000#3, Filter.all⟩,
    ⟨.view, 0b000#3, Filter.all⟩⟩
  scales := ⟨ScaleSettings.default, ScaleSettings.default, ScaleSettings.default⟩
  claimTimeout := 180
  tareValidity := 30
  headers := List.replicate 3 (List.replicate 32 0x20#8)
  firstReceipt := 1
  faultMasks := 0b00000000000#11
  faultStops := 0b00110111000#11

/-- A channel right after a cold start of an enabled scale with a blank calibration area (R23, R24). -/
def Channel.fresh : Channel :=
  ⟨.empty, none, none, none, 0, 0, none, none, 0, 0, none, 0, 0, 0, false, none, []⟩

/-- A blank calibration area (R216). -/
def CalArea.blank : CalArea := ⟨[], 0xFF#8⟩

/-- A sector found blank by the scan (R141). -/
def Sector.unchecked : Sector := ⟨.blankUnchecked, none, 0, List.replicate 16 .blank, List.replicate 16 0xFF#8⟩

/-- The print engine right after a start: paused with cause START, its status query sent (R146, R157). -/
def PrintEngine.start : PrintEngine :=
  ⟨.idle, none, false, false, true, .ok, .closed, 0, .normal, none, some 5, [], [0x05#8]⟩

/-- The tally of shift 1, opened at yard time `t` (R174). -/
def Tally.first (t : Nat) : Tally := ⟨1, t, 0, 0, 0, 0, false, List.replicate 64 ⟨0, 0, 0, 0⟩⟩

/-- The queue of every port after the first start of a new part (R208 and the example of section 11.6). -/
def resetQueue : List Notice :=
  [⟨.fault, some 9, List.replicate 4 0xFF#8, 0⟩, ⟨.fault, some 10, List.replicate 4 0xFF#8, 0⟩,
    ⟨.fault, some 7, List.replicate 4 0xFF#8, 0⟩, ⟨.journalLow, none, [0#8, 0#8], 0⟩, ⟨.modeChange, none, [0#8, 1#8], 0⟩]

/-- A port after the first start of a new part (R175). -/
def PortCtx.reset : PortCtx := ⟨.idle, true, none, false, Filter.all, resetQueue, 0, none, 0#8, []⟩

/-- The part right after the first cold start of a new part, in RUN (R208 and the example of section 11.6; log 4). -/
def State.reset : State where
  pending := []
  supply := true
  resetHigh := true
  lostSupply := false
  mode := .run
  settings := Settings.default
  dirty := false
  storeRecord := false
  storeWrite := none
  store := ⟨none, false⟩
  channels := ⟨Channel.fresh, Channel.fresh, Channel.fresh⟩
  cal := ⟨CalArea.blank, CalArea.blank, CalArea.blank⟩
  calJobs := ⟨none, none, none⟩
  tares := List.replicate 32 none
  tickets := []
  nextTicket := 1
  clock := 0
  clockSet := false
  holds := []
  settlements := []
  journal := []
  sectors := List.replicate 32 Sector.unchecked
  scanned := true
  counter := 1
  exhausted := false
  commitQueue := []
  head := none
  engine := ⟨none, [], [], none⟩
  pass := none
  pendingMarks := []
  lowFlag := true
  eraseRecord := none
  jobs := List.replicate 16 none
  pe := PrintEngine.start
  ageCounter := 0
  backlog := none
  tally := Tally.first 0
  snapshot := none
  ports := ⟨PortCtx.reset, PortCtx.reset, PortCtx.reset, PortCtx.reset⟩
  faults := [none, none, none, none, none, none, none, some ⟨.none, 0⟩, none, some ⟨.none, 0⟩, some ⟨.none, 0⟩]
  firstFault := some ⟨.retentionLost, .none, 0, true⟩
  free := 0
  msPhase := 0

end Sys2Proof.Machine
end

