-- ==== Sys2Proof/Machine/Ops.lean ====
section
/-! DEFINITION. The named operations over the state that the meanings share: the collections of fixed shape, byte order,
the nonvolatile array, the codes of enumerations, notices, the fault status and results. -/

namespace Sys2Proof.Machine

/-! ## Collections -/

/-- The value of one scale. -/
def PerScale.get {α : Type} (v : PerScale α) : Scale → α
  | .a => v.a
  | .b => v.b
  | .p => v.p

/-- Replace the value of one scale. -/
def PerScale.set {α : Type} (v : PerScale α) : Scale → α → PerScale α
  | .a, x => { v with a := x }
  | .b, x => { v with b := x }
  | .p, x => { v with p := x }

/-- Change every scale's value. -/
def PerScale.map {α β : Type} (f : α → β) (v : PerScale α) : PerScale β := ⟨f v.a, f v.b, f v.p⟩

/-- The value of one port. -/
def PerPort.get {α : Type} (v : PerPort α) : Port → α
  | .s0 => v.s0
  | .s1 => v.s1
  | .s2 => v.s2
  | .s3 => v.s3

/-- Replace the value of one port. -/
def PerPort.set {α : Type} (v : PerPort α) : Port → α → PerPort α
  | .s0, x => { v with s0 := x }
  | .s1, x => { v with s1 := x }
  | .s2, x => { v with s2 := x }
  | .s3, x => { v with s3 := x }

/-- The scales in the order A, B, P. -/
def allScales : List Scale := [.a, .b, .p]

/-- The ports in the order S0 to S3. -/
def allPorts : List Port := [.s0, .s1, .s2, .s3]

/-- One scale's channel. -/
def State.chan (s : State) (sc : Scale) : Channel := s.channels.get sc

/-- Change one scale's channel. -/
def State.updChan (s : State) (sc : Scale) (f : Channel → Channel) : State :=
  { s with channels := s.channels.set sc (f (s.channels.get sc)) }

/-- One port's context. -/
def State.port (s : State) (p : Port) : PortCtx := s.ports.get p

/-- Change one port's context. -/
def State.updPort (s : State) (p : Port) (f : PortCtx → PortCtx) : State :=
  { s with ports := s.ports.set p (f (s.ports.get p)) }

/-- The live settings of one port (R181). -/
def State.portSettings (s : State) (p : Port) : PortSettings := s.settings.ports.get p

/-- The live settings of one scale (R1). -/
def State.scaleSettings (s : State) (sc : Scale) : ScaleSettings := s.settings.scales.get sc

/-! ## Byte order (R209) -/

/-- The `w` bytes of a number, most significant first (R209). -/
def be : Nat → Nat → List Byte
  | 0, _ => []
  | w + 1, n => BitVec.ofNat 8 (n / 256 ^ w) :: be w n

/-- The `w` bytes of a signed number, in two's complement (R209). -/
def beInt (w : Nat) (i : Int) : List Byte := be w (i % (256 ^ w : Nat)).toNat

/-- The number that bytes spell, most significant first. -/
def ofBytes (bs : List Byte) : Nat := bs.foldl (fun n b => 256 * n + b.toNat) 0

/-- The signed number that bytes spell in two's complement. -/
def ofBytesInt (bs : List Byte) : Int :=
  let n := ofBytes bs
  if 2 * n < 256 ^ bs.length then n else (n : Int) - (256 ^ bs.length : Nat)

/-- The bytes of an absent optional field (R209). -/
def absent (w : Nat) : List Byte := List.replicate w 0xFF#8

/-- A number, or the absent marker of its width. -/
def beOpt (w : Nat) : Option Nat → List Byte
  | some n => be w n
  | none => absent w

/-- A signed number, or the absent marker of its width. -/
def beIntOpt (w : Nat) : Option Int → List Byte
  | some i => beInt w i
  | none => absent w

/-- An optional receipt number: absent is 0 (R209). -/
def beReceipt (n : Option Nat) : List Byte := be 4 (n.getD 0)

/-- A flag: 1 when set, 0 when clear (R211). -/
def flag (b : Bool) : Byte := if b then 1#8 else 0#8

/-- A text with its length byte. -/
def sized (t : List Byte) : List Byte := BitVec.ofNat 8 t.length :: t

/-- An optional ID: its length byte and characters, or 0xFF for an absent one (R209, log 15). -/
def sizedOpt : Option (List Byte) → List Byte
  | some t => sized t
  | none => [0xFF#8]

/-- A result's flag byte, bit i for the i-th presence (R209, log 15). -/
def flagByte (bs : List Bool) : Byte := BitVec.ofNat 8 (bs.foldr (fun b n => 2 * n + b.toNat) 0)

/-! ## The nonvolatile array (R116): programming clears bits, an erase sets them -/

/-- The byte at an address; an unlisted address is blank. -/
def memRead : Memory → Nat → Byte
  | [], _ => 0xFF#8
  | (a, v) :: m, x => if a = x then v else memRead m x

/-- Store a byte, keeping the canonical form. -/
def memWrite : Memory → Nat → Byte → Memory
  | [], x, v => if v = 0xFF#8 then [] else [(x, v)]
  | (a, w) :: m, x, v =>
    if x < a then (if v = 0xFF#8 then (a, w) :: m else (x, v) :: (a, w) :: m)
    else if x = a then (if v = 0xFF#8 then m else (x, v) :: m)
    else (a, w) :: memWrite m x v

/-- The canonical form of a memory: addresses strictly rising, no blank byte listed. -/
def Memory.wf : Memory → Bool
  | [] => true
  | (a, v) :: m => v != 0xFF#8 && m.all (fun c => a < c.1) && Memory.wf m

/-- `n` bytes from an address. -/
def memBytes (m : Memory) (a n : Nat) : List Byte :=
  let m' := m.filter (fun c => a ≤ c.1 && c.1 < a + n)
  (List.range n).map (fun i => memRead m' (a + i))

/-- The byte that programming `b` over `old` leaves, when `stuck` bits do not clear and `lost` bits clear unasked. -/
def programByte (old b stuck lost : Byte) : Byte := (old &&& (b ||| stuck)) &&& ~~~lost

/-- Program bytes from an address on (R116). -/
def memProgram (m : Memory) (a : Nat) : List Byte → List Byte → List Byte → Memory
  | [], _, _ => m
  | b :: bs, stuck, lost =>
    memProgram (memWrite m a (programByte (memRead m a) b (stuck.headD 0#8) (lost.headD 0#8))) (a + 1) bs stuck.tail
      lost.tail

/-- Program bytes and read them back: the memory, and whether it reads what was programmed (R123). -/
def memProgramVerify (m : Memory) (a : Nat) (bs : List Byte) (c : Cells) : Memory × Bool :=
  let m' := memProgram m a bs c.stuck c.lost
  (m', memBytes m' a bs.length == bs)

/-- Return `n` bytes from an address on to blank. -/
def memErase (m : Memory) (a n : Nat) : Memory := m.filter (fun c => !(a ≤ c.1 && c.1 < a + n))

/-- Bytes at offsets below `n` from `a` that now read otherwise (log 7). -/
def memDecay (m : Memory) (a n : Nat) (d : List (Nat × Byte)) : Memory :=
  d.foldl (fun m c => if c.1 < n then memWrite m (a + c.1) c.2 else m) m

/-! ## Codes of enumerations (R209, R211, R212) -/

/-- Scale codes: 1 for A, 2 for B, 3 for P. -/
def scaleCode : Scale → Nat
  | .a => 1
  | .b => 2
  | .p => 3

/-- The bit of a scale in a scale mask. -/
def scaleBit (sc : Scale) : Nat := scaleCode sc - 1

/-- Port codes: 0 to 3. -/
def portCode : Port → Nat
  | .s0 => 0
  | .s1 => 1
  | .s2 => 2
  | .s3 => 3

/-- Class codes. -/
def classCode : Class → Nat
  | .bridge => 1
  | .platform => 2

/-- Codes of capture and weighing kinds. -/
def captureCode : CaptureKind → Nat
  | .gross => 1
  | .drop => 2
  | .tare => 3
  | .storeTare => 4

/-- Codes of scale states. -/
def scaleStateCode : ScaleState → Nat
  | .disabled => 0
  | .empty => 1
  | .moving => 2
  | .stable => 3
  | .overload => 4
  | .fault => 5

/-- Codes of last bad causes. -/
def badCauseCode : BadCause → Nat
  | .check => 0
  | .sequence => 1
  | .cells => 2
  | .overRange => 3
  | .digitizer => 4
  | .silence => 5

/-- Codes of recovery modes. -/
def recoveryCode : Recovery → Nat
  | .manual => 0
  | .auto => 1

/-- Codes of ticket states. -/
def ticketStateCode : TicketState → Nat
  | .opened => 0
  | .onYard => 1
  | .held => 2
  | .payable => 3
  | .committing => 4

/-- Codes of tare sources. -/
def tareSourceCode : TareSource → Nat
  | .weighed => 0
  | .stored _ => 1

/-- Codes of commit and entry kinds. -/
def entryKindCode : EntryKind → Nat
  | .payout => 1
  | .void => 2
  | .shift => 3

/-- Codes of sector states. -/
def sectorStateCode : SectorState → Nat
  | .blankUnchecked => 0
  | .erased => 1
  | .filling => 2
  | .full => 3
  | .erasing => 4
  | .bad => 5

/-- Codes of job kinds. -/
def jobKindCode : JobKind → Nat
  | .original => 0
  | .duplicate => 1
  | .voidSlip => 2
  | .shiftReport => 3
  | .tally => 4

/-- Codes of job states. -/
def jobStateCode : JobState → Nat
  | .reserved => 0
  | .queued => 1
  | .printing => 2
  | .retryWait => 3

/-- Codes of print engine activities. -/
def activityCode : Activity → Nat
  | .idle => 0
  | .fetching => 1
  | .sending => 2
  | .awaiting => 3

/-- Codes of paper conditions. -/
def paperCode : Paper → Nat
  | .ok => 0
  | .low => 1
  | .out => 2

/-- Codes of cover conditions. -/
def coverCode : Cover → Nat
  | .closed => 0
  | .opened => 1

/-- Codes of link states. -/
def linkCode : Link → Nat
  | .normal => 0
  | .warn => 1
  | .offline => 2

/-- Codes of roles. -/
def roleCode : Role → Nat
  | .view => 0
  | .scale => 1
  | .window => 2
  | .office => 3

/-- Codes of part modes. -/
def modeCode : Mode → Nat
  | .starting => 0
  | .run => 1
  | .configPending => 2
  | .config => 3
  | .storing => 4

/-- Codes of port states. -/
def portStateCode : PortState → Nat
  | .idle => 0
  | .busy => 1
  | .done => 2

/-- The number of a fault kind, its bit in the kinds, masks and severities fields. -/
def faultIndex : FaultKind → Nat
  | .scaleFaultA => 0
  | .scaleFaultB => 1
  | .scaleFaultP => 2
  | .printerOffline => 3
  | .journalFull => 4
  | .journalMedia => 5
  | .tornFound => 6
  | .settingsLost => 7
  | .storeMedia => 8
  | .retentionLost => 9
  | .clockUnset => 10

/-- The result codes in the order of R211. -/
def resultCodes : List ResultCode :=
  [.ok, .armed, .format, .role, .mode, .disabled, .self, .noTicket, .state, .held, .claimed, .notClaimed, .claimsFull,
    .tableFull, .capturePending, .scaleBusy, .scaleState, .cls, .grade, .linesFull, .weighingsFull, .sellerIdRequired,
    .clockUnset, .range, .order, .noTare, .tareExpired, .journalFull, .queueFull, .media, .auditUnprinted, .tooLate,
    .tallyPending, .locked, .counterSpent]

/-- The number of a result code (R211). -/
def resultCode (c : ResultCode) : Nat := resultCodes.idxOf c

/-- The number of a notice kind, 1 to 13 (R212). -/
def noticeCode : NoticeKind → Nat
  | .weighed => 1
  | .weighFailed => 2
  | .claimExpired => 3
  | .printDone => 4
  | .auditDone => 5
  | .printAbandoned => 6
  | .ticketPayable => 7
  | .receiptCommitted => 8
  | .scaleState => 9
  | .printerState => 10
  | .journalLow => 11
  | .modeChange => 12
  | .fault => 13

/-- The bit of a broadcast kind in a kind mask (R210); the other kinds are addressed only. -/
def broadcastBit : NoticeKind → Option Nat
  | .ticketPayable => some 0
  | .receiptCommitted => some 1
  | .scaleState => some 2
  | .printerState => some 3
  | .journalLow => some 4
  | .modeChange => some 5
  | .fault => some 6
  | .printAbandoned => some 7
  | _ => none

/-! ## Notices (R184 to R187, R212) -/

/-- The 28 bytes of a notice (R212). -/
def noticeBytes (n : Notice) : List Byte :=
  BitVec.ofNat 8 (noticeCode n.kind) :: beOpt 4 n.subject ++ (n.detail ++ List.replicate 19 0#8).take 19 ++ be 4 n.time

/-- Whether a filter admits a broadcast (R185 step 2). -/
def admits (f : Filter) (n : Notice) : Bool :=
  (match broadcastBit n.kind with
    | some i => f.kinds.getLsbD i
    | none => true) &&
  (n.kind != .scaleState || f.scales.getLsbD (n.subject.getD 0 - 1))

/-- Whether a queue already holds the notice that stands for this one (R186). -/
def coalesces (n : Notice) (q : List Notice) : Bool :=
  (n.kind == .scaleState && q.any (fun m => m.kind == .scaleState && m.subject == n.subject)) ||
  (n.kind == .printerState && q.any (fun m => m.kind == .printerState))

/-- A notice enters a queue, or is dropped by a full one (R185 step 4, R187). -/
def enqueue (n : Notice) (c : PortCtx) : PortCtx :=
  if c.queue.length < 8 then { c with queue := c.queue ++ [n] } else { c with overflow := min 255 (c.overflow + 1) }

/-- A port hears a broadcast (R185 steps 2 to 4). -/
def hear (n : Notice) (c : PortCtx) : PortCtx :=
  if admits c.filter n then (if coalesces n c.queue then c else enqueue n c) else c

/-- Offer an addressed notice to one port: it passes every filter (R185). -/
def offerTo (p : Port) (n : Notice) (s : State) : State := s.updPort p (enqueue n)

/-- Offer a broadcast to every port, enabled or disabled (R185). -/
def broadcast (n : Notice) (s : State) : State :=
  { s with ports := ⟨hear n s.ports.s0, hear n s.ports.s1, hear n s.ports.s2, hear n s.ports.s3⟩ }

/-- Offer a broadcast to the OFFICE-role ports other than one (R185 step 1). -/
def broadcastOffice (except : Option Port) (n : Notice) (s : State) : State :=
  allPorts.foldl (fun s p =>
    if (s.portSettings p).role = .office ∧ except ≠ some p then s.updPort p (hear n) else s) s

/-! ## The fault status (R191) -/

/-- The four bytes of a setting event's detail (R212, log 17); a kind without a detail has the absent marker. -/
def faultDetailBytes : FaultDetail → List Byte
  | .none => absent 4
  | .badCause c => be 4 (badCauseCode c)
  | .attempt t => be 4 t.toNat
  | .commitKind k => be 4 (entryKindCode k)
  | .receipt n => be 4 n
  | .sector i => be 4 i
  | .calArea sc => be 4 (Config.storeMediaCode 0 (scaleCode sc)).toNat
  | .calLock sc => be 4 (Config.storeMediaCode 1 (scaleCode sc)).toNat
  | .store => be 4 (Config.storeMediaCode 2 0).toNat
  | .storeInterrupted => be 4 (Config.storeMediaCode 3 0).toNat

/-- The record of a fault kind whose status bit is set. -/
def State.fault (s : State) (k : FaultKind) : Option FaultRecord := s.faults.getD (faultIndex k) none

/-- Whether a fault kind is masked (R192). -/
def State.masked (s : State) (k : FaultKind) : Bool := s.settings.faultMasks.getLsbD (faultIndex k)

/-- The first-fault record after a newly set unmasked kind (R191). -/
def noteFirstFault (k : FaultKind) (d : FaultDetail) (t : Nat) : Option FirstFault → Option FirstFault
  | none => some ⟨k, d, t, false⟩
  | some r => some { r with more := true }

/-- A setting event of the fault status (R191). -/
def setFault (k : FaultKind) (d : FaultDetail) (s : State) : State :=
  let fresh := (s.fault k).isNone && !s.masked k
  let s := { s with faults := s.faults.set (faultIndex k) (some ⟨d, s.clock⟩) }
  if fresh then
    broadcast ⟨.fault, some (faultIndex k), faultDetailBytes d, s.clock⟩
      { s with firstFault := noteFirstFault k d s.clock s.firstFault }
  else s

/-! ## Results (R177, R179) -/

/-- Write a port's result; the port goes to DONE. -/
def reply (p : Port) (code : ResultCode) (data : List Byte) (s : State) : State :=
  s.updPort p (fun c => { c with state := .done, result := some ⟨code, data⟩ })

/-- Answer with a code and no data. -/
def refuse (p : Port) (code : ResultCode) (s : State) : State := reply p code [] s

/-- Whether the part takes events: the main supply is present and RESET_N is high (R206). -/
def State.powered (s : State) : Bool := s.supply && s.resetHigh

/-- An event that is not a frame: the part takes it only while powered (R206). -/
def event (s : State) (f : State → State) : Host.Outcome State Fault Refusal := .next (if s.powered then f s else s)

/-! ## Free values (log 14) -/

/-- The next free value, and the state that has used it. -/
def State.takeFree (s : State) : Nat × State := ((Config.freeWord s.free).toNat, { s with free := s.free + 1 })

/-- A value of 32 bits: the number when it fits, else a free value. -/
def State.fit32 (s : State) (n : Nat) : Nat × State := if n < 2 ^ 32 then (n, s) else s.takeFree

end Sys2Proof.Machine
end

