-- ==== Sys2Proof/Machine/Operands.lean ====
section
/-! DEFINITION. The operand forms of the requests: what a scale code, a port code, an ID, a ticket number and a role stand for,
and the constants of each scale. -/

namespace Sys2Proof.Machine

/-! ## The constants of a scale (table of weights, R1) -/

/-- The class of a scale. -/
def scaleClass : Scale → Class
  | .a => .bridge
  | .b => .bridge
  | .p => .platform

/-- The division of a class: 200 units on a bridge, 2 on the platform. -/
def classDivision : Class → Nat
  | .bridge => 200
  | .platform => 2

/-- The division of a scale. -/
def division (sc : Scale) : Nat := classDivision (scaleClass sc)

/-- The capacity of a scale. -/
def capacity : Scale → Nat
  | .a => 600000
  | .b => 600000
  | .p => 15000

/-- The weight above which a scale is in overload: capacity plus nine divisions (R8). -/
def overloadAbove (sc : Scale) : Nat := capacity sc + 9 * division sc

/-- The bound of the zero offset: 2% of capacity (R1). -/
def zeroBound (sc : Scale) : Nat := capacity sc / 50

/-- The minimum load: 20 divisions (R73). -/
def minimumLoad (sc : Scale) : Nat := 20 * division sc

/-- The number of cells of a scale (R1). -/
def cellCount : Scale → Nat
  | .a => 4
  | .b => 4
  | .p => 1

/-- The fault kind of a scale's entry into FAULT (R12). -/
def scaleFaultKind : Scale → FaultKind
  | .a => .scaleFaultA
  | .b => .scaleFaultB
  | .p => .scaleFaultP

/-! ## Codes in operands (R209, R210) -/

/-- The scale of a scale code. -/
def scaleOf (b : Byte) : Option Scale :=
  if b = 1#8 then some .a else if b = 2#8 then some .b else if b = 3#8 then some .p else none

/-- The port of a port code. -/
def portOf (b : Byte) : Option Port :=
  if b = 0#8 then some .s0 else if b = 1#8 then some .s1 else if b = 2#8 then some .s2
  else if b = 3#8 then some .s3 else none

/-- The class of a class code. -/
def classOf (b : Byte) : Option Class := if b = 1#8 then some .bridge else if b = 2#8 then some .platform else none

/-- The kind of a WEIGH with the ticket layout (R210). -/
def weighKindOf (b : Byte) : Option CaptureKind :=
  if b = 1#8 then some .gross else if b = 2#8 then some .drop else if b = 3#8 then some .tare else none

/-- The role of a role code. -/
def roleOf (b : Byte) : Option Role :=
  if b = 0#8 then some .view else if b = 1#8 then some .scale else if b = 2#8 then some .window
  else if b = 3#8 then some .office else none

/-- The recovery mode of its code. -/
def recoveryOf (b : Byte) : Option Recovery := if b = 0#8 then some .manual else if b = 1#8 then some .auto else none

/-- The job kind of its code. -/
def jobKindOf (b : Byte) : Option JobKind :=
  if b = 0#8 then some .original else if b = 1#8 then some .duplicate else if b = 2#8 then some .voidSlip
  else if b = 3#8 then some .shiftReport else if b = 4#8 then some .tally else none

/-- A printable character: 0x20 to 0x7E. -/
def printable (b : Byte) : Bool := 0x20 ≤ b.toNat && b.toNat ≤ 0x7E

/-- An ID of `lo` to `hi` printable characters. -/
def idOk (lo hi : Nat) (t : List Byte) : Bool := lo ≤ t.length && t.length ≤ hi && t.all printable

/-- A grade code, 1 to 64. -/
def gradeOk (g : Byte) : Bool := 1 ≤ g.toNat && g.toNat ≤ 64

/-- An optional vehicle ID: the one of length 0 is none (R45, R46). -/
def optionalId (t : List Byte) : Option (List Byte) := if t.isEmpty then none else some t

/-! ## The grade table (R26) -/

/-- The entry of a grade code. -/
def State.grade (s : State) (g : Nat) : Grade := s.settings.grades.getD (g - 1) Grade.undefined

/-- Whether weight may be attributed to a grade: it is defined and active (R27). -/
def State.gradeActive (s : State) (g : Nat) : Bool := (s.grade g).defined && (s.grade g).active

/-- Whether a grade is restricted. -/
def State.gradeRestricted (s : State) (g : Nat) : Bool := (s.grade g).restricted

/-- Whether a ticket is restricted: while any of its lines has a restricted grade (R27). -/
def State.ticketRestricted (s : State) (t : Ticket) : Bool := t.lines.any (fun l => s.gradeRestricted l.grade)

/-! ## Roles (R181) -/

/-- The role of a port. -/
def State.role (s : State) (p : Port) : Role := (s.portSettings p).role

/-- OFFICE-role. -/
def State.isOffice (s : State) (p : Port) : Bool := s.role p == .office

/-- SCALE-role or OFFICE-role. -/
def State.isScaleOrOffice (s : State) (p : Port) : Bool := s.role p == .scale || s.role p == .office

/-- WINDOW-role or OFFICE-role. -/
def State.isWindowOrOffice (s : State) (p : Port) : Bool := s.role p == .window || s.role p == .office

/-- Every role but VIEW. -/
def State.notView (s : State) (p : Port) : Bool := s.role p != .view

/-- OFFICE-role, or SCALE-role with the scale in its mask; a code that is no scale lies in no mask (R68). -/
def State.maskAdmits (s : State) (p : Port) (scale : Byte) : Bool :=
  s.isOffice p ||
  (s.role p == .scale &&
    match scaleOf scale with
    | some sc => (s.portSettings p).scaleMask.getLsbD (scaleBit sc)
    | none => false)

/-! ## Tickets (R43) -/

/-- The ticket outside FREE that carries a number. -/
def State.ticket (s : State) (n : Nat) : Option Ticket := s.tickets.find? (fun t => t.number == n)

/-- Change the ticket that carries a number. -/
def State.updTicket (s : State) (n : Nat) (f : Ticket → Ticket) : State :=
  { s with tickets := s.tickets.map (fun t => if t.number == n then f t else t) }

/-- The ticket's slot becomes FREE (R39). -/
def State.freeTicket (s : State) (n : Nat) : State := { s with tickets := s.tickets.filter (fun t => t.number != n) }

/-- The ticket number check of R43: the code that refuses it, or the ticket. -/
def State.namedTicket (s : State) (n : Half) : Except ResultCode Ticket :=
  if n.toNat = 0 ∨ 9999 < n.toNat then .error .range
  else match s.ticket n.toNat with
    | none => .error .noTicket
    | some t => .ok t

/-- A claim that is present and names another port (R43). -/
def claimedByOther (p : Port) (t : Ticket) : Bool :=
  match t.claim with
  | some c => c.port != p
  | none => false

/-- The claims a port holds (R87). -/
def State.claimsHeld (s : State) (p : Port) : Nat :=
  s.tickets.countP (fun t => match t.claim with | some c => c.port == p | none => false)

/-- Whether the ticket has a line of the grade, or room for one (R68 check 12, R54 check 11). -/
def lineFits (t : Ticket) (g : Nat) : Bool := t.lines.any (fun l => l.grade == g) || t.lines.length < 8

end Sys2Proof.Machine
end

