-- ==== Sys2Proof/Machine/Flags.lean ====
section
/-! DEFINITION. Every flag and output that the spec derives from the state: WARN, loaded and stable, the link state, the drain
conditions, the summary byte, the attention and FAULT outputs; and the frame of a request, which reads them. -/

namespace Sys2Proof.Machine

/-! ## Scale channels (R1) -/

/-- WARN: the frame fault count is 96 or more. -/
def warn (c : Channel) : Bool := 96 ≤ c.faultCount

/-- The empty limit of a scale in weight units. -/
def State.emptyLimit (s : State) (sc : Scale) : Nat := (s.scaleSettings sc).empty * division sc

/-- Loaded: the weight is present and above the empty limit. -/
def State.loaded (s : State) (sc : Scale) : Bool :=
  match (s.chan sc).weight with
  | some w => (s.emptyLimit sc : Int) < w
  | none => false

/-- Stable: the motion count is at least the settle count. -/
def State.stable (s : State) (sc : Scale) : Bool := (s.scaleSettings sc).settle ≤ (s.chan sc).motion

/-! ## Print engine (R146) -/

/-- The link state that follows a link error count, while the link is not OFFLINE. -/
def linkOf (n : Nat) : Link := if 128 ≤ n then .offline else if 64 ≤ n then .warn else .normal

/-- Paused: any cause stands. -/
def paused (e : PrintEngine) : Bool := e.pausePaper || e.pauseCover || e.pauseStart

/-- The pause causes as one byte (R211). -/
def pauseByte (e : PrintEngine) : Byte := flagByte [e.pausePaper, e.pauseCover, e.pauseStart]

/-- The number of free print slots (R145). -/
def State.freeSlots (s : State) : Nat := s.jobs.countP Option.isNone

/-! ## Station ports (R180, R190, R192, R210) -/

/-- The summary byte of a port (R210). -/
def summaryByte (c : PortCtx) : Byte :=
  BitVec.ofNat 8 (64 * portStateCode c.state + 32 * c.enabled.toNat + 16 * (!c.queue.isEmpty).toNat + 8 * c.overrun.toNat)

/-- The attention output of a port (R190); deasserted while the part takes no events (R206). -/
def State.attention (s : State) (p : Port) : Bool :=
  s.powered && (!(s.port p).queue.isEmpty || (s.port p).state == .done)

/-- The fault kinds in the order of R191. -/
def faultKinds : List FaultKind :=
  [.scaleFaultA, .scaleFaultB, .scaleFaultP, .printerOffline, .journalFull, .journalMedia, .tornFound, .settingsLost,
    .storeMedia, .retentionLost, .clockUnset]

/-- Whether a fault kind's severity is STOP (R192). -/
def State.stops (s : State) (k : FaultKind) : Bool := s.settings.faultStops.getLsbD (faultIndex k)

/-- Whether any status bit is set (R180). -/
def State.anyFault (s : State) : Bool := faultKinds.any (fun k => (s.fault k).isSome)

/-- Whether any unmasked status bit is set (R180). -/
def State.anyUnmaskedFault (s : State) : Bool := faultKinds.any (fun k => (s.fault k).isSome && !s.masked k)

/-- The FAULT output (R192); deasserted while the part takes no events (R206). -/
def State.faultOutput (s : State) : Bool :=
  s.powered && faultKinds.any (fun k => (s.fault k).isSome && !s.masked k && s.stops k)

/-- The status bits as one number, bit i for kind i (R194). -/
def State.faultBits (s : State) : Nat :=
  faultKinds.foldr (fun k n => 2 * n + (s.fault k).isSome.toNat) 0

/-! ## The drain conditions (R197) -/

/-- No scale holds an armed capture. -/
def State.noCapture (s : State) : Bool := allScales.all (fun sc => (s.chan sc).capture.isNone)

/-- No commit is queued or in progress, and the settlement list is empty. -/
def State.noCommit (s : State) : Bool := s.commitQueue.isEmpty && s.settlements.isEmpty

/-- No print job is PRINTING. -/
def State.noPrinting (s : State) : Bool :=
  s.jobs.all (fun j => match j with | some j => j.state != .printing | none => true)

/-- All five drain conditions. -/
def State.drained (s : State) : Bool :=
  s.noCapture && s.noCommit && s.noPrinting && s.pass.isNone && s.storeWrite.isNone

/-! ## The frame of a request (R176 to R178) -/

/-- The byte at a place from the reply's start of a port's latest frame: those listed, and 0x00 after them, which is every byte
of a request frame's and every byte behind a stream's end block (R138, R176, R179; log 22). -/
def replyByte (c : PortCtx) (k : Nat) : Byte := c.dataOut.getD k 0x00#8

/-- The data output of a request frame: the summary byte, then 0x00 (R176). -/
def beginFrame (p : Port) (s : State) : State :=
  s.updPort p (fun c => { c with summaryOut := summaryByte c, dataOut := [] })

/-- A request frame is taken: discarded with the overrun flag by a BUSY port (R178), else the buffer is emptied and the port
is BUSY while `f` handles the request (R177). -/
def takeFrame (p : Port) (f : State → State) (s : State) : State :=
  let s := beginFrame p s
  if (s.port p).state = .busy then s.updPort p (fun c => { c with overrun := true })
  else f (s.updPort p (fun c => { c with state := .busy, result := none }))

/-- A well-formed request: DISABLED on a disabled port, else handed to its owner (R177). -/
def request (p : Port) (s : State) (f : State → State) : Host.Outcome State Fault Refusal :=
  event s (takeFrame p (fun s => if (s.port p).enabled then f s else refuse p .disabled s))

/-- Checks made in order: the first that fails refuses the request with its code and changes nothing else. -/
def guarded (p : Port) : List (Bool × ResultCode) → (State → State) → State → State
  | [], f, s => f s
  | (ok, code) :: cs, f, s => if ok then guarded p cs f s else refuse p code s

/-- The ticket number check of R43, and the ticket it finds. -/
def withTicket (p : Port) (n : Half) (f : Ticket → State → State) (s : State) : State :=
  match s.namedTicket n with
  | .error code => refuse p code s
  | .ok t => f t s

/-- The mode is not STARTING. -/
def State.started (s : State) : Bool := s.mode != .starting

/-- The mode is RUN. -/
def State.isRun (s : State) : Bool := s.mode == .run

/-- The mode is CONFIG. -/
def State.isConfig (s : State) : Bool := s.mode == .config

end Sys2Proof.Machine
end

