-- ==== Sys2Proof/Machine/Journal.lean ====
section
/-! DEFINITION. The journal as the sector map shows it: marks, the ring, the ahead run, retained entries, the audit mark and
journal space (R116 to R121, R131, R133). -/

namespace Sys2Proof.Machine

/-! ## Marks (R119, R215) -/

/-- The byte that programs a mark over a blank one: the bits it clears are 0. -/
def markPattern : Mark → Byte
  | .blank => 0xFF#8
  | .started => 0x7F#8
  | .complete => 0x3F#8
  | .printed => 0x1F#8
  | .torn => 0x6F#8
  | .audited => 0x77#8
  | .badPattern => 0x00#8

/-- Whether a status byte carries the bits of a mark: all that the mark clears are cleared in it. -/
def carries (b : Byte) (m : Mark) : Bool := b ||| markPattern m == markPattern m

/-- What a status byte reads as (R119): the most advanced mark whose bits it carries. -/
def readMark (b : Byte) : Mark :=
  if b = 0xFF#8 then .blank
  else if b = 0x00#8 then .badPattern
  else if carries b .audited then .audited
  else if carries b .torn then .torn
  else if carries b .printed then .printed
  else if carries b .complete then .complete
  else .started

/-- The address of an entry's first byte, its status byte. -/
def entryAddr (sector slot : Nat) : Nat := 4096 * sector + 256 * slot

/-! ## The sector map (R116) -/

/-- One record of the sector map. -/
def State.sector (s : State) (i : Nat) : Sector := s.sectors.getD i Sector.unchecked

/-- Change one record of the sector map. -/
def State.updSector (s : State) (i : Nat) (f : Sector → Sector) : State :=
  { s with sectors := s.sectors.set i (f (s.sector i)) }

/-- The map's copy of a slot's mark. -/
def State.slotMark (s : State) (i slot : Nat) : Mark := (s.sector i).marks.getD slot .blank

/-- Set the map's copy of a slot's mark. -/
def State.setSlotMark (s : State) (i slot : Nat) (m : Mark) : State :=
  s.updSector i (fun c => { c with marks := c.marks.set slot m })

/-- A sector that holds entries the ports can see. -/
def holdsEntries (c : Sector) : Bool := c.state == .filling || c.state == .full

/-- The head commit whose STARTED mark has been programmed: its entry is retained (R116). -/
def State.inProgress (s : State) : Option Head :=
  s.head.filter (fun h => h.step == .body || h.step == .complete)

/-- How many slots of a sector hold retained entries. -/
def State.extent (s : State) (i : Nat) : Nat :=
  if holdsEntries (s.sector i) then
    (s.sector i).used + (match s.inProgress with | some h => if h.sector = i then 1 else 0 | none => 0)
  else 0

/-- The sector indexes in order. -/
def sectorIndexes : List Nat := List.range 32

/-- The lowest of some numbers. -/
def minOf : List Nat → Option Nat
  | [] => none
  | n :: ns => some (ns.foldl min n)

/-- The highest of some numbers. -/
def maxOf : List Nat → Option Nat
  | [] => none
  | n :: ns => some (ns.foldl max n)

/-- The oldest retained receipt number. -/
def State.oldest (s : State) : Option Nat :=
  minOf (sectorIndexes.filterMap fun i => if 0 < s.extent i then (s.sector i).first else none)

/-- The newest retained receipt number. -/
def State.newest (s : State) : Option Nat :=
  maxOf (sectorIndexes.filterMap fun i =>
    if 0 < s.extent i then (s.sector i).first.map (· + s.extent i - 1) else none)

/-- The newest retained entry whose slot's programming has ended: COMPLETE, TORN or a later mark (R138). -/
def State.newestDone (s : State) : Option Nat :=
  maxOf (sectorIndexes.filterMap fun i =>
    let c := s.sector i
    if holdsEntries c && 0 < c.used then c.first.map (· + c.used - 1) else none)

/-- Whether a receipt number falls in a sector's range (R117). -/
def inSector (c : Sector) (n : Nat) : Bool :=
  holdsEntries c && (match c.first with | some f => f ≤ n && n ≤ f + 15 | none => false)

/-- The slot of a sector that retains a receipt number (R117). -/
def State.slotIn (s : State) (n i : Nat) : Option Nat :=
  let slot := n - (s.sector i).first.getD 0
  if inSector (s.sector i) n && slot < s.extent i then some slot else none

/-- The places, sector and slot, of every retained entry that carries a receipt number. R120 gives each number one entry; a number
that R141 case 4 guesses can be another sector's too, and the places then stand in the order of the sector indexes (log 62). -/
def State.places (s : State) (n : Nat) : List (Nat × Nat) :=
  sectorIndexes.filterMap (fun i => (s.slotIn n i).map (fun slot => (i, slot)))

/-- Look a receipt number up in the map: its sector and slot when it is retained (R117). Of several entries that carry the number it
is the one in the sector of the lowest index (log 62). -/
def State.lookup (s : State) (n : Nat) : Option (Nat × Nat) := (s.places n).head?

/-- The place of the first retained entry of a number that does not carry AUDITED. -/
def State.unaudited (s : State) (n : Nat) : Option (Nat × Nat) :=
  (s.places n).find? (fun x => s.slotMark x.1 x.2 != .audited)

/-- The mark of a retained entry in the map. -/
def State.entryMark (s : State) (n : Nat) : Option Mark := (s.lookup n).map (fun (i, slot) => s.slotMark i slot)

/-- The 256 bytes of a place in the region. -/
def State.entryBytes (s : State) (i slot : Nat) : List Byte := memBytes s.journal (entryAddr i slot) 256

/-- Program one status byte with a mark and read it back: the new state, its map copy untouched, and the byte as it reads. -/
def State.programMark (s : State) (i slot : Nat) (m : Mark) (c : Cells) : State × Byte :=
  let j := memProgram s.journal (entryAddr i slot) [markPattern m] c.stuck c.lost
  ({ s with journal := j }, memRead j (entryAddr i slot))

/-! ## The ring (R116, R117, R131) -/

/-- The current sector (R117). -/
def State.current (s : State) : Option Nat :=
  match sectorIndexes.find? (fun i => (s.sector i).state == .filling) with
  | some i => some i
  | none =>
    match s.newest with
    | none => none
    | some n => (s.lookup n).map Prod.fst

/-- The sectors met walking the ring forward from the current sector, or from sector 0 inclusive when there is none, BAD sectors
passed over. -/
def State.ringAhead (s : State) : List Nat :=
  ((match s.current with
    | some c => (List.range 31).map (fun k => (c + 1 + k) % 32)
    | none => sectorIndexes)).filter (fun i => (s.sector i).state != SectorState.bad)

/-- A sector that belongs to the ahead run when it is reached. -/
def aheadState (c : Sector) : Bool := c.state == .erased || c.state == .erasing

/-- The ahead run (R117). -/
def State.aheadRun (s : State) : List Nat := s.ringAhead.takeWhile (fun i => aheadState (s.sector i))

/-- The candidate of erase-ahead (R131). -/
def State.candidate (s : State) : Option Nat :=
  if 2 ≤ s.aheadRun.length || s.engine.erase.isSome then none
  else (s.ringAhead.dropWhile (fun i => aheadState (s.sector i))).head?

/-- Whether an open stream's position lies in a sector: the sector that holds the entry numbered by it (R131, R139). -/
def State.streamIn (s : State) (i : Nat) : Bool :=
  allPorts.any (fun p => ((s.port p).stream.bind s.lookup).any (fun x => x.1 == i))

/-- The conditions under which the candidate's erase may start (R131). -/
def State.erasable (s : State) (i : Nat) : Bool :=
  ((s.sector i).state == .full || (s.sector i).state == .blankUnchecked) &&
  (s.sector i).marks.all (fun m => m == .blank || m == .audited) && !s.streamIn i

/-! ## The audit mark and journal space (R121, R133) -/

/-- The retained receipt numbers in order, the oldest first; a number in a gap of the arc is none of them. -/
def State.retainedNumbers (s : State) : List Nat :=
  match s.oldest, s.newest with
  | some o, some n => ((List.range (n + 1 - o)).map (o + ·)).filter (fun k => (s.lookup k).isSome)
  | _, _ => []

/-- The places of the retained entries in receipt order, each with its number; those of one number in the order of `places`. -/
def State.retainedEntries (s : State) : List (Nat × Nat × Nat) :=
  s.retainedNumbers.flatMap (fun n => (s.places n).map (fun x => (n, x)))

/-- The audit mark, derived from the map (R121, log 12): one below the oldest retained entry that is not AUDITED, the newest
retained number when every one is, and one below the counter when nothing is retained. -/
def State.auditMark (s : State) : Nat :=
  match s.newest with
  | some n => ((s.retainedNumbers.find? (fun k => (s.unaudited k).isSome)).map (· - 1)).getD n
  | none => s.counter - 1

/-- The free slots of the FILLING sector; 0 without one. -/
def State.fillingFree (s : State) : Nat :=
  match s.sectors.find? (fun c => c.state == .filling) with
  | some c => 16 - c.used
  | none => 0

/-- Journal space (R133). -/
def State.space (s : State) : Int :=
  if s.exhausted then 0 else (s.fillingFree : Int) + 16 * s.aheadRun.length - s.commitQueue.length

/-- An evaluation of journal space with its low flag and JOURNAL_LOW notice (R133). -/
def evalSpace (s : State) : State :=
  if s.space < 32 then
    (if s.lowFlag then s
      else broadcast ⟨.journalLow, none, beInt 2 s.space, s.clock⟩ { s with lowFlag := true })
  else { s with lowFlag := false }

end Sys2Proof.Machine
end

