-- ==== Sys2Proof/Machine/Entry.lean ====
section
/-! DEFINITION. The 256 bytes of a journal entry: how a commit builds them and how a reader takes them apart
(R105, R118, R170, R215). -/

namespace Sys2Proof.Machine

/-- The sum of some bytes, modulo a power of 256 (the checks of R215 and R216). -/
def byteSum (width : Nat) (bs : List Byte) : Nat := (bs.foldl (fun n b => n + b.toNat) 0) % 256 ^ width

/-- A text in a field of fixed width: length byte, characters, 0x00 after them; all 0x00 when absent. -/
def textField (width : Nat) (t : Option (List Byte)) : List Byte :=
  match t with
  | some t => BitVec.ofNat 8 t.length :: (t ++ List.replicate width 0#8).take width
  | none => List.replicate (width + 1) 0#8

/-- One line of the entry, 16 bytes (R215). -/
def lineBytes (l : Line) : List Byte :=
  be 1 l.grade ++ be 4 l.net ++ be 4 l.dock ++ beOpt 3 l.price ++ beOpt 4 l.amount

/-- The header of an entry, bytes 1 to 11 (R215). -/
def headerBytes (number : Nat) (kind : EntryKind) (time : Nat) : List Byte :=
  let h := be 4 number ++ be 1 (entryKindCode kind) ++ be 4 time
  h ++ be 2 (byteSum 2 h)

/-- The calibration counters of A, B and P. -/
def State.calCounters (s : State) : List Byte := allScales.flatMap (fun sc => be 1 (s.chan sc).calCounter)

/-- The shift totals of the tally (R170), 27 bytes. -/
def shiftBytes (t : Tally) : List Byte :=
  be 4 t.shift ++ be 4 t.openTime ++ be 4 t.receipts ++ be 4 t.voids ++ be 4 t.torn ++ be 6 t.total ++ [flag t.incomplete]

/-- The body of a PAYOUT or VOID entry, bytes 16 to 251, from the ticket record (R105, R118). -/
def ticketBody (s : State) (t : Ticket) (port : Port) (reason : Option Nat) : List Byte :=
  let stored := match t.tareSource with | some (.stored _) => true | _ => false
  let ended := match t.hold with | some h => h.endedEarly | none => false
  [flagByte [!s.clockSet, t.closedTime.isSome, stored, t.hold.isSome, ended]] ++ be 1 (portCode port) ++
  be 2 t.number ++ be 4 t.openedTime ++ be 4 (t.closedTime.getD 0) ++ textField 10 t.vehicle ++ textField 16 t.seller ++
  be 4 (match t.tareSource with | some (.stored w) => w.toNat | _ => 0) ++ s.calCounters ++ be 1 (reason.getD 0) ++
  be 4 (match t.hold with | some h => h.expiry | none => 0) ++ be 1 t.lines.length ++ List.replicate 3 0#8 ++
  (t.lines.flatMap lineBytes ++ List.replicate 128 0#8).take 128 ++ be 4 (t.total.getD 0) ++ List.replicate 48 0#8

/-- The body of a SHIFT entry, bytes 16 to 251 (R170). -/
def shiftBody (s : State) (port : Port) : List Byte :=
  [flagByte [!s.clockSet]] ++ be 1 (portCode port) ++ List.replicate 42 0#8 ++ s.calCounters ++
  List.replicate 141 0#8 ++ shiftBytes s.tally ++ List.replicate 21 0#8

/-- The whole entry as the commit will program it, status byte and print time blank (R118, R215). -/
def buildEntry (s : State) (r : CommitReq) (number : Nat) : List Byte :=
  let body :=
    match r.kind, r.ticket.bind s.ticket with
    | .shift, _ => shiftBody s r.port
    | _, some t => ticketBody s t r.port (t.commit.bind (·.reason))
    | _, none => List.replicate 236 0#8
  0xFF#8 :: headerBytes number r.kind s.clock ++ absent 4 ++ body ++ be 4 (byteSum 4 body)

/-! ## Reading an entry -/

/-- `n` bytes of an entry from an offset. -/
def entryField (e : List Byte) (off n : Nat) : List Byte := (e.drop off).take n

/-- A number in an entry. -/
def entryNat (e : List Byte) (off n : Nat) : Nat := ofBytes (entryField e off n)

/-- Whether the header check of an entry holds. -/
def headerHolds (e : List Byte) : Bool := entryNat e 10 2 == byteSum 2 (entryField e 1 9)

/-- Whether the body check of an entry holds. -/
def bodyHolds (e : List Byte) : Bool := entryNat e 252 4 == byteSum 4 (entryField e 16 236)

/-- The mark an entry's status byte reads as. -/
def markOf (e : List Byte) : Mark := readMark (e.headD 0xFF#8)

/-- Whether an entry's status byte carries the bits of TORN (R174, R215). -/
def carriesTorn (e : List Byte) : Bool := carries (e.headD 0xFF#8) .torn

/-- The kind byte of an entry's header (R215). -/
def kindByte (e : List Byte) : Byte := (entryField e 5 1).headD 0#8

/-- The kind that a kind byte spells; a damaged one gives a free kind (log 19). -/
def kindOf (b : Byte) : EntryKind :=
  if b = 1#8 then .payout else if b = 2#8 then .void else if b = 3#8 then .shift
  else if Config.damagedKind b = 0 then .payout else if Config.damagedKind b = 1 then .void else .shift

/-- The kind of an entry. -/
def entryKind (e : List Byte) : EntryKind := kindOf (kindByte e)

/-- A flag of an entry's flags byte. -/
def entryFlag (e : List Byte) (i : Nat) : Bool := ((entryField e 16 1).headD 0#8).getLsbD i

/-- A text field of an entry; absent when its length is 0, and never longer than its field, whatever its length byte says (log
71). -/
def entryText (e : List Byte) (off width : Nat) : Option (List Byte) :=
  let n := entryNat e off 1
  if n = 0 then none else some (entryField e (off + 1) (min n width))

/-- One line of an entry; its price and amount are present when the ticket had closed, by the closed flag whatever their bytes
hold (logs 52 and 71). -/
def entryLine (e : List Byte) (i : Nat) : Line :=
  let o := 72 + 16 * i
  let closed := entryFlag e 1
  ⟨entryNat e o 1, entryNat e (o + 1) 4, entryNat e (o + 5) 4,
    if closed then some (entryNat e (o + 9) 3) else none, if closed then some (entryNat e (o + 12) 4) else none⟩

/-- The lines of an entry, at most eight whatever its line count says (logs 52 and 71). -/
def entryLines (e : List Byte) : List Line := (List.range (min 8 (entryNat e 68 1))).map (entryLine e)

end Sys2Proof.Machine
end

