-- ==== Sys2Proof/Machine/Tally.lean ====
section
/-! DEFINITION. The tally unit: what a completed commit, a torn entry and a shift close do to the tally (R166 to R170). -/

namespace Sys2Proof.Machine

/-- The maximum of a 32-bit figure. -/
def max32 : Nat := 2 ^ 32 - 1

/-- The maximum of a 48-bit figure. -/
def max48 : Nat := 2 ^ 48 - 1

/-- The figures of a grade code. -/
def Tally.figures (t : Tally) (g : Nat) : GradeFigures := t.grades.getD (g - 1) ⟨0, 0, 0, 0⟩

/-- A grade's figures are non-zero when its line count is above 0 (R166). -/
def GradeFigures.nonZero (f : GradeFigures) : Bool := 0 < f.lines

/-- The grade codes with non-zero figures, in code order. -/
def Tally.nonZeroGrades (t : Tally) : List Nat :=
  ((List.range 64).map (· + 1)).filter (fun g => (t.figures g).nonZero)

/-- Add a paid line to its grade's figures; each stops at its maximum, which sets the incomplete flag (R166, R167). A line of a
damaged entry with grade 0 adds to grade 1, one with a grade above 64 to none, and one whose dock exceeds its net adds a payable
weight of 0 (log 52). -/
def Tally.addLine (t : Tally) (l : Line) : Tally :=
  let f := t.figures l.grade
  let net := f.net + l.net
  let payable := f.payable + (l.net - l.dock)
  let amount := f.amount + l.amount.getD 0
  let lines := f.lines + 1
  { t with
    grades := t.grades.set (l.grade - 1) ⟨min max48 net, min max48 payable, min max48 amount, min max32 lines⟩
    incomplete := t.incomplete || max48 < net || max48 < payable || max48 < amount || max32 < lines }

/-- Add a completed PAYOUT (R167). -/
def Tally.addPayout (t : Tally) (lines : List Line) (total : Nat) : Tally :=
  let t := { t with
    receipts := min max32 (t.receipts + 1)
    total := min max48 (t.total + total)
    incomplete := t.incomplete || max32 < t.receipts + 1 || max48 < t.total + total }
  lines.foldl Tally.addLine t

/-- Add a completed VOID (R167). -/
def Tally.addVoid (t : Tally) : Tally :=
  { t with
    receipts := min max32 (t.receipts + 1)
    voids := min max32 (t.voids + 1)
    incomplete := t.incomplete || max32 < t.receipts + 1 || max32 < t.voids + 1 }

/-- Count a torn entry (R168). -/
def Tally.addTorn (t : Tally) : Tally :=
  { t with torn := min max32 (t.torn + 1), incomplete := t.incomplete || max32 < t.torn + 1 }

/-- The tally unit takes the end of a SHIFT commit: the snapshot and the next shift (R170). A shift number at its last value stays
there and leaves the incomplete flag clear (log 51). -/
def closeTally (receipt : Nat) (s : State) : State :=
  { s with
    snapshot := some ⟨s.tally, receipt⟩
    tally := { Tally.first s.clock with shift := min max32 (s.tally.shift + 1) } }

/-- The tally unit takes a commit completion (R167). The ticket still stands when this is done. -/
def tallyCompletion (kind : EntryKind) (ticket : Option Ticket) (receipt : Nat) (s : State) : State :=
  match kind with
  | .payout =>
    match ticket with
    | some t => { s with tally := s.tally.addPayout t.lines (t.total.getD 0) }
    | none => s
  | .void => { s with tally := s.tally.addVoid }
  | .shift => closeTally receipt s

/-- The tally unit takes a report of a torn entry (R168). -/
def tallyTorn (s : State) : State := { s with tally := s.tally.addTorn }

/-! ## The rebuild of a cold start (R174) -/

/-- What one entry of the walk adds. -/
def rebuildEntry (t : Tally) (e : List Byte) : Tally :=
  if carriesTorn e then t.addTorn
  else match entryKind e with
    | .payout => t.addPayout (entryLines e) (entryNat e 200 4)
    | .void => t.addVoid
    | .shift => t

/-- The bytes of the retained entry that a number is looked up as. -/
def State.retainedBytes (s : State) (n : Nat) : Option (List Byte) := (s.lookup n).map (fun (i, slot) => s.entryBytes i slot)

/-- The tally rebuilt from the retained entries (R174); the snapshot is empty. A shift number at its last value stays there and
leaves the incomplete flag clear (log 51). The entry that gives the open time or the shift number is taken as its bytes read, also
when it is damaged (log 52). -/
def rebuildTally (s : State) : State :=
  let entries := s.retainedEntries.map (fun x => (x.1, s.entryBytes x.2.1 x.2.2))
  let add := fun t (x : Nat × List Byte) => rebuildEntry t x.2
  let tally :=
    match entries.reverse.find? (fun x => !carriesTorn x.2 && entryKind x.2 == .shift) with
    | some (n, e) =>
      (entries.filter (fun x => n < x.1)).foldl add
        { Tally.first (entryNat e 6 4) with shift := min max32 (entryNat e 204 4 + 1) }
    | none =>
      match entries with
      | [] => Tally.first s.clock
      | (_, e) :: _ => entries.foldl add { Tally.first (entryNat e 6 4) with incomplete := true }
  { s with tally := tally, snapshot := none }

end Sys2Proof.Machine
end

