-- ==== Sys2Proof/Machine/Text.lean ====
section
/-! DEFINITION. The text of a print job: lines of 32 characters, laid out from the entry or the snapshot
(R158, R171, R214; the labels and log 18). -/

namespace Sys2Proof.Machine

/-- The characters of a text. -/
def ascii (t : String) : List Byte := t.toList.map (fun c => BitVec.ofNat 8 c.toNat)

/-- A number in decimal, with no thousands separator (R214). -/
def decimal (n : Nat) : List Byte := (Nat.toDigits 10 n).map (fun c => BitVec.ofNat 8 c.toNat)

/-- A number in decimal, at least `w` digits wide. -/
def decimalPad (w n : Nat) : List Byte :=
  let d := decimal n
  List.replicate (w - d.length) 0x30#8 ++ d

/-- A number of units with `k` decimals: weights have 1, amounts 2, prices 3 (R158). -/
def fixedPoint (k n : Nat) : List Byte := decimal (n / 10 ^ k) ++ [0x2E#8] ++ decimalPad k (n % 10 ^ k)

/-- A signed weight, with one decimal and a leading minus sign when it is negative (R214). -/
def signedWeight (w : Int) : List Byte :=
  if w < 0 then 0x2D#8 :: fixedPoint 1 w.natAbs else fixedPoint 1 w.natAbs

/-- Characters from column 1, padded to the line with spaces. -/
def padRight (t : List Byte) : List Byte := (t ++ List.replicate 32 0x20#8).take 32

/-- A value right-aligned to end at column 32. -/
def padLeft (t : List Byte) : List Byte := List.replicate (32 - t.length) 0x20#8 ++ t

/-- A label alone on its line. -/
def labelLine (label : String) : List (List Byte) := [padRight (ascii label)]

/-- A label and its value, on one line when both fit, else the value on a line of its own (R214). -/
def field (label : String) (value : List Byte) : List (List Byte) :=
  let l := ascii label
  if l.length + value.length ≤ 32 then [l ++ List.replicate (32 - l.length - value.length) 0x20#8 ++ value]
  else [padRight l, padLeft value]

/-- An optional field: an absent one prints no line (R158). -/
def fieldOpt (label : String) : Option (List Byte) → List (List Byte)
  | some v => field label v
  | none => []

/-! ## Dates (R158, R214) -/

/-- A leap year of the calendar. -/
def leap (y : Nat) : Bool := y % 4 == 0 && (y % 100 != 0 || y % 400 == 0)

/-- The year of a day counted from the start of year `y`, and the day within it. -/
def yearOf : Nat → Nat → Nat → Nat × Nat
  | 0, y, d => (y, d)
  | fuel + 1, y, d =>
    let len := if leap y then 366 else 365
    if d < len then (y, d) else yearOf fuel (y + 1) (d - len)

/-- The month (from 1) and day (from 1) of a day within the year. -/
def monthOf : List Nat → Nat → Nat → Nat × Nat
  | [], m, d => (m, d + 1)
  | len :: rest, m, d => if d < len then (m, d + 1) else monthOf rest (m + 1) (d - len)

/-- A yard time as a date and time of day, 19 characters (R214). -/
def dateTime (t : Nat) : List Byte :=
  let (y, d) := yearOf 200 2000 (t / 86400)
  let (m, day) := monthOf [31, if leap y then 29 else 28, 31, 30, 31, 30, 31, 31, 30, 31, 30, 31] 1 d
  let s := t % 86400
  decimalPad 4 y ++ [0x2D#8] ++ decimalPad 2 m ++ [0x2D#8] ++ decimalPad 2 day ++ [0x20#8] ++ decimalPad 2 (s / 3600) ++
  [0x3A#8] ++ decimalPad 2 (s / 60 % 60) ++ [0x3A#8] ++ decimalPad 2 (s % 60)

/-! ## Bodies (R158, R171) -/

/-- The line that opens a ticket line or a grade's group: its code, a space and the grade's name now (R27, R214). No rule names a
code outside 1 to 64, which only a damaged entry holds: 0 prints grade 1's name, and a code above 64 eight spaces (log 71, DESIGN
CHOICE). -/
def gradeLine (s : State) (g : Nat) : List (List Byte) := [padRight (decimal g ++ [0x20#8] ++ (s.grade g).name)]

/-- The calibration counters of an entry. -/
def counterLines (e : List Byte) : List (List Byte) :=
  field "CALIBRATION COUNTER A" (decimal (entryNat e 60 1)) ++ field "CALIBRATION COUNTER B" (decimal (entryNat e 61 1)) ++
  field "CALIBRATION COUNTER P" (decimal (entryNat e 62 1))

/-- The fields that open the body of a PAYOUT or VOID after its number and committed time. -/
def ticketFields (e : List Byte) : List (List Byte) :=
  field "TICKET NUMBER" (decimal (entryNat e 18 2)) ++ field "OPENED TIME" (dateTime (entryNat e 20 4))

/-- The body of a PAYOUT entry (R158); a damaged one is laid out as its bytes read (log 71). -/
def payoutBody (s : State) (e : List Byte) : List (List Byte) :=
  field "RECEIPT NUMBER" (decimal (entryNat e 1 4)) ++ field "COMMITTED TIME" (dateTime (entryNat e 6 4)) ++ ticketFields e ++
  (if entryFlag e 1 then field "CLOSED TIME" (dateTime (entryNat e 24 4)) else []) ++
  fieldOpt "VEHICLE ID" (entryText e 28 10) ++ fieldOpt "SELLER ID" (entryText e 39 16) ++
  (entryLines e).flatMap (fun l => gradeLine s l.grade ++ field "NET WEIGHT" (fixedPoint 1 l.net) ++
    field "DOCK WEIGHT" (fixedPoint 1 l.dock) ++ field "PAYABLE WEIGHT" (fixedPoint 1 (l.net - l.dock)) ++
    fieldOpt "LATCHED PRICE" (l.price.map (fixedPoint 3)) ++ fieldOpt "AMOUNT" (l.amount.map (fixedPoint 2))) ++
  (if entryFlag e 1 then
    (if entryFlag e 2 then field "TARE SOURCE" (ascii "STORED") ++ field "STORED TARE WEIGHT" (fixedPoint 1 (entryNat e 56 4))
      else field "TARE SOURCE" (ascii "WEIGHED")) ++
    field "TOTAL" (fixedPoint 2 (entryNat e 200 4))
  else []) ++
  (if entryFlag e 4 then labelLine "HOLD ENDED EARLY"
    else if entryFlag e 3 then field "HOLD EXPIRY" (dateTime (entryNat e 64 4)) else []) ++
  counterLines e

/-- The body of a VOID entry (R158); a damaged one is laid out as its bytes read (log 71). -/
def voidBody (s : State) (e : List Byte) : List (List Byte) :=
  labelLine "VOID" ++ field "RECEIPT NUMBER" (decimal (entryNat e 1 4)) ++
  field "COMMITTED TIME" (dateTime (entryNat e 6 4)) ++ field "VOID REASON" (decimal (entryNat e 63 1)) ++ ticketFields e ++
  fieldOpt "VEHICLE ID" (entryText e 28 10) ++ fieldOpt "SELLER ID" (entryText e 39 16) ++
  (entryLines e).flatMap (fun l => gradeLine s l.grade ++ field "NET WEIGHT" (fixedPoint 1 l.net) ++
    field "DOCK WEIGHT" (fixedPoint 1 l.dock) ++ fieldOpt "PRICE" (l.price.map (fixedPoint 3)) ++
    fieldOpt "AMOUNT" (l.amount.map (fixedPoint 2))) ++
  (if entryFlag e 1 then field "TOTAL" (fixedPoint 2 (entryNat e 200 4)) else []) ++ counterLines e

/-- The body of a SHIFT entry (R158, R166); its incomplete flag prints a line of its own, with no value, when it is set
(log 18). -/
def shiftReportBody (e : List Byte) : List (List Byte) :=
  labelLine "SHIFT CLOSE" ++ field "RECEIPT NUMBER" (decimal (entryNat e 1 4)) ++
  field "COMMITTED TIME" (dateTime (entryNat e 6 4)) ++ field "SHIFT NUMBER" (decimal (entryNat e 204 4)) ++
  field "OPEN TIME" (dateTime (entryNat e 208 4)) ++ field "RECEIPTS COMMITTED" (decimal (entryNat e 212 4)) ++
  field "VOIDS" (decimal (entryNat e 216 4)) ++ field "TORN ENTRIES FOUND" (decimal (entryNat e 220 4)) ++
  field "TOTAL AMOUNT" (fixedPoint 2 (entryNat e 224 6)) ++
  (if entryNat e 230 1 = 0 then [] else labelLine "INCOMPLETE")

/-- The body of a TALLY job, from the snapshot (R171). -/
def tallyBody (s : State) (n : Snapshot) : List (List Byte) :=
  labelLine "SHIFT TALLY" ++ field "SHIFT NUMBER" (decimal n.tally.shift) ++
  (if n.tally.incomplete then labelLine "INCOMPLETE" else []) ++
  n.tally.nonZeroGrades.flatMap (fun g =>
    let f := n.tally.figures g
    gradeLine s g ++ field "LINE COUNT" (decimal f.lines) ++ field "NET WEIGHT" (fixedPoint 1 f.net) ++
    field "PAYABLE WEIGHT" (fixedPoint 1 f.payable) ++ field "AMOUNT" (fixedPoint 2 f.amount)) ++
  field "TOTAL AMOUNT" (fixedPoint 2 n.tally.total) ++ field "RECEIPT NUMBER" (decimal n.receipt)

/-- The body of an entry by the entry's own kind (R158). -/
def entryBody (s : State) (e : List Byte) : List (List Byte) :=
  match entryKind e with
  | .payout => payoutBody s e
  | .void => voidBody s e
  | .shift => shiftReportBody e

/-- The whole transmission of a job: header lines, marker lines, body, closing line, each ended by 0x0A, then the end-of-job
byte (R149, R158, R214). -/
def jobText (s : State) (j : Job) (timeUnset : Bool) (body : List (List Byte)) : List Byte :=
  let lines := s.settings.headers ++ (if j.kind = .duplicate then labelLine "DUPLICATE" else []) ++
    (if j.restarted then labelLine "RESTARTED" else []) ++ (if timeUnset then labelLine "TIME NOT SET" else []) ++ body ++
    [List.replicate 32 0x2D#8]
  lines.flatMap (fun l => l ++ [0x0A#8]) ++ [0x1D#8]

end Sys2Proof.Machine
end

