-- ==== Sys2Proof/Machine/Engine.lean ====
section
/-! DEFINITION. The print queue and the program engine at work inside an event: jobs created, taken and removed, the backlog
walk, and the engine's choice of its next operation (R127, R128, R130, R144, R148, R165). -/

namespace Sys2Proof.Machine

/-! ## The print queue (R143, R144) -/

/-- The job in a print slot. -/
def State.job (s : State) (slot : Nat) : Option Job := s.jobs.getD slot none

/-- Put a job, or none, in a print slot. -/
def State.setJob (s : State) (slot : Nat) (j : Option Job) : State := { s with jobs := s.jobs.set slot j }

/-- The first-print kinds (R143). -/
def firstPrint (k : JobKind) : Bool := k == .original || k == .voidSlip || k == .shiftReport

/-- Whether a first-print job for a receipt stands in the queue, in any state. -/
def State.hasFirstPrint (s : State) (n : Nat) : Bool :=
  s.jobs.any (fun j => match j with | some j => firstPrint j.kind && j.receipt == some n | none => false)

/-- Whether a PRINTED mark is pending for a receipt (R150). -/
def State.markPending (s : State) (n : Nat) : Bool := s.pendingMarks.any (fun m => m.receipt == n)

/-- The age counter rises by 1; past its 32 bits it is a free value (R144, log 14). -/
def State.bumpAge (s : State) : State :=
  let (a, s) := s.fit32 (s.ageCounter + 1)
  { s with ageCounter := a }

/-- Create a job in the lowest-numbered free slot (R144); with no slot free nothing is created (log 48). -/
def createJob (kind : JobKind) (receipt : Option Nat) (port : Option Port) (state : JobState) (s : State) : State :=
  match s.jobs.findIdx? Option.isNone with
  | none => s
  | some slot => (s.setJob slot (some ⟨kind, receipt, port, state, 0, false, s.ageCounter, 0⟩)).bumpAge

/-- The jobs with no requesting port (R165). -/
def State.backlogJobs (s : State) : Nat :=
  s.jobs.countP (fun j => match j with | some j => j.port.isNone | none => false)

/-- The first-print kind of an entry kind (R165). -/
def printKind : EntryKind → JobKind
  | .payout => .original
  | .void => .voidSlip
  | .shift => .shiftReport

/-- The walk examines one entry; its kind is the one its header had at the scan (R165). -/
def examineBacklog (n : Nat) (s : State) : State :=
  match s.lookup n with
  | none => s
  | some (i, slot) =>
    if s.slotMark i slot = .complete ∧ !s.markPending n ∧ !s.hasFirstPrint n then
      createJob (printKind (kindOf ((s.sector i).kinds.getD slot 0#8))) (some n) none .queued s
    else s

/-- The lowest number from one on that some sector retains an entry of (R116, R117). -/
def State.retainedFrom (s : State) (n : Nat) : Option Nat :=
  minOf (sectorIndexes.filterMap fun i =>
    match (s.sector i).first with
    | some f => if 0 < s.extent i ∧ n < f + s.extent i then some (max n f) else none
    | none => none)

/-- The backlog walk goes on while its conditions hold (R165); the numbers for which no entry is retained, at which it would create
no job, are passed over at once. -/
def walkBacklog : Nat → State → State
  | 0, s => s
  | fuel + 1, s =>
    match s.backlog with
    | none => s
    | some b =>
      if s.backlogJobs < 8 ∧ 0 < s.freeSlots ∧ b.next ≤ b.last then
        match (s.retainedFrom b.next).filter (· ≤ b.last) with
        | none => { s with backlog := none }
        | some n =>
          let s := examineBacklog n s
          walkBacklog fuel { s with backlog := if b.last < n + 1 then none else some ⟨n + 1, b.last⟩ }
      else s

/-- Test the walk's conditions: it goes on until one fails, and it has as many examinations as numbers from its next to its
end. -/
def testBacklog (s : State) : State := walkBacklog (s.backlog.elim 0 (fun b => b.last + 1 - b.next)) s

/-- Remove a job and test the backlog walk (R144, R165). -/
def removeJob (slot : Nat) (s : State) : State := testBacklog (s.setJob slot none)

/-- The snapshot is emptied at the end of its TALLY job (R171). -/
def endSnapshot (k : JobKind) (s : State) : State := if k = .tally then { s with snapshot := none } else s

/-- Offer PRINTER_STATE (R146). -/
def offerPrinterState (s : State) : State :=
  broadcast ⟨.printerState, none,
    [pauseByte s.pe, BitVec.ofNat 8 (paperCode s.pe.paper), BitVec.ofNat 8 (coverCode s.pe.cover),
      BitVec.ofNat 8 (linkCode s.pe.link)], s.clock⟩ s

/-- What PRINTER_STATE reports: it is offered when this changes (R146). -/
def printerView (e : PrintEngine) : (Bool × Bool × Bool) × Paper × Cover × Link :=
  ((e.pausePaper, e.pauseCover, e.pauseStart), e.paper, e.cover, e.link)

/-- Change the print engine, and offer PRINTER_STATE if what it reports changed (R146). -/
def updPrinter (f : PrintEngine → PrintEngine) (s : State) : State :=
  let s' := { s with pe := f s.pe }
  if printerView s'.pe = printerView s.pe then s' else offerPrinterState s'

/-- Offer PRINT_ABANDONED: addressed to the requesting port, broadcast to the other OFFICE-role ports (R148, R153). -/
def offerAbandoned (slot : Nat) (j : Job) (reason : Nat) (s : State) : State :=
  let n : Notice := ⟨.printAbandoned, some (j.receipt.getD 0),
    be 1 slot ++ be 1 (jobKindCode j.kind) ++ be 1 reason, s.clock⟩
  let s := match j.port with | some p => offerTo p n s | none => s
  broadcastOffice j.port n s

/-- The job in hand leaves PRINTING: the engine goes IDLE, its transmission and response timer stop (R146, R149). -/
def releaseJob (s : State) : State :=
  { s with pe := { s.pe with activity := .idle, job := none, responseTimer := none, tx := [] } }

/-- A fetch finds its entry unusable: the job is removed with PRINT_ABANDONED, reason 2 NOT_RETAINED or 3 MEDIA (R148). -/
def abandonFetch (reason : Nat) (s : State) : State :=
  match s.pe.job with
  | none => s
  | some slot =>
    match s.job slot with
    | none => releaseJob s
    | some j => releaseJob (offerAbandoned slot j reason (removeJob slot s))

/-! ## The print engine takes a job (R148) -/

/-- The QUEUED job with the lowest age (R148); of two of one age, which only a free value of the age counter can give, the one in the
lower slot (log 14, DESIGN CHOICE). -/
def State.oldestQueued (s : State) : Option Nat :=
  (List.range 16).foldl (fun best slot =>
    match s.job slot with
    | some j =>
      if j.state = .queued then
        (match best with
          | some b => if j.age < ((s.job b).map (·.age)).getD 0 then some slot else best
          | none => some slot)
      else best
    | none => best) none

/-- The conditions under which a job is taken, apart from there being one (R148). -/
def State.mayPrint (s : State) : Bool :=
  s.pe.activity == .idle && !paused s.pe && s.pe.link != .offline && s.mode == .run

/-- Take a job for printing: a TALLY job goes straight to SENDING, every other asks for its entry (R148, R171). -/
def takeJob (slot : Nat) (j : Job) (s : State) : State :=
  let s := s.setJob slot (some { j with state := .printing })
  if j.kind = .tally then
    let body := match s.snapshot with | some n => tallyBody s n | none => []
    { s with pe := { s.pe with activity := .sending, job := some slot, tx := jobText s j false body } }
  else
    { s with
      pe := { s.pe with activity := .fetching, job := some slot }
      engine := { s.engine with reads := s.engine.reads ++ [.fetch] } }

/-! ## The program engine takes an operation (R127, R128) -/

/-- The waiting read that is taken first; a fetch is held back while the pending-mark list is full (R129, log 10). -/
def State.nextRead (s : State) : Option ReadReq :=
  s.engine.reads.find? (fun r => r != .fetch || s.pendingMarks.length < 16)

/-- A read, commit step or configuration write is waiting; a fetch held back by R129 does not count as waiting, so it neither
suspends an erase nor keeps a suspended one from resuming (log 10). -/
def State.highWaiting (s : State) : Bool := s.nextRead.isSome || !s.engine.writes.isEmpty

/-- The erase-ahead erase in hand that a waiting operation suspends (R128). -/
def State.suspendable (s : State) : Option EraseJob :=
  if s.engine.current = some .erase ∧ s.highWaiting then s.engine.erase.filter (fun e => e.count < 16) else none

/-- Take an operation. -/
def State.takeOp (s : State) (op : EngineOp) : State := { s with engine := { s.engine with current := some op } }

/-- The operation of a write request. -/
def opOf : WriteReq → EngineOp
  | .commitStep => .commitStep
  | .calRecord sc => .calRecord sc
  | .calLock sc => .calLock sc
  | .storeErase => .storeErase
  | .storeImage => .storeImage
  | .storeMark => .storeMark

/-- Whether a calibration slot is blank (R19, R216). -/
def calSlotBlank (area : CalArea) (i : Nat) : Bool := (memBytes area.slots (32 * i) 32).all (fun b => b == 0xFF#8)

/-- The next blank slot of a calibration area: the first from one on, or when none follows the first of all (R20; log 33). -/
def calBlank (area : CalArea) (n : Nat) : Nat :=
  (((List.range 64).drop n ++ List.range 64).find? (calSlotBlank area)).getD n

/-- What the start of a write's programming changes: slots used rises when a calibration record's begins, and its slot is the
next blank one (R20). -/
def beginWrite (w : WriteReq) (s : State) : State :=
  match w with
  | .calRecord sc =>
    s.updChan sc (fun c => { c with slotsUsed := c.slotsUsed + 1, nextSlot := calBlank (s.cal.get sc) c.nextSlot + 1 })
  | _ => s

/-- The receipt number of the job in hand. -/
def State.fetchNumber (s : State) : Nat := ((s.pe.job.bind s.job).bind (·.receipt)).getD 0

/-- A waiting read is taken; a fetch of an entry not retained is answered with no array operation (R130). -/
def takeRead (r : ReadReq) (s : State) : State :=
  let s := { s with engine := { s.engine with reads := s.engine.reads.erase r } }
  match r with
  | .fetch => if (s.lookup s.fetchNumber).isSome then s.takeOp (.fetch s.fetchNumber true) else abandonFetch 2 s
  | .stream p => s.takeOp (.stream p true)

/-- The free engine takes one waiting operation by the preferences of R127, apart from the resumption of an erase and the start
of one, which are events of their own; none when nothing is taken. -/
def takeWaiting (s : State) : Option State :=
  match s.nextRead with
  | some r => some (takeRead r s)
  | none =>
    match s.engine.writes with
    | w :: ws => some (beginWrite w ({ s with engine := { s.engine with writes := ws } }.takeOp (opOf w)))
    | [] =>
      if s.engine.erase.isSome then none
      else match s.pendingMarks with
        | m :: ms =>
          if s.entryMark m.receipt = some .complete then some (s.takeOp (.printedMark false))
          else some { s with pendingMarks := ms }
        | [] => if s.pass.isSome then some (s.takeOp (.auditMark false)) else none

/-- One thing that the print engine or the program engine does of itself within an event; none when both wait. -/
def pumpOnce (s : State) : Option State :=
  match (if s.mayPrint then s.oldestQueued else none) with
  | some slot => (s.job slot).map (fun j => takeJob slot j s)
  | none =>
    match s.suspendable with
    | some e =>
      some { s with engine := { s.engine with
        current := none, erase := some { e with suspended := true, count := e.count + 1 } } }
    | none => if s.engine.current.isNone then takeWaiting s else none

/-- Let both engines take what they can. -/
def pump : Nat → State → State
  | 0, s => s
  | fuel + 1, s =>
    match pumpOnce s with
    | some s' => pump fuel s'
    | none => s

/-- The engine has ended its operation. -/
def State.endOp (s : State) : State := { s with engine := { s.engine with current := none } }

end Sys2Proof.Machine
end

