-- ==== Sys2Proof/Machine/Drain.lean ====
section
/-! DEFINITION. Changes of the part mode, the entry into CONFIG and the end of an event (R10, R25, R163, R196, R198). -/

namespace Sys2Proof.Machine

/-- Offer SCALE_STATE for a scale (R10, R212). -/
def offerScaleState (sc : Scale) (s : State) : State :=
  broadcast ⟨.scaleState, some (scaleCode sc),
    [BitVec.ofNat 8 (scaleStateCode (s.chan sc).state), flag (warn (s.chan sc))], s.clock⟩ s

/-- Change a channel, and offer SCALE_STATE if its state or WARN changed (R10). -/
def updScale (sc : Scale) (f : Channel → Channel) (s : State) : State :=
  let c := s.chan sc
  let s' := s.updChan sc f
  if (s'.chan sc).state = c.state ∧ warn (s'.chan sc) = warn c then s' else offerScaleState sc s'

/-- A channel that leaves FAULT by restore, CONFIG entry or start (R13); any other channel is left as it is. -/
def leaveFault (c : Channel) : Channel :=
  if c.state = .fault then { c with state := .empty, weight := none, w1 := none, motion := 0, reference := none } else c

/-- A change of mode and its MODE_CHANGE notice (R196). -/
def setMode (m : Mode) (s : State) : State :=
  broadcast ⟨.modeChange, none, [BitVec.ofNat 8 (modeCode s.mode), BitVec.ofNat 8 (modeCode m)], s.clock⟩
    { s with mode := m }

/-- The entry effect on one scale channel (R25). -/
def configScale (sc : Scale) (s : State) : State :=
  if (s.scaleSettings sc).enabled then updScale sc (fun c => leaveFault { c with faultCount := 0 }) s else s

/-- The part enters CONFIG with its entry effects (R198), the scales in the order A, B, P, and so their SCALE_STATE notices
(log 29). The overflow counts are set to 0 after the notices of the entry (log 59). -/
def enterConfigMode (s : State) : State :=
  let s := setMode .config s
  let s := configScale .p (configScale .b (configScale .a s))
  let s := updPrinter (fun e => { e with linkErrors := 0, link := .normal }) s
  allPorts.foldl (fun s p => s.updPort p (fun c => { c with overflow := 0 })) s

/-- In CONFIG_PENDING, the event that finds all drain conditions met enters CONFIG (R198). -/
def drainTest (s : State) : State :=
  if s.mode = .configPending ∧ s.drained then enterConfigMode s else s

/-- The end of an event that can free an engine or meet a drain condition. 128 passes are more than the sixteen jobs and
sixteen pending marks can use. -/
def settle (s : State) : State := drainTest (pump 128 s)

end Sys2Proof.Machine
end

