-- ==== Sys2Proof/Machine/Ticket.lean ====
section
/-! DEFINITION. What happens to a ticket: attribution, the close with its prices and hold, the hold list, a ticket's return from
a commit, and the vehicle tare table (R33 to R35, R44, R48 to R53, R61, R93, R94). -/

namespace Sys2Proof.Machine

/-- Replace a ticket record, found by its number. -/
def State.putTicket (s : State) (t : Ticket) : State := s.updTicket t.number (fun _ => t)

/-- How a ticket entered PAYABLE (R44, R212). -/
inductive PayableWay where
  | closed | holdExpired | holdEnded | returned
  deriving DecidableEq, Repr

/-- The codes of R212. -/
def payableCode : PayableWay → Nat
  | .closed => 1
  | .holdExpired => 2
  | .holdEnded => 3
  | .returned => 4

/-- Offer TICKET_PAYABLE (R44). -/
def offerPayable (n : Nat) (w : PayableWay) (s : State) : State :=
  broadcast ⟨.ticketPayable, some n, be 1 (payableCode w), s.clock⟩ s

/-! ## The hold list (R93, R94) -/

/-- Place an entry after every entry whose expiry is equal or earlier (R93). -/
def placeHold (e : HoldEntry) : List HoldEntry → List HoldEntry
  | [] => [e]
  | h :: hs => if h.expiry ≤ e.expiry then h :: placeHold e hs else e :: h :: hs

/-- Remove a ticket's entry. -/
def dropHold (n : Nat) (hs : List HoldEntry) : List HoldEntry := hs.filter (fun h => h.ticket != n)

/-- The first entry's hold expires: its ticket becomes PAYABLE (R94). -/
def expireHold (h : HoldEntry) (s : State) : State :=
  offerPayable h.ticket .holdExpired (s.updTicket h.ticket (fun t => { t with state := .payable }))

/-- An examination of the hold list, over the entries it held when it began (R93). -/
def examineEntries : List HoldEntry → State → State
  | [], s => s
  | h :: hs, s => if h.expiry ≤ s.clock then examineEntries hs (expireHold h { s with holds := hs }) else s

/-- The hold list is examined against the present count (R93). -/
def examineHolds (s : State) : State := examineEntries s.holds s

/-! ## Lines and the close (R49 to R53) -/

/-- Attribute a weight to a grade's line, which grows or is appended (R49). -/
def attributeWeight (g w : Nat) (ls : List Line) : List Line :=
  if ls.any (fun l => l.grade == g) then ls.map (fun l => if l.grade == g then { l with net := l.net + w } else l)
  else ls ++ [⟨g, w, 0, none, none⟩]

/-- A line with its price latched and its amount formed, the fraction dropped (R52). -/
def priceLine (s : State) (l : Line) : Line :=
  let price := (s.grade l.grade).live
  { l with price := some price, amount := some ((l.net - l.dock) * price / 100) }

/-- The sum of the lines' amounts (R52). -/
def totalOf (ls : List Line) : Nat := (ls.map (fun l => l.amount.getD 0)).sum

/-- The hold hours of a ticket: the largest among its restricted lines, 0 without one (R53). -/
def holdHours (s : State) (ls : List Line) : Nat :=
  (ls.map (fun l => if s.gradeRestricted l.grade then (s.grade l.grade).holdHours else 0)).foldl max 0

/-- The ticket as a close leaves it apart from its hold and state (R51 steps 1 to 4). -/
def closedRecord (s : State) (t : Ticket) (lines : List Line) (source : TareSource) : Ticket :=
  let lines := lines.map (priceLine s)
  { t with lines := lines, tareSource := some source, closedTime := some s.clock, total := some (totalOf lines) }

/-- A ticket closes: it is priced, and becomes HELD or PAYABLE (R51 to R53). An expiry past the 32 bits of a yard time is a
free value (log 14). -/
def closeTicket (t : Ticket) (lines : List Line) (source : TareSource) (s : State) : State :=
  let t := closedRecord s t lines source
  let hours := holdHours s lines
  if 0 < hours then
    let (expiry, s) := s.fit32 (s.clock + hours * 3600)
    let s := s.putTicket { t with state := .held, hold := some ⟨expiry, false⟩ }
    { s with holds := placeHold ⟨t.number, expiry⟩ s.holds }
  else offerPayable t.number .closed (s.putTicket { t with state := .payable })

/-! ## The return of a ticket from a commit (R61) -/

/-- A ticket leaves COMMITTING without having been committed (R61, R65). -/
def returnTicket (n : Nat) (s : State) : State :=
  match s.ticket n with
  | none => s
  | some t =>
    match t.commit with
    | none => s
    | some c =>
      let t := { t with commit := none }
      match c.before, t.hold with
      | .held, some h =>
        if s.clock < h.expiry then
          let s := s.putTicket { t with state := .held }
          { s with holds := placeHold ⟨n, h.expiry⟩ s.holds }
        else offerPayable n .returned (s.putTicket { t with state := .payable })
      | .payable, _ => offerPayable n .returned (s.putTicket { t with state := .payable })
      | b, _ => s.putTicket { t with state := b }

/-! ## The vehicle tare table (R33 to R35) -/

/-- The yard time at which an entry expires, formed without wrapping (R33). -/
def State.tareExpiry (s : State) (e : Tare) : Nat := e.time + s.settings.tareValidity * 86400

/-- Whether a stored tare is valid now (R33). -/
def State.tareValid (s : State) (e : Tare) : Bool := s.clock < s.tareExpiry e

/-- The slot of a vehicle's entry. -/
def State.tareSlot (s : State) (v : List Byte) : Option Nat :=
  s.tares.findIdx? (fun e => match e with | some e => e.vehicle == v | none => false)

/-- The entry of a VT slot. -/
def State.tareAt (s : State) (slot : Nat) : Option Tare := s.tares.getD slot none

/-- The expired entry with the oldest stored time, the lowest slot among equals (R35 case 3). -/
def State.oldestExpired (s : State) : Option Nat :=
  (List.range 32).foldl (fun best slot =>
    match s.tareAt slot with
    | some e =>
      if s.tareValid e then best
      else match best with
        | some b => if e.time < ((s.tareAt b).map (·.time)).getD 0 then some slot else best
        | none => some slot
    | none => best) none

/-- The slot that receives a vehicle's tare; none when the table has no slot it may use (R35). -/
def State.tarePlace (s : State) (v : List Byte) : Option Nat :=
  match s.tareSlot v with
  | some slot => some slot
  | none =>
    match s.tares.findIdx? Option.isNone with
    | some slot => some slot
    | none => s.oldestExpired

/-- The answer of the VT to a stored-tare close (R34). -/
def State.storedTare (s : State) (v : List Byte) (c : Class) : Except ResultCode Int :=
  match (s.tareSlot v).bind s.tareAt with
  | none => .error .noTare
  | some e => if e.cls ≠ c then .error .noTare else if s.tareValid e then .ok e.weight else .error .tareExpired

end Sys2Proof.Machine
end

