-- ==== Sys2Proof/Machine/Capture.lean ====
section
/-! DEFINITION. The capture on a scale: its failure, its completion and what it does with each presentation
(R48, R70 to R75). -/

namespace Sys2Proof.Machine

/-- Why a capture failed, numbered from 1 in the order of R75. -/
inductive CaptureFailure where
  | timeout | vehicleLeft | scaleFault | cancelled | order | belowMin | voided | portDisabled | tareTableFull
  deriving DecidableEq, Repr

/-- The codes of R212. -/
def failureCode : CaptureFailure → Nat
  | .timeout => 1
  | .vehicleLeft => 2
  | .scaleFault => 3
  | .cancelled => 4
  | .order => 5
  | .belowMin => 6
  | .voided => 7
  | .portDisabled => 8
  | .tareTableFull => 9

/-- Remove a scale's capture and its ticket's capture field (R72, R75). -/
def removeCapture (sc : Scale) (k : Capture) (s : State) : State :=
  let s := s.updChan sc (fun c => { c with capture := none })
  match k.ticket with
  | some n => s.updTicket n (fun t => { t with capture := none })
  | none => s

/-- The WEIGH_FAILED notice (R75, R212). -/
def weighFailed (sc : Scale) (k : Capture) (r : CaptureFailure) (w : Option Int) (time : Nat) : Notice :=
  ⟨.weighFailed, some (k.ticket.getD 0),
    be 1 (scaleCode sc) ++ be 1 (captureCode k.kind) ++ be 1 (failureCode r) ++ beIntOpt 4 w ++ sizedOpt k.vehicle, time⟩

/-- A capture fails: it is removed and WEIGH_FAILED goes to the arming port (R75). -/
def failCapture (sc : Scale) (k : Capture) (r : CaptureFailure) (w : Option Int) (s : State) : State :=
  offerTo k.port (weighFailed sc k r w s.clock) (removeCapture sc k s)

/-- Fail the capture armed on a scale, if there is one. -/
def failArmed (sc : Scale) (r : CaptureFailure) (s : State) : State :=
  match (s.chan sc).capture with
  | some k => failCapture sc k r none s
  | none => s

/-- The weight of a ticket's last weighing. -/
def lastWeight (t : Ticket) : Int := ((t.weighings.getLast?).map (·.weight)).getD 0

/-- The ticket unit takes a completed capture: the weighing is appended, and the ticket goes on by its kind (R48). -/
def appendWeighing (sc : Scale) (k : Capture) (w : Int) (t : Ticket) (s : State) : State :=
  let g := k.grade.getD 0
  let lines := attributeWeight g (lastWeight t - w).toNat t.lines
  let t := { t with weighings := t.weighings ++ [⟨sc, k.kind, w, s.clock, k.grade⟩], capture := none }
  match k.kind with
  | .gross => s.putTicket { t with state := .onYard }
  | .drop => s.putTicket { t with lines := lines }
  | .tare => closeTicket t lines .weighed s
  | .storeTare => s

/-- Why a captured weight is not accepted for a ticket (R73). -/
def weightFault (sc : Scale) (k : CaptureKind) (w : Int) (t : Ticket) : Option CaptureFailure :=
  match k with
  | .gross => if w < minimumLoad sc then some .belowMin else none
  | _ => if lastWeight t - w < division sc then some .order else none

/-- The state code of a ticket in WEIGHED. -/
def weighedState (s : State) (n : Nat) : Nat := ((s.ticket n).map (fun t => ticketStateCode t.state)).getD 0xFF

/-- The WEIGHED notice (R73, R74, R212). -/
def weighedNotice (sc : Scale) (k : CaptureKind) (subject : Nat) (w : Int) (state time : Nat) : Notice :=
  ⟨.weighed, some subject, be 1 (scaleCode sc) ++ be 1 (captureCode k) ++ beInt 4 w ++ be 1 state, time⟩

/-- A capture completes with a captured weight (R72 to R74). The WEIGHED notice of a STORE_TARE has no ticket: its ticket state is
the absent marker 0xFF (log 63). -/
def completeCapture (sc : Scale) (k : Capture) (w : Int) (s : State) : State :=
  let fail := fun r => failCapture sc k r (some w) s
  match k.kind with
  | .storeTare =>
    let v := k.vehicle.getD []
    match s.tarePlace v with
    | none => failCapture sc k .tareTableFull none s
    | some slot =>
      let s := removeCapture sc k s
      offerTo k.port (weighedNotice sc .storeTare slot w 0xFF s.clock)
        { s with tares := s.tares.set slot (some ⟨v, scaleClass sc, w, s.clock⟩) }
  | kind =>
    match k.ticket.bind s.ticket with
    | none => removeCapture sc k s
    | some t =>
      match weightFault sc kind w t with
      | some r => fail r
      | none =>
        let s := appendWeighing sc k w t (removeCapture sc k s)
        offerTo k.port (weighedNotice sc kind t.number w (weighedState s t.number) s.clock) s

/-- A PLATFORM TARE capture (R71). -/
def platformTare (sc : Scale) (k : Capture) : Bool := sc == .p && k.kind == .tare

/-- The channel presents its state to its capture, `good` after a good frame (R71). -/
def present (sc : Scale) (good : Bool) (s : State) : State :=
  let c := s.chan sc
  match c.capture with
  | none => s
  | some k =>
    match c.state with
    | .fault => failCapture sc k .scaleFault none s
    | .stable =>
      (match c.weight with
        | some w => if good then completeCapture sc k w s else s
        | none => s)
    | .moving => s.updChan sc (fun c => { c with capture := some { k with loadSeen := true } })
    | .overload => s.updChan sc (fun c => { c with capture := some { k with loadSeen := true } })
    | .empty =>
      if platformTare sc k then
        (match c.weight with
          | some w => if good ∧ s.stable sc then completeCapture sc k (max w 0) s else s
          | none => s)
      else if k.loadSeen then failCapture sc k .vehicleLeft none s
      else s
    | .disabled => s

end Sys2Proof.Machine
end

