-- ==== Sys2Proof/Machine/Scale.lean ====
section
/-! DEFINITION. Scale channels: the digitizer receiver, good and bad frames, zero, settings and calibration
(R1 to R25, R76, R213, R216). -/

namespace Sys2Proof.Machine

/-! ## The receiver (R2, R213) -/

/-- The start byte of a digitizer frame. -/
def startByte : Byte := 0x5A#8

/-- The bytes of a frame whose cell count field, its third byte, is `n`; a count outside 1 to 4 ends the frame there (R2). -/
def frameLength (n : Nat) : Nat := if 1 ≤ n ∧ n ≤ 4 then 5 + 3 * n else 3

/-- The receiver takes one byte: what it then holds, and the frame the byte completes (R2). -/
def receive (held : List RxByte) (b : RxByte) : List RxByte × Option (List RxByte) :=
  if held.isEmpty then (if b.value = startByte ∧ !b.framingError then ([b], none) else ([], none))
  else
    let f := held ++ [b]
    match f[2]? with
    | some n => if f.length = frameLength n.value.toNat then ([], some f) else (f, none)
    | none => (f, none)

/-- A complete frame taken apart (R213); `sumHolds` compares the check byte with the sum. -/
structure DigitizerFrame where
  framing : Bool
  sumHolds : Bool
  count : Nat
  sequence : Nat
  counts : List Int
  overRange : Bool
  digitizer : Bool
  deriving DecidableEq, Repr

/-- Take a complete frame apart (R213). -/
def parseFrame (f : List RxByte) : DigitizerFrame :=
  let bs := f.map (·.value)
  let n := (bs.getD 2 0#8).toNat
  let flags := bs.getD (3 + 3 * n) 0#8
  { framing := f.any (·.framingError)
    sumHolds := (bs.getD (4 + 3 * n) 0#8).toNat == byteSum 1 ((bs.drop 1).take (3 + 3 * n))
    count := n
    sequence := (bs.getD 1 0#8).toNat % 16
    counts := (List.range n).map (fun i => ofBytesInt ((bs.drop (3 + 3 * i)).take 3))
    overRange := flags.getLsbD 0
    digitizer := flags.getLsbD 1 }

/-- The cause of the first test that a frame fails; none for a good frame (R3). A frame with a framing error whose cell count
field is outside 1 to 4 records CELLS (log 53). -/
def frameFault (sc : Scale) (ref : Option Nat) (f : DigitizerFrame) : Option BadCause :=
  if f.count = 0 ∨ 4 < f.count then some .cells
  else if f.framing then some .check
  else if !f.sumHolds then some .check
  else if f.count ≠ cellCount sc then some .cells
  else if ref.isSome ∧ ref ≠ some f.sequence then some .sequence
  else if f.overRange then some .overRange
  else if f.digitizer then some .digitizer
  else none

/-- The sequence reference after a frame (R3). -/
def nextReference (f : DigitizerFrame) : Option Nat :=
  if (1 ≤ f.count ∧ f.count ≤ 4) ∧ !f.framing ∧ f.sumHolds then some ((f.sequence + 1) % 16) else none

/-! ## Weight, motion and state (R5 to R8) -/

/-- The calibrated weight W0 of cell counts (R5). -/
def calibratedWeight (cal : CalRecord) (counts : List Int) : Int :=
  let t := ((counts.zip cal.trims).map (fun (c, t) => c * (t : Int))).sum
  (t - 10000 * cal.zeroSum) * cal.span / 655360000

/-- W1 rounded to the nearest division, half way up (R6). -/
def reported (sc : Scale) (w1 : Int) : Int := division sc * ((w1 + division sc / 2) / division sc)

/-- The motion count after a weight (R7). -/
def nextMotion (sc : Scale) (c : Channel) (w : Int) : Nat :=
  match c.reference with
  | some r => if (w - r).natAbs ≤ division sc then min 255 (c.motion + 1) else 0
  | none => 0

/-- The scale state that a weight and a motion count decide (R8). -/
def decideState (sc : Scale) (cfg : ScaleSettings) (w : Int) (motion : Nat) : ScaleState :=
  if (overloadAbove sc : Int) < w then .overload
  else if w ≤ (cfg.empty * division sc : Nat) then .empty
  else if cfg.settle ≤ motion then .stable
  else .moving

/-- A channel takes a good frame's cell counts (R5 to R8, R11, R13). -/
def goodFrame (sc : Scale) (cfg : ScaleSettings) (counts : List Int) (c : Channel) : Channel :=
  let c := { c with faultCount := c.faultCount - 1 }
  let c := if cfg.recovery = .auto ∧ c.faultCount = 0 then leaveFault c else c
  if c.state = .fault then { c with motion := 0 }
  else match c.live with
    | none => { c with state := .empty, weight := none, w1 := none, reference := none, motion := 0 }
    | some cal =>
      let w1 := calibratedWeight cal counts - c.zeroOffset
      let w := reported sc w1
      let motion := nextMotion sc c w
      { c with state := decideState sc cfg w motion, weight := some w, w1 := some w1, reference := some w, motion := motion }

/-- Whether a bad-frame event takes the channel into FAULT (R12). -/
def entersFault (c : Channel) : Bool := c.state != .fault && 128 ≤ min 255 (c.faultCount + 8)

/-- A channel takes a bad-frame event (R9, R11, R12). -/
def badFrame (cause : BadCause) (c : Channel) : Channel :=
  let n := min 255 (c.faultCount + 8)
  let c' := { c with lastBad := some cause, motion := 0, reference := none, faultCount := n }
  if entersFault c then { c' with state := .fault, weight := none, w1 := none }
  else { c' with state := if c.state = .stable then .moving else c.state }

/-- A bad-frame event: the channel, its notice, its fault bit and its presentation, in that order (R9 to R12). -/
def takeBad (sc : Scale) (cause : BadCause) (s : State) : State :=
  let enters := entersFault (s.chan sc)
  let s := updScale sc (badFrame cause) s
  let s := if enters then setFault (scaleFaultKind sc) (.badCause cause) s else s
  present sc false s

/-- Within the zero bound (R1). -/
def zeroOk (sc : Scale) (z : Int) : Bool := z.natAbs ≤ zeroBound sc

/-- Zero tracking after a good frame (R15). -/
def zeroTrack (sc : Scale) (s : State) : State :=
  let c := s.chan sc
  match c.w1 with
  | some w =>
    if c.state = .empty ∧ s.stable sc ∧ c.weight = some 0 ∧ w ≠ 0 ∧ zeroOk sc (c.zeroOffset + w) then
      s.updChan sc (fun c => { c with zeroOffset := c.zeroOffset + w, w1 := some 0 })
    else s
  | none => s

/-- A complete frame is one event at the channel (R2, R3). -/
def takeDigitizerFrame (sc : Scale) (f : DigitizerFrame) (s : State) : State :=
  let ref := (s.chan sc).seqRef
  let s := s.updChan sc (fun c => { c with seqRef := nextReference f, silence := 0 })
  match frameFault sc ref f with
  | some cause => takeBad sc cause s
  | none => zeroTrack sc (present sc true (updScale sc (goodFrame sc (s.scaleSettings sc) f.counts) s))

/-- The receiver of a channel takes one byte; a DISABLED channel discards it (R2). -/
def takeByte (sc : Scale) (s : State) (b : RxByte) : State :=
  if (s.chan sc).state = .disabled then s
  else
    let r := receive (s.chan sc).rx b
    let s := s.updChan sc (fun c => { c with rx := r.1 })
    match r.2 with
    | some f => takeDigitizerFrame sc (parseFrame f) s
    | none => s

/-- DIGITIZER_FRAME: the bytes of a frame arrive (R2, R3). -/
def execDigitizerFrame (sc : Scale) (bytes : List RxByte) (s : State) : Host.Outcome State Fault Refusal :=
  event s (fun s => drainTest (bytes.foldl (takeByte sc) s))

/-- SILENCE_EVENT: the silence timer of an enabled channel expires (R4). -/
def execSilenceEvent (sc : Scale) (s : State) : Host.Outcome State Fault Refusal :=
  event s (fun s =>
    if (s.chan sc).state = .disabled then s
    else drainTest (takeBad sc .silence (s.updChan sc (fun c => { c with rx := [], seqRef := none, silence := 0 }))))

/-- CAPTURE_TIMEOUT: the capture timer reaches 0; without a capture it does nothing (R76). -/
def execCaptureTimeout (sc : Scale) (s : State) : Host.Outcome State Fault Refusal :=
  event s (fun s => drainTest (failArmed sc .timeout s))

/-! ## Requests on a scale -/

/-- RESTORE SCALE (R14). -/
def restoreScale (p : Port) (scale : Byte) (s : State) : State :=
  if !s.maskAdmits p scale then refuse p .role s
  else if s.mode = .starting then refuse p .mode s
  else match scaleOf scale with
    | none => refuse p .range s
    | some sc =>
      if (s.chan sc).state = .disabled then refuse p .scaleState s
      else drainTest (present sc false (reply p .ok []
        (updScale sc (fun c => leaveFault { c with faultCount := 0 }) s)))

/-- RESTORE SCALE (R14). -/
def execRestoreScale (p : Port) (scale : Byte) (s : State) : Host.Outcome State Fault Refusal :=
  request p s (restoreScale p scale)

/-- The last check and the effect of ZERO SCALE (R16 check 7); the W1 added is used up (log 13). -/
def applyZero (p : Port) (sc : Scale) (w1 : Int) (s : State) : State :=
  if zeroOk sc ((s.chan sc).zeroOffset + w1) then
    reply p .ok [] (s.updChan sc (fun c => { c with zeroOffset := c.zeroOffset + w1, weight := some 0, w1 := some 0 }))
  else refuse p .range s

/-- ZERO SCALE (R16). -/
def zeroScale (p : Port) (scale : Byte) (s : State) : State :=
  if !s.maskAdmits p scale then refuse p .role s
  else if s.mode = .starting then refuse p .mode s
  else match scaleOf scale with
    | none => refuse p .range s
    | some sc =>
      let c := s.chan sc
      if c.state = .disabled ∨ c.state = .fault ∨ c.weight.isNone then refuse p .scaleState s
      else if c.capture.isSome then refuse p .scaleBusy s
      else if s.loaded sc ∨ !s.stable sc then refuse p .scaleState s
      else applyZero p sc (c.w1.getD 0) s

/-- ZERO SCALE (R16). -/
def execZeroScale (p : Port) (scale : Byte) (s : State) : Host.Outcome State Fault Refusal :=
  request p s (zeroScale p scale)

/-- The settings that SCALE SETTINGS carries, when each lies in its range (R1, R17). -/
def settingsOf (enable settle timeout empty recovery : Byte) : Option ScaleSettings :=
  match recoveryOf recovery with
  | none => none
  | some r =>
    if enable.toNat ≤ 1 ∧ (3 ≤ settle.toNat ∧ settle.toNat ≤ 20) ∧ (10 ≤ timeout.toNat ∧ timeout.toNat ≤ 120) ∧
        (1 ≤ empty.toNat ∧ empty.toNat ≤ 50) then
      some ⟨enable == 1#8, settle.toNat, timeout.toNat, empty.toNat, r⟩
    else none

/-- What a change between enabled and disabled does to the channel (R17). -/
def switchChannel (was now : Bool) (c : Channel) : Channel :=
  if was && !now then
    { c with state := .disabled, weight := none, w1 := none, reference := none, motion := 0, faultCount := 0,
             seqRef := none, silence := 0, rx := [] }
  else if !was && now then { c with state := .empty, weight := none, w1 := none, silence := 0, rx := [] }
  else c

/-- The live settings change, and differ from the store (R30). -/
def changeSettings (f : Settings → Settings) (s : State) : State := { s with settings := f s.settings, dirty := true }

/-- SCALE SETTINGS (R17). -/
def scaleSettingsRequest (p : Port) (scale enable settle timeout empty recovery : Byte) (s : State) : State :=
  if !s.isOffice p then refuse p .role s
  else if s.mode ≠ .config then refuse p .mode s
  else match scaleOf scale, settingsOf enable settle timeout empty recovery with
    | some sc, some cfg =>
      let was := (s.scaleSettings sc).enabled
      let s := changeSettings (fun t => { t with scales := t.scales.set sc cfg }) s
      present sc false (reply p .ok [] (updScale sc (switchChannel was cfg.enabled) s))
    | _, _ => refuse p .range s

/-- SCALE SETTINGS (R17). -/
def execScaleSettings (p : Port) (scale enable settle timeout empty recovery : Byte) (s : State) :
    Host.Outcome State Fault Refusal :=
  request p s (scaleSettingsRequest p scale enable settle timeout empty recovery)

/-- A signed weight in four bytes; one outside them is a free value (log 14). -/
def State.weight32 (s : State) (w : Option Int) : List Byte × State :=
  match w with
  | none => (absent 4, s)
  | some w => if -(2 ^ 31) ≤ w ∧ w < 2 ^ 31 then (beInt 4 w, s) else (be 4 s.takeFree.1, s.takeFree.2)

/-- What READ SCALE reports of the capture (R18): without one every field is absent, its ticket number's two bytes among them
(R209; log 15). -/
def captureData (k : Option Capture) : List Byte :=
  match k with
  | none => [flag false] ++ absent 1 ++ absent 1 ++ absent 2 ++ absent 4 ++ absent 1
  | some k =>
    [flag true] ++ be 1 (captureCode k.kind) ++ be 1 (portCode k.port) ++
    (match k.vehicle with
      | some v => sized v
      | none => beOpt 2 k.ticket) ++ be 4 k.armedTime ++ be 1 k.remaining

/-- The data of READ SCALE after the weight (R18, R211). -/
def scaleData (s : State) (sc : Scale) (weight : List Byte) : List Byte :=
  let c := s.chan sc
  let cfg := s.scaleSettings sc
  [flagByte [c.live.isSome, c.capture.isSome]] ++ be 1 (scaleStateCode c.state) ++ [flag (warn c)] ++ weight ++
  be 1 c.motion ++ [flag (s.stable sc)] ++ be 1 c.faultCount ++ beOpt 1 (c.lastBad.map badCauseCode) ++
  beInt 4 c.zeroOffset ++ [flag cfg.enabled] ++ be 1 cfg.settle ++ be 1 cfg.timeout ++ be 1 cfg.empty ++
  be 1 (recoveryCode cfg.recovery) ++ be 1 c.calCounter ++ be 1 c.slotsUsed ++ [flag c.calLocked] ++
  beOpt 1 (c.live.map (·.sequence)) ++ beOpt 4 (c.live.map (·.time)) ++ captureData c.capture

/-- READ SCALE (R18). -/
def readScale (p : Port) (scale : Byte) (s : State) : State :=
  if s.mode = .starting then refuse p .mode s
  else match scaleOf scale with
    | none => refuse p .range s
    | some sc =>
      let (w, s) := s.weight32 (s.chan sc).weight
      reply p .ok (scaleData s sc w) s

/-- READ SCALE (R18). -/
def execReadScale (p : Port) (scale : Byte) (s : State) : Host.Outcome State Fault Refusal :=
  request p s (readScale p scale)

/-! ## The calibration area (section 1.8, R216) -/

/-- The 22 bytes that a calibration record programs (R216). -/
def calBytes (r : CalRecord) : List Byte :=
  let b := be 1 r.sequence ++ beInt 4 r.zeroSum ++ be 3 r.span ++ r.trims.flatMap (be 2) ++ be 4 r.time
  b ++ be 2 (byteSum 2 b)

/-- The record in a slot's 32 bytes; none when its check fails (R19). -/
def calRecordOf (bs : List Byte) : Option CalRecord :=
  if entryNat bs 20 2 = byteSum 2 (entryField bs 0 20) then
    some ⟨entryNat bs 0 1, ofBytesInt (entryField bs 1 4), entryNat bs 5 3,
      (List.range 4).map (fun i => entryNat bs (8 + 2 * i) 2), entryNat bs 16 4⟩
  else none

/-- The span and the trims used lie in their ranges (R20 check 3). -/
def calRangeOk (sc : Scale) (span : Nat) (trims : List Nat) : Bool :=
  1 ≤ span && (trims.take (cellCount sc)).all (fun t => 9000 ≤ t && t ≤ 11000)

/-- Hand a write to the program engine (R127); the event then ends. -/
def handWrite (w : WriteReq) (s : State) : State :=
  settle { s with engine := { s.engine with writes := s.engine.writes ++ [w] } }

/-- CALIBRATE (R20). A calibration write of the scale that still waits for the engine counts as being programmed (log 67). -/
def calibrate (p : Port) (scale : Byte) (zeroSum : Word) (span : Tri) (trims : List Nat) (s : State) : State :=
  if !s.isOffice p then refuse p .role s
  else if s.mode ≠ .config then refuse p .mode s
  else match scaleOf scale with
    | none => refuse p .range s
    | some sc =>
      let c := s.chan sc
      if !calRangeOk sc span.toNat trims then refuse p .range s
      else if c.calLocked then refuse p .locked s
      else if 64 ≤ c.slotsUsed then refuse p .counterSpent s
      else if !s.clockSet then refuse p .clockUnset s
      else if (s.calJobs.get sc).isSome then refuse p .state s
      else
        let job : CalJob := .record p ⟨c.calCounter + 1, zeroSum.toInt, span.toNat, trims, s.clock⟩
        handWrite (.calRecord sc) { s with calJobs := s.calJobs.set sc (some job) }

/-- CALIBRATE (R20). -/
def execCalibrate (p : Port) (scale : Byte) (zeroSum : Word) (span : Tri) (t1 t2 t3 t4 : Half) (s : State) :
    Host.Outcome State Fault Refusal :=
  request p s (calibrate p scale zeroSum span [t1.toNat, t2.toNat, t3.toNat, t4.toNat])

/-- A new record becomes live (R20). -/
def goLive (r : CalRecord) (c : Channel) : Channel :=
  let c := { c with calCounter := c.calCounter + 1, live := some r, zeroOffset := 0, weight := none, w1 := none,
                    reference := none, motion := 0 }
  if c.state = .fault ∨ c.state = .disabled then c else { c with state := .empty }

/-- The address of the calibration slot in programming: the one before the channel's next (R20, R216). -/
def calAddr (c : Channel) : Nat := 32 * (c.nextSlot - 1)

/-- The programming of a calibration slot ends (R20, R21). -/
def recordWritten (sc : Scale) (p : Port) (r : CalRecord) (cells : Cells) (s : State) : State :=
  let area := s.cal.get sc
  let (slots, ok) := memProgramVerify area.slots (calAddr (s.chan sc)) (calBytes r) cells
  let s := { s with cal := s.cal.set sc { area with slots := slots }, calJobs := s.calJobs.set sc none }.endOp
  if ok then
    let s := present sc false (updScale sc (goLive r) s)
    settle (reply p .ok (be 1 (s.chan sc).calCounter) s)
  else settle (refuse p .media (setFault .storeMedia (.calArea sc) s))

/-- CALIBRATION_RECORD_WRITTEN (R20, R21); nothing when the engine is not programming that scale's record (log 8). -/
def execCalibrationRecordWritten (sc : Scale) (cells : Cells) (s : State) : Host.Outcome State Fault Refusal :=
  event s (fun s =>
    match s.engine.current, s.calJobs.get sc with
    | some (.calRecord sc'), some (.record p r) => if sc' = sc then recordWritten sc p r cells s else s
    | _, _ => s)

/-- LOCK CALIBRATION (R22). A calibration write of the scale that still waits for the engine counts as being programmed (log 67). -/
def lockCalibration (p : Port) (scale : Byte) (s : State) : State :=
  if !s.isOffice p then refuse p .role s
  else if s.mode ≠ .config then refuse p .mode s
  else match scaleOf scale with
    | none => refuse p .range s
    | some sc =>
      if (s.chan sc).calLocked then refuse p .locked s
      else if (s.chan sc).calCounter < 1 then refuse p .state s
      else if (s.calJobs.get sc).isSome then refuse p .state s
      else handWrite (.calLock sc) { s with calJobs := s.calJobs.set sc (some (.lock p)) }

/-- LOCK CALIBRATION (R22). -/
def execLockCalibration (p : Port) (scale : Byte) (s : State) : Host.Outcome State Fault Refusal :=
  request p s (lockCalibration p scale)

/-- The lock location after its programming to 0x00 (R216). -/
def lockByte (old : Byte) (cells : Cells) : Byte := programByte old 0x00#8 (cells.stuck.headD 0#8) (cells.lost.headD 0#8)

/-- The programming of a lock location ends (R22). -/
def lockWritten (sc : Scale) (p : Port) (cells : Cells) (s : State) : State :=
  let area := s.cal.get sc
  let b := lockByte area.lock cells
  let s := { s with cal := s.cal.set sc { area with lock := b }, calJobs := s.calJobs.set sc none }.endOp
  if b ≠ 0xFF#8 then settle (reply p .ok [] (s.updChan sc (fun c => { c with calLocked := true })))
  else settle (refuse p .media (setFault .storeMedia (.calLock sc) s))

/-- CALIBRATION_LOCK_WRITTEN (R22); nothing when the engine is not programming that scale's lock (log 8). -/
def execCalibrationLockWritten (sc : Scale) (cells : Cells) (s : State) : Host.Outcome State Fault Refusal :=
  event s (fun s =>
    match s.engine.current, s.calJobs.get sc with
    | some (.calLock sc'), some (.lock p) => if sc' = sc then lockWritten sc p cells s else s
    | _, _ => s)

/-! ## Starts (R19, R23, R24) -/

/-- The records of a scale's slots: for each slot that is not blank, its record or none (R19). -/
def calSlots (area : CalArea) : List (Option CalRecord) :=
  (List.range 64).filterMap (fun i =>
    if calSlotBlank area i then none else some (calRecordOf (memBytes area.slots (32 * i) 32)))

/-- The slot after the last one that is not blank; 0 when every slot is blank (R20; log 33). -/
def calEnd (area : CalArea) : Nat := 64 - ((List.range 64).reverse.takeWhile (calSlotBlank area)).length

/-- The valid record with the highest sequence, of two with that sequence the one in the lower slot (R19; log 60). -/
def newestRecord (rs : List CalRecord) : Option CalRecord :=
  rs.foldl (fun best r =>
    match best with
    | some b => if b.sequence < r.sequence then some r else best
    | none => some r) none

/-- A channel at a start: it keeps its zero offset and reads the calibration area (R19, R23). -/
def startChannel (enabled : Bool) (area : CalArea) (zero : Int) : Channel :=
  let slots := calSlots area
  let valid := slots.filterMap id
  { Channel.fresh with
    state := if enabled then .empty else .disabled
    zeroOffset := zero
    live := newestRecord valid
    calCounter := valid.length
    slotsUsed := slots.length
    nextSlot := calEnd area
    calLocked := area.lock != 0xFF#8 }

end Sys2Proof.Machine
end

