-- ==== Sys2Proof/Machine/Settlement.lean ====
section
/-! DEFINITION. The settlement unit and the head commit: acceptance, the five steps of a commit, torn attempts, completion and
failure, and the requests SETTLE TICKET, VOID TICKET and CLOSE SHIFT (R55 to R61, R100 to R113, R120 to R126, R169). -/

namespace Sys2Proof.Machine

/-! ## The end of a commit (R107 to R109, R126) -/

/-- A reserved job takes the receipt number and is QUEUED (R107). -/
def queueReserved (receipt : Nat) (s : State) (slot : Nat) : State :=
  match s.job slot with
  | some j => s.setJob slot (some { j with state := .queued, receipt := if j.kind = .tally then none else some receipt })
  | none => s

/-- The data of a completed commit's result (R106, R211). -/
def completionData (kind : EntryKind) (receipt : Nat) (total : Option Nat) (shift : Nat) : List Byte :=
  match kind with
  | .payout => be 4 receipt ++ be 4 (total.getD 0)
  | .void => [flagByte [total.isSome]] ++ be 4 receipt ++ beOpt 4 total
  | .shift => be 4 receipt ++ be 4 shift

/-- The effects of a completion, of a commit that ends in RUN or is resolved at a start, apart from its result
(R107, R108, R114). -/
def completeRecord (r : Settlement) (receipt : Nat) (s : State) : State :=
  let t := r.ticket.bind s.ticket
  let s := match r.ticket with | some n => s.freeTicket n | none => s
  let s := r.jobs.foldl (queueReserved receipt) s
  let s := tallyCompletion r.kind t receipt s
  broadcast ⟨.receiptCommitted, some receipt, be 1 (entryKindCode r.kind), s.clock⟩ s

/-- The ticket and the jobs of a record that ends without a receipt (R109, R114). The two jobs of a SHIFT commit leave in the order
of the record, SHIFT_REPORT and then TALLY, and the backlog walk is tested at each, so it fills the first one's slot first: no rule
orders them (log 29, DESIGN CHOICE). -/
def failRecord (r : Settlement) (s : State) : State :=
  let s := match r.ticket with | some n => returnTicket n s | none => s
  r.jobs.foldl (fun s slot => removeJob slot s) s

/-- The head commit leaves the queue with its settlement record. -/
def State.dropHead (s : State) : State :=
  { s with settlements := s.settlements.tail, commitQueue := s.commitQueue.tail, head := none }

/-- The head commit completes with a receipt number (R107). -/
def completeHead (receipt : Nat) (s : State) : State :=
  match s.settlements with
  | [] => s.dropHead
  | r :: _ =>
    let total := (r.ticket.bind s.ticket).bind (·.total)
    let data := completionData r.kind receipt total s.tally.shift
    (reply r.port .ok data (completeRecord r receipt s)).dropHead

/-- The head commit fails: MEDIA with its torn numbers, an absent one as 0 (R109, R211). -/
def failHead (s : State) : State :=
  match s.settlements with
  | [] => s.dropHead
  | r :: _ =>
    let data := be 4 (r.torn.getD 0 0) ++ be 4 (r.torn.getD 1 0)
    (reply r.port .media data (failRecord r s)).dropHead

/-! ## Steps 1 and 2 (R120, R123, R124) -/

/-- Change the settlement record of the head commit. -/
def State.updRecord (s : State) (f : Settlement → Settlement) : State :=
  { s with settlements := match s.settlements with | [] => [] | r :: rs => f r :: rs }

/-- The number of an attempt is set in the settlement record and in the ticket (R59, R100). -/
def reportNumber (r : CommitReq) (n : Nat) (s : State) : State :=
  let s := s.updRecord (fun c => { c with receipt := some n })
  match r.ticket with
  | some t => s.updTicket t (fun t => { t with commit := t.commit.map (fun c => { c with receipt := some n }) })
  | none => s

/-- The head commit has its entry's place and waits for the engine. -/
def readyHead (h : Head) (i slot : Nat) (s : State) : State :=
  { s with head := some { h with step := .header, sector := i, slot := slot },
           engine := { s.engine with writes := s.engine.writes ++ [.commitStep] } }

/-- Step 2: select the entry, or wait (R124). -/
def selectEntry (kind : EntryKind) (h : Head) (s : State) : State :=
  match s.sectors.findIdx? (fun c => c.state == .filling) with
  | some i => readyHead h i (s.sector i).used s
  | none =>
    match s.aheadRun with
    | [] =>
      let s' := { s with head := some { h with step := .waitEmpty } }
      if h.step = .waitEmpty then s' else setFault .journalFull (.commitKind kind) s'
    | i :: _ =>
      if (s.sector i).state = .erased then
        readyHead h i 0 (s.updSector i (fun c => { c with state := .filling, first := some h.number, used := 0 }))
      else { s with head := some { h with step := .waitErasing } }

/-- The head commit that waits at step 2 selects again when an erase or a blank check has ended (R124). -/
def selectAgain (s : State) : State :=
  match s.head, s.commitQueue with
  | some h, r :: _ => if h.step = .waitErasing ∨ h.step = .waitEmpty then selectEntry r.kind h s else s
  | _, _ => s

/-- The last receipt number. -/
def lastReceipt : Nat := 4294967295

/-- The counter advances past an assigned number, or is exhausted (R120). -/
def State.advanceCounter (s : State) : State :=
  if s.counter < lastReceipt then { s with counter := s.counter + 1 } else { s with exhausted := true }

/-- Step 1 of an attempt: assign the counter's value, build the entry and report the number; then step 2 (R123). -/
def assignNumber (r : CommitReq) (attempt : Nat) (s : State) : State :=
  let n := s.counter
  let h : Head := ⟨attempt, n, .header, 0, 0, buildEntry s r n⟩
  selectEntry r.kind h (reportNumber r n s.advanceCounter)

/-- Take the head commit of a queue that has none taken; one that finds the counter exhausted fails at once, and the next is
taken (R120, R126). It is taken in the event in which it comes to the head, whatever the engine then has in hand (R123; log 68). -/
def takeHead : Nat → State → State
  | 0, s => s
  | fuel + 1, s =>
    match s.head, s.commitQueue with
    | none, r :: _ =>
      if s.exhausted then takeHead fuel (failHead (setFault .journalFull (.commitKind r.kind) s))
      else assignNumber r 1 s
    | _, _ => s

/-- Take the next head commit; each that fails at once leaves the queue. -/
def nextHead (s : State) : State := takeHead (s.commitQueue.length + 1) s

/-! ## Steps 3 to 5 (R123, R125) -/

/-- The slot of the head commit has ended its programming with a mark (R124, R125): the entry is no longer one in progress, so
the head's place is empty until the commit ends or selects its next entry. -/
def endSlot (i slot : Nat) (m : Mark) (s : State) : State :=
  { s.updSector i (fun c =>
      { c with used := c.used + 1, marks := c.marks.set slot m, state := if c.used + 1 = 16 then .full else c.state }) with
    head := none }

/-- TORN is programmed on an entry; a byte that does not take it has its body check programmed to 0 (R125). -/
def programTorn (i slot : Nat) (torn check : Cells) (s : State) : State :=
  let (s, b) := s.programMark i slot .torn torn
  if carries b .torn then s
  else { s with journal := memProgram s.journal (entryAddr i slot + 252) (be 4 0) check.stuck check.lost }

/-- The head commit's attempt ends torn (R125). -/
def tearAttempt (r : CommitReq) (h : Head) (torn check : Cells) (s : State) : State :=
  let s := endSlot h.sector h.slot .torn (programTorn h.sector h.slot torn check s)
  let s := tallyTorn (s.updRecord (fun c => { c with torn := c.torn ++ [h.number] }))
  if h.attempt = 1 then
    if s.exhausted then nextHead (failHead (setFault .journalFull (.commitKind r.kind) s))
    else assignNumber r 2 s
  else nextHead (failHead (setFault .journalMedia (.receipt h.number) s))

/-- The bytes that a step programs, and their offset in the entry (R123, R215). -/
def stepBytes (h : Head) : Nat × List Byte :=
  match h.step with
  | .header => (0, markPattern .started :: (h.entry.drop 1).take 11)
  | .body => (16, h.entry.drop 16)
  | _ => (0, [markPattern .complete])

/-- A step whose read-back was good (R123). -/
def passStep (h : Head) (s : State) : State :=
  match h.step with
  | .header =>
    readyStep .body (s.setSlotMark h.sector h.slot .started)
  | .body => readyStep .complete s
  | _ => nextHead (completeHead h.number (endSlot h.sector h.slot .complete s))
where
  /-- The next step waits for the engine. -/
  readyStep (step : HeadStep) (s : State) : State :=
    { s with head := some { h with step := step },
             engine := { s.engine with writes := s.engine.writes ++ [.commitStep] } }

/-- The engine ends the head commit's step (R123, R125); the space is evaluated and the event ends (R133, log 11). -/
def endStep (step : HeadStep) (cells torn check : Cells) (s : State) : State :=
  match s.engine.current, s.head, s.commitQueue with
  | some .commitStep, some h, r :: _ =>
    if h.step = step then
      let (off, bytes) := stepBytes h
      let (j, ok) := memProgramVerify s.journal (entryAddr h.sector h.slot + off) bytes cells
      let s := { s with journal := j }.endOp
      settle (evalSpace (if ok then passStep h s else tearAttempt r h torn check s))
    else s
  | _, _, _ => s

/-- COMMIT_HEADER: step 3 ends (R123); nothing when it is not the operation in hand (log 8). -/
def execCommitHeader (cells torn check : Cells) (s : State) : Host.Outcome State Fault Refusal :=
  event s (endStep .header cells torn check)

/-- COMMIT_BODY: step 4 ends (R123). -/
def execCommitBody (cells torn check : Cells) (s : State) : Host.Outcome State Fault Refusal :=
  event s (endStep .body cells torn check)

/-- COMMIT_COMPLETE: step 5 ends (R123). -/
def execCommitComplete (cells torn check : Cells) (s : State) : Host.Outcome State Fault Refusal :=
  event s (endStep .complete cells torn check)

/-! ## Acceptance (R102 to R104, R110, R113) -/

/-- Reserve a print slot for each kind (R103): the slots and the state. The jobs are created in the order of the kinds, for a SHIFT
commit SHIFT_REPORT before TALLY (log 73, DEDUCED). -/
def reserveJobs (p : Port) : List JobKind → State → List Nat × State
  | [], s => ([], s)
  | k :: ks, s =>
    let slot := (s.jobs.findIdx? Option.isNone).getD 16
    let r := reserveJobs p ks (createJob k none (some p) .reserved s)
    (slot :: r.1, r.2)

/-- A commit is accepted: its slots are reserved, its record and its request are appended, and the port stays BUSY. -/
def acceptCommit (p : Port) (kind : EntryKind) (ticket : Option Nat) (jobs : List JobKind) (s : State) : State :=
  let r := reserveJobs p jobs s
  let s := r.2
  let record : Settlement := ⟨kind, ticket, p, r.1, none, []⟩
  settle (evalSpace (nextHead { s with
    settlements := s.settlements ++ [record], commitQueue := s.commitQueue ++ [⟨kind, ticket, p⟩] }))

/-- The journal space and print slot checks (R102, R103); a failed space check sets JOURNAL_FULL. -/
def withSpace (p : Port) (kind : EntryKind) (slots : Nat) (f : State → State) (s : State) : State :=
  if s.space < 1 then refuse p .journalFull (setFault .journalFull (.commitKind kind) s)
  else if s.freeSlots < slots then refuse p .queueFull s
  else f s

/-- The ticket enters COMMITTING (R59). -/
def enterCommit (p : Port) (kind : EntryKind) (reason : Option Nat) (t : Ticket) (s : State) : State :=
  s.updTicket t.number (fun r =>
    { r with state := .committing, claim := none, commit := some ⟨kind, reason, p, t.state, none⟩ })

/-- SETTLE TICKET (R101, R104). -/
def settleTicket (p : Port) (n : Half) (s : State) : State :=
  guarded p [(s.isWindowOrOffice p, .role), (s.isRun, .mode)] (withTicket p n fun t =>
    guarded p [(t.state != .held, .held), (t.state == .payable, .state), (!claimedByOther p t, .claimed)]
      (withSpace p .payout 1 fun s =>
        acceptCommit p .payout (some t.number) [.original] (enterCommit p .payout none t s))) s

/-- SETTLE TICKET (R101, R104). -/
def execSettleTicket (p : Port) (n : Half) (s : State) : Host.Outcome State Fault Refusal :=
  request p s (settleTicket p n)

/-- Fail the capture armed for a ticket, as a void does (R56, R57). -/
def voidCapture (t : Ticket) (s : State) : State :=
  match t.capture with
  | some sc => failArmed sc .voided s
  | none => s

/-- The void of a ticket with no weighings frees it at once (R56). -/
def voidUnweighed (p : Port) (t : Ticket) (s : State) : State :=
  reply p .ok [] ((voidCapture t s).freeTicket t.number)

/-- The void of a weighed ticket (R57, R110). -/
def voidWeighed (p : Port) (reason : Nat) (t : Ticket) (s : State) : State :=
  let s := voidCapture t s
  let s := if t.state = .held then { s with holds := dropHold t.number s.holds } else s
  acceptCommit p .void (some t.number) [.voidSlip] (enterCommit p .void (some reason) t s)

/-- VOID TICKET (R55). -/
def voidTicket (p : Port) (n : Half) (reason : Byte) (s : State) : State :=
  guarded p [(s.isScaleOrOffice p, .role), (s.isRun, .mode), (1 ≤ reason.toNat && reason.toNat ≤ 15, .range)]
    (withTicket p n fun t =>
      guarded p [(!claimedByOther p t, .claimed), (t.state != .committing, .state),
          (s.isOffice p || t.state == .opened || t.state == .onYard, .role)]
        (if t.weighings.isEmpty then voidUnweighed p t
          else withSpace p .void 1 (voidWeighed p reason.toNat t))) s

/-- VOID TICKET (R55 to R57, R110). -/
def execVoidTicket (p : Port) (n : Half) (reason : Byte) (s : State) : Host.Outcome State Fault Refusal :=
  request p s (voidTicket p n reason)

/-- No TALLY job stands in the print queue, in any state (R169 check 3). -/
def State.noTallyJob (s : State) : Bool :=
  s.jobs.all (fun j => match j with | some j => j.kind != .tally | none => true)

/-- CLOSE SHIFT (R113, R169). -/
def closeShift (p : Port) (s : State) : State :=
  guarded p [(s.isOffice p, .role), (s.isRun, .mode), (s.noTallyJob, .tallyPending)]
    (withSpace p .shift 2 (acceptCommit p .shift none [.shiftReport, .tally])) s

/-- CLOSE SHIFT (R113, R169). -/
def execCloseShift (p : Port) (s : State) : Host.Outcome State Fault Refusal := request p s (closeShift p)

end Sys2Proof.Machine
end

