-- ==== Sys2Proof/Machine/Tickets.lean ====
section
/-! DEFINITION. The requests on tickets that make no commit: opening and identifying, docking, the stored-tare close and the
reads (R40, R45 to R47, R50, R54, R62, R63). -/

namespace Sys2Proof.Machine

/-! ## Opening and identifying (R40, R45 to R47) -/

/-- The ticket number after another: 9999 is followed by 1 (R40). -/
def nextNumber (n : Nat) : Nat := if n = 9999 then 1 else n + 1

/-- The first number not in use, from one on (R40). -/
def searchNumber (s : State) : Nat → Nat → Nat
  | 0, n => n
  | fuel + 1, n => if (s.ticket n).isSome then searchNumber s fuel (nextNumber n) else n

/-- The number that the next ticket opened receives (R40): the search ends within 48 numbers. -/
def State.openNumber (s : State) : Nat := searchNumber s 48 s.nextTicket

/-- A ticket as OPEN TICKET leaves it (R45). -/
def newTicket (n : Nat) (c : Class) (p : Port) (time : Nat) (v : Option (List Byte)) : Ticket :=
  ⟨n, .opened, c, p, time, v, none, [], [], none, none, none, none, none, none, none⟩

/-- OPEN TICKET (R45). -/
def openTicket (p : Port) (cls : Byte) (vehicle : List Byte) (s : State) : State :=
  guarded p [(s.isScaleOrOffice p, .role), (s.isRun, .mode), ((classOf cls).isSome && idOk 0 10 vehicle, .range),
      (decide (s.tickets.length < 48), .tableFull)]
    (fun s =>
      let n := s.openNumber
      let t := newTicket n ((classOf cls).getD .bridge) p s.clock (optionalId vehicle)
      reply p .ok (be 2 n) { s with tickets := s.tickets ++ [t], nextTicket := nextNumber n }) s

/-- OPEN TICKET (R45). -/
def execOpenTicket (p : Port) (cls : Byte) (vehicle : List Byte) (s : State) : Host.Outcome State Fault Refusal :=
  request p s (openTicket p cls vehicle)

/-- OPEN or ON_YARD. -/
def inYard (t : Ticket) : Bool := t.state == .opened || t.state == .onYard

/-- SET VEHICLE (R46). -/
def setVehicle (p : Port) (n : Half) (vehicle : List Byte) (s : State) : State :=
  guarded p [(s.isScaleOrOffice p, .role), (s.started, .mode), (idOk 0 10 vehicle, .range)]
    (withTicket p n fun t =>
      guarded p [(!claimedByOther p t, .claimed), (inYard t, .state)]
        (fun s => reply p .ok [] (s.updTicket t.number (fun r => { r with vehicle := optionalId vehicle })))) s

/-- SET VEHICLE (R46). -/
def execSetVehicle (p : Port) (n : Half) (vehicle : List Byte) (s : State) : Host.Outcome State Fault Refusal :=
  request p s (setVehicle p n vehicle)

/-- SET SELLER (R47). -/
def setSeller (p : Port) (n : Half) (seller : List Byte) (s : State) : State :=
  guarded p [(s.notView p, .role), (s.started, .mode), (idOk 1 16 seller, .range)]
    (withTicket p n fun t =>
      guarded p [(!claimedByOther p t, .claimed), (t.state != .committing, .state)]
        (fun s => reply p .ok [] (s.updTicket t.number (fun r => { r with seller := some seller })))) s

/-- SET SELLER (R47). -/
def execSetSeller (p : Port) (n : Half) (seller : List Byte) (s : State) : Host.Outcome State Fault Refusal :=
  request p s (setSeller p n seller)

/-! ## Lines and the stored-tare close (R50, R54) -/

/-- The line of a grade. -/
def lineOf (t : Ticket) (g : Nat) : Option Line := t.lines.find? (fun l => l.grade == g)

/-- The net weight of a grade's line. -/
def netOf (t : Ticket) (g : Nat) : Nat := ((lineOf t g).map (·.net)).getD 0

/-- The ticket with a line's dock weight replaced. -/
def setDock (g dock : Nat) (t : Ticket) : Ticket :=
  { t with lines := t.lines.map (fun l => if l.grade == g then { l with dock := dock } else l) }

/-- DOCK LINE (R50). -/
def dockLine (p : Port) (n : Half) (grade : Byte) (dock : Word) (s : State) : State :=
  guarded p [(s.isScaleOrOffice p, .role), (s.started, .mode), (gradeOk grade, .range)]
    (withTicket p n fun t =>
      guarded p [(!claimedByOther p t, .claimed), (t.state == .onYard, .state), ((lineOf t grade.toNat).isSome, .grade),
          (decide (dock.toNat ≤ netOf t grade.toNat) && dock.toNat % classDivision t.cls == 0, .range)]
        (fun s => reply p .ok (be 4 (netOf t grade.toNat - dock.toNat))
          (s.updTicket t.number (setDock grade.toNat dock.toNat)))) s

/-- DOCK LINE (R50). -/
def execDockLine (p : Port) (n : Half) (grade : Byte) (dock : Word) (s : State) : Host.Outcome State Fault Refusal :=
  request p s (dockLine p n grade dock)

/-- Whether a close with a grade meets a restricted grade, named or on the ticket (R54 check 12, R68 check 13). -/
def restrictedClose (s : State) (t : Ticket) (g : Nat) : Bool := s.gradeRestricted g || s.ticketRestricted t

/-- The result of a stored-tare close (R54; layout log 15). -/
def closeData (t : Ticket) : List Byte :=
  [flagByte [t.hold.isSome]] ++ be 1 (ticketStateCode t.state) ++ be 4 (t.total.getD 0) ++ beOpt 4 (t.hold.map (·.expiry))

/-- Close a ticket on a stored tare (R51, R54). -/
def closeStored (p : Port) (t : Ticket) (g : Nat) (tare : Int) (s : State) : State :=
  let lines := attributeWeight g (lastWeight t - tare).toNat t.lines
  let s := closeTicket t lines (.stored tare) s
  reply p .ok ((s.ticket t.number).elim [] closeData) s

/-- CLOSE ON STORED TARE (R54). -/
def closeOnStoredTare (p : Port) (n : Half) (grade : Byte) (s : State) : State :=
  let g := grade.toNat
  guarded p [(s.isScaleOrOffice p, .role), (s.isRun, .mode), (gradeOk grade, .range)]
    (withTicket p n fun t =>
      guarded p [(!claimedByOther p t, .claimed), (t.state == .onYard, .state), (t.capture.isNone, .capturePending),
          (t.vehicle.isSome, .noTare)]
        (fun s =>
          match s.storedTare (t.vehicle.getD []) t.cls with
          | .error code => refuse p code s
          | .ok tare =>
            let restricted := restrictedClose s t g
            guarded p [(decide (tare + classDivision t.cls ≤ lastWeight t), .order), (s.gradeActive g, .grade),
                (lineFits t g, .linesFull), (!restricted || t.seller.isSome, .sellerIdRequired),
                (!restricted || s.clockSet, .clockUnset)]
              (closeStored p t g tare) s)) s

/-- CLOSE ON STORED TARE (R54). -/
def execCloseOnStoredTare (p : Port) (n : Half) (grade : Byte) (s : State) : Host.Outcome State Fault Refusal :=
  request p s (closeOnStoredTare p n grade)

/-! ## Reads (R62, R63) -/

/-- One line in READ TICKET. -/
def lineData (l : Line) : List Byte :=
  be 1 l.grade ++ be 4 l.net ++ be 4 l.dock ++ beOpt 3 l.price ++ beOpt 4 l.amount

/-- One weighing in READ TICKET. -/
def weighingData (w : Weighing) : List Byte :=
  be 1 (scaleCode w.scale) ++ be 1 (captureCode w.kind) ++ beInt 4 w.weight ++ be 4 w.time ++ beOpt 1 w.grade

/-- The commit field in READ TICKET; every byte absent without one, the receipt number 0. -/
def commitData (c : Option TicketCommit) : List Byte :=
  beOpt 1 (c.map (fun c => entryKindCode c.kind)) ++ beOpt 1 (c.bind (·.reason)) ++ beOpt 1 (c.map (fun c => portCode c.port)) ++
  beOpt 1 (c.map (fun c => ticketStateCode c.before)) ++ beReceipt (c.bind (·.receipt))

/-- The state, class and number that open both parts. -/
def ticketHead (t : Ticket) : List Byte := be 1 (ticketStateCode t.state) ++ be 1 (classCode t.cls) ++ be 2 t.number

/-- The stored tare weight of a ticket closed on one. -/
def storedWeight (t : Ticket) : Option Int := match t.tareSource with | some (.stored w) => some w | _ => none

/-- Part 0 of READ TICKET (R62; layout log 15): the lines go on to the end of the data. -/
def ticketPart0 (s : State) (t : Ticket) : List Byte :=
  [flagByte [t.closedTime.isSome, t.hold.isSome]] ++ ticketHead t ++ be 1 (portCode t.openedBy) ++ be 4 t.openedTime ++
  sizedOpt t.vehicle ++ sizedOpt t.seller ++ beOpt 1 (t.tareSource.map tareSourceCode) ++ beIntOpt 4 (storedWeight t) ++
  beOpt 4 t.closedTime ++ beOpt 4 t.total ++ [flag (s.ticketRestricted t)] ++ beOpt 4 (t.hold.map (·.expiry)) ++
  beOpt 1 (t.hold.map (fun h => h.endedEarly.toNat)) ++ beOpt 1 (t.claim.map (fun c => portCode c.port)) ++
  beOpt 2 (t.claim.map (·.remaining)) ++ beOpt 1 (t.capture.map scaleCode) ++ commitData t.commit ++
  be 1 t.weighings.length ++ t.lines.flatMap lineData

/-- Part 1 of READ TICKET (R62). -/
def ticketPart1 (t : Ticket) : List Byte := ticketHead t ++ t.weighings.flatMap weighingData

/-- READ TICKET (R62). -/
def readTicket (p : Port) (n : Half) (part : Byte) (s : State) : State :=
  guarded p [(s.started, .mode), (decide (part.toNat ≤ 1), .range)]
    (withTicket p n fun t s => reply p .ok (if part = 0#8 then ticketPart0 s t else ticketPart1 t) s) s

/-- READ TICKET (R62). -/
def execReadTicket (p : Port) (n : Half) (part : Byte) (s : State) : Host.Outcome State Fault Refusal :=
  request p s (readTicket p n part)

/-- Insert a ticket in ascending order of number. -/
def insertTicket (t : Ticket) : List Ticket → List Ticket
  | [] => [t]
  | u :: us => if t.number ≤ u.number then t :: u :: us else u :: insertTicket t us

/-- The tickets in ascending order of number (R63). -/
def State.ticketsInOrder (s : State) : List Ticket := s.tickets.foldr insertTicket []

/-- One item of LIST TICKETS, 4 bytes (R211). -/
def listItem (s : State) (t : Ticket) : List Byte :=
  let cls := match t.cls with | .bridge => 0 | .platform => 8
  let claim := match t.claim with | some c => portCode c.port | none => 7
  let capture := match t.capture with | some sc => 16 * scaleCode sc | none => 0
  be 2 t.number ++ be 1 (ticketStateCode t.state + cls + 16 * (s.ticketRestricted t).toNat) ++ be 1 (claim + capture)

/-- LIST TICKETS (R63). A selection bit above the five states selects nothing. -/
def listTickets (p : Port) (selection : Byte) (s : State) : State :=
  guarded p [(s.started, .mode), (selection.toNat % 32 != 0, .range)]
    (fun s =>
      let ts := s.ticketsInOrder.filter (fun t => selection.getLsbD (ticketStateCode t.state))
      reply p .ok (be 1 ts.length ++ ts.flatMap (listItem s)) s) s

/-- LIST TICKETS (R63). -/
def execListTickets (p : Port) (selection : Byte) (s : State) : Host.Outcome State Fault Refusal :=
  request p s (listTickets p selection)

end Sys2Proof.Machine
end

