-- ==== Sys2Proof/Machine/Weighing.lean ====
section
/-! DEFINITION. The requests that arm and cancel a capture (R68 to R70, R78). -/

namespace Sys2Proof.Machine

/-- Whether a scale can take a capture: neither DISABLED nor in FAULT, with a live calibration (R68 check 9). -/
def weighable (c : Channel) : Bool := c.state != .disabled && c.state != .fault && c.live.isSome

/-- The kind of a ticket capture names a grade (R68). -/
def namesGrade (k : CaptureKind) : Bool := k == .drop || k == .tare

/-- The capture record created on a scale (R70). -/
def newCapture (s : State) (sc : Scale) (k : CaptureKind) (ticket : Option Nat) (v : Option (List Byte)) (g : Option Nat)
    (p : Port) : Capture :=
  let st := (s.chan sc).state
  ⟨k, ticket, v, g, p, s.clock, (s.scaleSettings sc).timeout, st == .moving || st == .overload⟩

/-- Arm a capture, and name its scale in its ticket (R70). -/
def armCapture (p : Port) (sc : Scale) (k : Capture) (s : State) : State :=
  let s := s.updChan sc (fun c => { c with capture := some k })
  let s := match k.ticket with
    | some n => s.updTicket n (fun t => { t with capture := some sc })
    | none => s
  reply p .armed [] s

/-- Whether the ticket's state agrees with the kind (R68 check 5). -/
def stateAgrees (k : CaptureKind) (t : Ticket) : Bool := if k = .gross then t.state == .opened else t.state == .onYard

/-- Whether the ticket has room for a weighing of the kind (R68 check 10). -/
def weighingFits (k : CaptureKind) (t : Ticket) : Bool :=
  if k = .drop then t.weighings.length < 9 else t.weighings.length < 10

/-- Checks 4 to 13 of R68, and the arming. -/
def weighTicket (p : Port) (sc : Scale) (k : CaptureKind) (g : Nat) (t : Ticket) (s : State) : State :=
  let c := s.chan sc
  let named := namesGrade k
  let restricted := k == .tare && restrictedClose s t g
  guarded p [(!claimedByOther p t, .claimed), (stateAgrees k t, .state), (t.capture.isNone, .capturePending),
      (scaleClass sc == t.cls, .cls), (c.capture.isNone, .scaleBusy), (weighable c, .scaleState),
      (weighingFits k t, .weighingsFull), (!named || s.gradeActive g, .grade), (!named || lineFits t g, .linesFull),
      (!restricted || t.seller.isSome, .sellerIdRequired), (!restricted || s.clockSet, .clockUnset)]
    (fun s => armCapture p sc (newCapture s sc k (some t.number) none (if named then some g else none) p) s) s

/-- WEIGH of kind GROSS, DROP or TARE (R68). -/
def weigh (p : Port) (scale kind : Byte) (n : Half) (grade : Byte) (s : State) : State :=
  guarded p [(s.maskAdmits p scale, .role), (s.isRun, .mode)]
    (fun s =>
      match scaleOf scale, weighKindOf kind with
      | some sc, some k =>
        guarded p [(!namesGrade k || gradeOk grade, .range)] (withTicket p n (weighTicket p sc k grade.toNat)) s
      | _, _ => refuse p .range s) s

/-- WEIGH of kind GROSS, DROP or TARE (R68). -/
def execWeigh (p : Port) (scale kind : Byte) (n : Half) (grade : Byte) (s : State) : Host.Outcome State Fault Refusal :=
  request p s (weigh p scale kind n grade)

/-- WEIGH of kind STORE_TARE (R69). -/
def weighStoreTare (p : Port) (scale : Byte) (vehicle : List Byte) (s : State) : State :=
  guarded p [(s.maskAdmits p scale, .role), (s.isRun, .mode), (idOk 1 10 vehicle, .range)]
    (fun s =>
      match scaleOf scale with
      | none => refuse p .range s
      | some sc =>
        guarded p [((s.chan sc).capture.isNone, .scaleBusy), (weighable (s.chan sc), .scaleState)]
          (fun s => armCapture p sc (newCapture s sc .storeTare none (some vehicle) none p) s) s) s

/-- WEIGH of kind STORE_TARE (R69). -/
def execWeighStoreTare (p : Port) (scale : Byte) (vehicle : List Byte) (s : State) : Host.Outcome State Fault Refusal :=
  request p s (weighStoreTare p scale vehicle)

/-- What CANCEL WEIGH reports of the capture it ended (R78). -/
def cancelData (k : Capture) : List Byte :=
  be 1 (captureCode k.kind) ++ (match k.vehicle with | some v => sized v | none => beOpt 2 k.ticket)

/-- CANCEL WEIGH (R78). -/
def cancelWeigh (p : Port) (scale : Byte) (s : State) : State :=
  guarded p [(s.maskAdmits p scale, .role), (s.started, .mode)]
    (fun s =>
      match scaleOf scale with
      | none => refuse p .range s
      | some sc =>
        match (s.chan sc).capture with
        | none => refuse p .state s
        | some k =>
          guarded p [(k.port == p || s.isOffice p, .role)]
            (fun s => drainTest (reply p .ok (cancelData k) (failCapture sc k .cancelled none s))) s) s

/-- CANCEL WEIGH (R78). -/
def execCancelWeigh (p : Port) (scale : Byte) (s : State) : Host.Outcome State Fault Refusal :=
  request p s (cancelWeigh p scale)

end Sys2Proof.Machine
end

