-- ==== Sys2Proof/Machine/Claims.lean ====
section
/-! DEFINITION. Claims, holds and the yard clock (R83 to R99). -/

namespace Sys2Proof.Machine

/-! ## Claims (R87 to R92) -/

/-- CLAIM TICKET (R88). -/
def claimTicket (p : Port) (n : Half) (s : State) : State :=
  guarded p [(s.notView p, .role), (s.started, .mode)]
    (withTicket p n fun t =>
      guarded p [(!claimedByOther p t, .claimed), (t.state != .committing, .state),
          (t.claim.isSome || s.claimsHeld p < 2, .claimsFull)]
        (fun s =>
          let c : Claim := ⟨p, s.settings.claimTimeout⟩
          reply p .ok (be 2 c.remaining) (s.updTicket t.number (fun r => { r with claim := some c })))) s

/-- CLAIM TICKET (R88). -/
def execClaimTicket (p : Port) (n : Half) (s : State) : Host.Outcome State Fault Refusal := request p s (claimTicket p n)

/-- Remove a ticket's claim. -/
def State.dropClaim (s : State) (n : Nat) : State := s.updTicket n (fun t => { t with claim := none })

/-- RELEASE TICKET (R89). -/
def releaseTicket (p : Port) (n : Half) (s : State) : State :=
  guarded p [(s.notView p, .role), (s.started, .mode)]
    (withTicket p n fun t =>
      guarded p [(!claimedByOther p t, .claimed), (t.state != .committing, .state), (t.claim.isSome, .notClaimed)]
        (fun s => reply p .ok [] (s.dropClaim t.number))) s

/-- RELEASE TICKET (R89). -/
def execReleaseTicket (p : Port) (n : Half) (s : State) : Host.Outcome State Fault Refusal :=
  request p s (releaseTicket p n)

/-- A claim whose seconds have run down expires: it is removed and CLAIM_EXPIRED goes to its holder (R90). A claim renewed or
newly set in the meantime has seconds remaining, and then, as without a claim, the expiry does not occur (R92). -/
def expireClaim (n : Nat) (s : State) : State :=
  match (s.ticket n).bind (·.claim) with
  | none => s
  | some c =>
    if c.remaining = 0 then offerTo c.port ⟨.claimExpired, some n, [], s.clock⟩ (s.dropClaim n) else s

/-- CLAIM_EXPIRY: a claim timer reaches 0 (R90, R92). -/
def execClaimExpiry (ticket : Half) (s : State) : Host.Outcome State Fault Refusal := event s (expireClaim ticket.toNat)

/-! ## Holds (R95, R96) -/

/-- END HOLD (R95). -/
def endHold (p : Port) (n : Half) (s : State) : State :=
  guarded p [(s.isOffice p, .role), (s.started, .mode)]
    (withTicket p n fun t =>
      guarded p [(!claimedByOther p t, .claimed), (t.state == .held, .state)]
        (fun s =>
          let hold := t.hold.map (fun h => { h with endedEarly := true })
          let s := s.updTicket t.number (fun r => { r with state := .payable, hold := hold })
          let s := offerPayable t.number .holdEnded { s with holds := dropHold t.number s.holds }
          reply p .ok (be 4 ((t.hold.map (·.expiry)).getD 0)) s)) s

/-- END HOLD (R95). -/
def execEndHold (p : Port) (n : Half) (s : State) : Host.Outcome State Fault Refusal := request p s (endHold p n)

/-- The new expiry of EXTEND HOLD is later than the present one and at most 72 hours after the close (R96 check 6). -/
def extendOk (t : Ticket) (expiry : Nat) : Bool :=
  (t.hold.map (·.expiry)).getD 0 < expiry && expiry ≤ t.closedTime.getD 0 + 259200

/-- EXTEND HOLD (R96). -/
def extendHold (p : Port) (n : Half) (expiry : Word) (s : State) : State :=
  guarded p [(s.isOffice p, .role), (s.started, .mode)]
    (withTicket p n fun t =>
      guarded p [(!claimedByOther p t, .claimed), (t.state == .held, .state), (extendOk t expiry.toNat, .range)]
        (fun s =>
          let hold := t.hold.map (fun h => { h with expiry := expiry.toNat })
          let s := s.updTicket t.number (fun r => { r with hold := hold })
          reply p .ok (be 4 ((t.hold.map (·.expiry)).getD 0) ++ be 4 expiry.toNat)
            { s with holds := placeHold ⟨t.number, expiry.toNat⟩ (dropHold t.number s.holds) })) s

/-- EXTEND HOLD (R96). -/
def execExtendHold (p : Port) (n : Half) (expiry : Word) (s : State) : Host.Outcome State Fault Refusal :=
  request p s (extendHold p n expiry)

/-! ## The yard clock (R83 to R85) -/

/-- SET CLOCK (R84). -/
def setClock (p : Port) (time : Word) (s : State) : State :=
  guarded p [(s.isOffice p, .role), (s.started, .mode)]
    (fun s =>
      let s' := examineHolds { s with clock := time.toNat, clockSet := true }
      reply p .ok (be 4 s.clock ++ be 4 time.toNat ++ be 1 (s.holds.length - s'.holds.length)) s') s

/-- SET CLOCK (R84). -/
def execSetClock (p : Port) (time : Word) (s : State) : Host.Outcome State Fault Refusal := request p s (setClock p time)

/-- The data of READ CLOCK (R85; layout log 15). -/
def clockData (s : State) : List Byte :=
  let first := s.holds.head?
  [flagByte [first.isSome]] ++ be 4 s.clock ++ [flag s.clockSet] ++ be 1 s.holds.length ++
  beOpt 4 (first.map (·.expiry)) ++ beOpt 2 (first.map (·.ticket)) ++
  allPorts.flatMap (fun p => be 1 (s.claimsHeld p)) ++ be 2 s.settings.claimTimeout

/-- READ CLOCK (R85). -/
def readClock (p : Port) (s : State) : State :=
  guarded p [(s.started, .mode)] (fun s => reply p .ok (clockData s) s) s

/-- READ CLOCK (R85). -/
def execReadClock (p : Port) (s : State) : Host.Outcome State Fault Refusal := request p s (readClock p)

/-- The last value of the count (R83). -/
def lastSecond : Nat := 4294967295

/-- CLOCK_ADVANCE: the count rises by 1, and stays at its last value. While the part is held or has no main supply the count
rises and nothing else happens; in STARTING the hold list is not examined (R83, R93, R206). -/
def execClockAdvance (s : State) : Host.Outcome State Fault Refusal :=
  if s.clock < lastSecond then
    let s := { s with clock := s.clock + 1 }
    .next (if s.powered ∧ s.mode ≠ .starting then examineHolds s else s)
  else .next s

end Sys2Proof.Machine
end

