-- ==== Sys2Proof/Machine/Printing.lean ====
section
/-! DEFINITION. The print engine's events and the requests on the print queue (R146 to R161). -/

namespace Sys2Proof.Machine

/-! ## A job in hand (R148 to R154) -/

/-- The job in hand: its slot and the job. -/
def State.inHand (s : State) : Option (Nat × Job) := s.pe.job.bind (fun slot => (s.job slot).map (fun j => (slot, j)))

/-- A first-print job whose entry reads PRINTED or AUDITED becomes a DUPLICATE (R148). -/
def fetchedKind (k : JobKind) (m : Mark) : JobKind :=
  if firstPrint k ∧ (m = .printed ∨ m = .audited) then .duplicate else k

/-- The job in hand has its entry: it is laid out and sent (R148, R158). -/
def beginSending (e : List Byte) (s : State) : State :=
  match s.inHand with
  | none => s
  | some (slot, j) =>
    let j := { j with kind := fetchedKind j.kind (markOf e) }
    let s := s.setJob slot (some j)
    { s with pe := { s.pe with activity := .sending, tx := jobText s j (entryFlag e 0) (entryBody s e) } }

/-- The engine has read an entry for a fetch (R130, R148); a discarded fetch only reports a failed check (R156). -/
def fetchRead (n : Nat) (live : Bool) (decay : List (Nat × Byte)) (s : State) : State :=
  match s.lookup n with
  | none => if live then abandonFetch 2 s else s
  | some (i, slot) =>
    let s := { s with journal := memDecay s.journal (entryAddr i slot) 256 decay }
    let e := s.entryBytes i slot
    if bodyHolds e then (if live then beginSending e s else s)
    else
      let s := setFault .journalMedia (.receipt n) s
      if live then abandonFetch 3 s else s

/-- PRINT_FETCH: the engine ends the read of a print fetch (R130, R148); nothing when it is not in hand (log 8). -/
def execPrintFetch (decay : List (Nat × Byte)) (s : State) : Host.Outcome State Fault Refusal :=
  event s (fun s =>
    match s.engine.current with
    | some (.fetch n live) => settle (fetchRead n live decay s.endOp)
    | _ => s)

/-- END_OF_JOB_SENT: the end-of-job byte has left the transmit line (R149). -/
def execEndOfJobSent (s : State) : Host.Outcome State Fault Refusal :=
  event s (fun s =>
    if s.pe.activity = .sending then
      { s with pe := { s.pe with activity := .awaiting, responseTimer := some 5, sent := s.pe.tx, tx := [] } }
    else s)

/-- The link error count takes a new value, and the link follows it; OFFLINE stays (R146). -/
def setLinkErrors (n : Nat) (e : PrintEngine) : PrintEngine :=
  { e with linkErrors := n, link := if e.link = .offline then .offline else linkOf n }

/-- The job's print has succeeded (R150). PRINT_DONE has no reason byte (log 58). -/
def finishJob (slot : Nat) (j : Job) (s : State) : State :=
  let n := j.receipt.getD 0
  let s := if firstPrint j.kind then { s with pendingMarks := s.pendingMarks ++ [⟨n, s.clock⟩] } else s
  let s := match j.port with
    | some p => offerTo p ⟨.printDone, some n, be 1 slot ++ be 1 (jobKindCode j.kind), s.clock⟩ s
    | none => s
  let s := updPrinter (fun e => setLinkErrors (e.linkErrors - 4) e) (endSnapshot j.kind s)
  removeJob slot (releaseJob s)

/-- The link error count of a counted attempt; one that brings the link to OFFLINE sets PRINTER_OFFLINE first (R151, R154). -/
def linkDown (timeout : Bool) (s : State) : State :=
  let n := min 255 (s.pe.linkErrors + 16)
  let s := if s.pe.link ≠ .offline ∧ linkOf n = .offline then setFault .printerOffline (.attempt timeout) s else s
  updPrinter (setLinkErrors n) s

/-- The job in hand has failed one attempt (R151 to R154). -/
def countAttempt (timeout : Bool) (s : State) : State :=
  match s.inHand with
  | none => s
  | some (slot, j) =>
    let j := { j with attempts := j.attempts + 1 }
    let s := linkDown timeout s
    if j.attempts < 3 then releaseJob (s.setJob slot (some { j with state := .retryWait, wait := 2 }))
    else releaseJob (endSnapshot j.kind (offerAbandoned slot j 1 (removeJob slot s)))

/-- RESPONSE_TIMEOUT: the response timer reaches 0 (R149, R151). -/
def execResponseTimeout (s : State) : Host.Outcome State Fault Refusal :=
  event s (fun s => if s.pe.activity = .awaiting then settle (countAttempt true s) else s)

/-! ## Status bytes (R147, R156, R157) -/

/-- A status byte that ends the wait after the query, and with it the cause START (R157). -/
def answerQuery (e : PrintEngine) : PrintEngine := { e with pauseStart := false, queryTimer := none }

/-- ACK (R147, R150). -/
def execAck (s : State) : Host.Outcome State Fault Refusal :=
  event s (fun s =>
    let s := updPrinter answerQuery s
    settle (match s.inHand with
      | some (slot, j) => if s.pe.activity = .awaiting then finishJob slot j s else s
      | none => s))

/-- ERR (R147, R151). -/
def execErr (s : State) : Host.Outcome State Fault Refusal :=
  event s (fun s =>
    let s := updPrinter answerQuery s
    settle (if s.pe.activity = .sending ∨ s.pe.activity = .awaiting then countAttempt false s else s))

/-- PAPER_LOW (R147). -/
def execPaperLow (s : State) : Host.Outcome State Fault Refusal :=
  event s (fun s => settle (updPrinter (fun e => { answerQuery e with paper := .low }) s))

/-- The job in hand returns to QUEUED, its fetch withdrawn or its answer to be discarded (R156). -/
def interruptJob (s : State) : State :=
  match s.inHand with
  | none => s
  | some (slot, j) =>
    let s := s.setJob slot (some { j with state := .queued, restarted := true })
    let current := match s.engine.current with
      | some (.fetch n _) => some (.fetch n false)
      | op => op
    releaseJob { s with engine := { s.engine with
      current := current, reads := s.engine.reads.filter (fun r => r != .fetch) } }

/-- A pause with a cause of its own (R156). -/
def pauseEngine (f : PrintEngine → PrintEngine) (s : State) : State :=
  let s := interruptJob s
  settle (offerPrinterState { s with pe := f (answerQuery s.pe) })

/-- PAPER_OUT (R147, R156). -/
def execPaperOut (s : State) : Host.Outcome State Fault Refusal :=
  event s (pauseEngine (fun e => { e with paper := .out, pausePaper := true }))

/-- COVER_OPEN (R147, R156). -/
def execCoverOpen (s : State) : Host.Outcome State Fault Refusal :=
  event s (pauseEngine (fun e => { e with cover := .opened, pauseCover := true }))

/-- The printer is ready (R157). -/
def printerReady (e : PrintEngine) : PrintEngine :=
  { answerQuery e with pausePaper := false, pauseCover := false, paper := .ok, cover := .closed }

/-- READY (R147, R157). -/
def execReady (s : State) : Host.Outcome State Fault Refusal := event s (fun s => settle (updPrinter printerReady s))

/-- STATUS_QUERY_TIMEOUT: 5 s have passed after the query without a status byte (R157). -/
def execStatusQueryTimeout (s : State) : Host.Outcome State Fault Refusal :=
  event s (fun s => if s.pe.queryTimer.isSome then settle (updPrinter printerReady s) else s)

/-- RETRY_WAIT: the wait of a RETRY_WAIT job reaches 0 (R152). -/
def retryEnded (slot : Nat) (s : State) : State :=
  match s.job slot with
  | some j =>
    if j.state = .retryWait then settle (s.setJob slot (some { j with state := .queued, wait := 0 })) else s
  | none => s

/-- RETRY_WAIT: the wait of a RETRY_WAIT job reaches 0 (R152). -/
def execRetryWait (slot : Nat) (s : State) : Host.Outcome State Fault Refusal := event s (retryEnded slot)

/-! ## Requests (R155, R159 to R161) -/

/-- An entry whose print is still its first (R159). -/
def State.unprinted (s : State) (n : Nat) : Bool := s.entryMark n == some .complete && !s.markPending n

/-- An entry that PRINT RECEIPT may print (R159 check 3). -/
def State.printable (s : State) (n : Nat) : Bool :=
  s.entryMark n == some .complete || s.entryMark n == some .printed || s.entryMark n == some .audited

/-- PRINT RECEIPT (R159). -/
def printReceipt (p : Port) (receipt : Word) (s : State) : State :=
  let n := receipt.toNat
  guarded p [(s.isWindowOrOffice p, .role), (s.isRun, .mode), (s.printable n, .range),
      (!(s.unprinted n && s.hasFirstPrint n), .state), (decide (0 < s.freeSlots), .queueFull)]
    (fun s =>
      let kind := if s.unprinted n then .original else .duplicate
      let slot := (s.jobs.findIdx? Option.isNone).getD 16
      settle (reply p .ok (be 1 slot ++ be 1 (jobKindCode kind)) (createJob kind (some n) (some p) .queued s))) s

/-- PRINT RECEIPT (R159). -/
def execPrintReceipt (p : Port) (receipt : Word) (s : State) : Host.Outcome State Fault Refusal :=
  request p s (printReceipt p receipt)

/-- The job that CANCEL PRINT names: the one its slot, 0 to 15, holds, when kind and receipt number agree (R160 check 3). -/
def State.namedJob (s : State) (slot kind : Byte) (receipt : Word) : Option Job :=
  (s.job slot.toNat).filter (fun j =>
    slot.toNat ≤ 15 && jobKindOf kind == some j.kind && j.receipt.getD 0 == receipt.toNat)

/-- CANCEL PRINT (R160). -/
def cancelPrint (p : Port) (slot kind : Byte) (receipt : Word) (s : State) : State :=
  guarded p [(s.isWindowOrOffice p, .role), (s.started, .mode)]
    (fun s =>
      match s.namedJob slot kind receipt with
      | none => refuse p .range s
      | some j =>
        guarded p [(s.isOffice p || (j.kind == .duplicate && j.port == some p), .role), (j.state != .reserved, .state),
            (j.state != .printing, .tooLate)]
          (fun s => settle (reply p .ok (be 1 (jobKindCode j.kind) ++ beReceipt j.receipt)
            (endSnapshot j.kind (removeJob slot.toNat s)))) s) s

/-- CANCEL PRINT (R160). -/
def execCancelPrint (p : Port) (slot kind : Byte) (receipt : Word) (s : State) : Host.Outcome State Fault Refusal :=
  request p s (cancelPrint p slot kind receipt)

/-- One job in LIST PRINT QUEUE (R161). Of a job that is not in RETRY_WAIT the retry wait is the absent marker 0xFF (log 66). -/
def jobData (slot : Nat) (j : Job) : List Byte :=
  be 1 slot ++ be 1 (jobKindCode j.kind) ++ beReceipt j.receipt ++ beOpt 1 (j.port.map portCode) ++
  be 1 (jobStateCode j.state) ++ be 1 j.attempts ++ [flag j.restarted] ++ be 4 j.age ++
  beOpt 1 (if j.state = .retryWait then some j.wait else none)

/-- The data of LIST PRINT QUEUE (R161). -/
def queueData (s : State) : List Byte :=
  be 1 s.freeSlots ++ (List.range 16).flatMap (fun slot => (s.job slot).elim [] (jobData slot))

/-- LIST PRINT QUEUE (R161). -/
def listPrintQueue (p : Port) (s : State) : State :=
  guarded p [(s.started, .mode)] (fun s => reply p .ok (queueData s) s) s

/-- LIST PRINT QUEUE (R161). -/
def execListPrintQueue (p : Port) (s : State) : Host.Outcome State Fault Refusal := request p s (listPrintQueue p)

/-- The number of jobs in a state. -/
def State.jobsIn (s : State) (st : JobState) : Nat :=
  s.jobs.countP (fun j => match j with | some j => j.state == st | none => false)

/-- The data of READ PRINTER (R161). -/
def printerData (s : State) : List Byte :=
  be 1 (activityCode s.pe.activity) ++ beOpt 1 s.pe.job ++ [flag (paused s.pe), pauseByte s.pe] ++
  be 1 (paperCode s.pe.paper) ++ be 1 (coverCode s.pe.cover) ++ be 1 s.pe.linkErrors ++ be 1 (linkCode s.pe.link) ++
  be 1 (s.jobsIn .reserved) ++ be 1 (s.jobsIn .queued) ++ be 1 (s.jobsIn .printing) ++ be 1 (s.jobsIn .retryWait) ++
  beReceipt (s.backlog.map (·.next)) ++ beReceipt (s.backlog.map (·.last))

/-- READ PRINTER (R161). -/
def readPrinter (p : Port) (s : State) : State :=
  guarded p [(s.started, .mode)] (fun s => reply p .ok (printerData s) s) s

/-- READ PRINTER (R161). -/
def execReadPrinter (p : Port) (s : State) : Host.Outcome State Fault Refusal := request p s (readPrinter p)

/-- RESTORE PRINTER (R155). -/
def restorePrinter (p : Port) (s : State) : State :=
  guarded p [(s.isWindowOrOffice p, .role), (s.started, .mode)]
    (fun s => settle (reply p .ok (be 1 s.pe.linkErrors) (updPrinter (fun e => { e with linkErrors := 0, link := .normal }) s)))
    s

/-- RESTORE PRINTER (R155). -/
def execRestorePrinter (p : Port) (s : State) : Host.Outcome State Fault Refusal := request p s (restorePrinter p)

end Sys2Proof.Machine
end

