-- ==== Sys2Proof/Machine/Upkeep.lean ====
section
/-! DEFINITION. The program engine's other journal work: PRINTED and AUDITED marks, AUDIT THROUGH, erase-ahead, and
READ JOURNAL STATE (R129, R131, R132, R135, R136, R140). -/

namespace Sys2Proof.Machine

/-! ## PRINTED marks (R129) -/

/-- The oldest mark request leaves the list. -/
def State.dropMark (s : State) : State := { s with pendingMarks := s.pendingMarks.tail }

/-- One programming of a PRINTED mark and its print time ends (R129): good when the status byte reads exactly 0x1F and the time as
programmed (log 42). -/
def markPrinted (m : MarkReq) (i slot : Nat) (again : Bool) (cells time : Cells) (s : State) : State :=
  let a := entryAddr i slot
  let (j, okStatus) := memProgramVerify s.journal a [markPattern .printed] cells
  let (j, okTime) := memProgramVerify j (a + 12) (be 4 m.time) time
  let s := { s with journal := j }
  if okStatus && okTime then settle (s.setSlotMark i slot .printed).endOp.dropMark
  else if again then
    let s := s.setSlotMark i slot (readMark (memRead j a))
    settle (setFault .journalMedia (.receipt m.receipt) s.endOp.dropMark)
  else s.takeOp (.printedMark true)

/-- PRINTED_MARK: the engine ends the programming of a PRINTED mark (R129); nothing when it is not in hand (log 8, log 9). -/
def execPrintedMark (cells time : Cells) (s : State) : Host.Outcome State Fault Refusal :=
  event s (fun s =>
    match s.engine.current, s.pendingMarks with
    | some (.printedMark again), m :: _ =>
      (match s.lookup m.receipt with
        | some (i, slot) => markPrinted m i slot again cells time s
        | none => settle s.endOp.dropMark)
    | _, _ => s)

/-! ## The audit (R135, R136) -/

/-- Every retained entry of a number may be marked by an audit: it is PRINTED or TORN (R135 check 6). -/
def State.auditable (s : State) (n : Nat) : Bool :=
  (s.places n).all (fun x => s.slotMark x.1 x.2 == .printed || s.slotMark x.1 x.2 == .torn)

/-- The retained numbers above one number and up to another. -/
def State.retainedWithin (s : State) (above upTo : Nat) : List Nat :=
  s.retainedNumbers.filter (fun k => above < k && k ≤ upTo)

/-- The lowest retained number above the audit mark and up to n that may not be marked (R135 check 6). -/
def State.firstUnprinted (s : State) (n : Nat) : Option Nat :=
  (s.retainedWithin s.auditMark n).find? (fun k => !s.auditable k)

/-- The last checks of AUDIT THROUGH and the pass (R135); the number of entries to be marked counts the retained ones (log 56). -/
def beginAudit (p : Port) (n : Nat) (s : State) : State :=
  let m := s.auditMark
  if n ≤ m then reply p .ok (be 4 m) s
  else if s.newest.getD 0 < n then refuse p .range s
  else match s.firstUnprinted n with
    | some k => reply p .auditUnprinted (be 4 k) s
    | none =>
      let count := ((s.retainedWithin m n).flatMap s.places).length
      settle (reply p .ok (be 4 m ++ be 2 count) { s with pass := some ⟨n, m + 1, p⟩ })

/-- AUDIT THROUGH (R135). -/
def auditThrough (p : Port) (receipt : Word) (s : State) : State :=
  guarded p [(s.isOffice p, .role), (s.isRun, .mode), (s.pass.isNone, .state)] (beginAudit p receipt.toNat) s

/-- AUDIT THROUGH (R135). -/
def execAuditThrough (p : Port) (receipt : Word) (s : State) : Host.Outcome State Fault Refusal :=
  request p s (auditThrough p receipt)

/-- AUDIT_DONE, addressed to the requesting port (R136, R212). -/
def auditDone (q : Pass) (media : Bool) (failed : Nat) (s : State) : State :=
  offerTo q.port ⟨.auditDone, some q.target, be 1 media.toNat ++ be 4 failed ++ be 4 s.auditMark, s.clock⟩
    { s with pass := none }

/-- A mark of a pass stands (R136): the pass goes on with the next retained number that it has not marked, a number that no retained
entry carries being passed over (log 56) and one that several carry being marked on each (log 62), or it has reached its target
and ends. -/
def passOn (q : Pass) (s : State) : State :=
  match s.retainedNumbers.find? (fun k => q.next ≤ k && k ≤ q.target && (s.unaudited k).isSome) with
  | some k => { s with pass := some { q with next := k } }
  | none => auditDone q false 0 s

/-- One programming of an AUDITED mark ends (R136). -/
def markAudited (q : Pass) (i slot : Nat) (again : Bool) (cells : Cells) (s : State) : State :=
  let old := memRead s.journal (entryAddr i slot)
  let (s, b) := s.programMark i slot .audited cells
  if b = old &&& markPattern .audited ∧ readMark b = .audited then settle (passOn q (s.setSlotMark i slot .audited).endOp)
  else if again then settle (auditDone q true q.next (setFault .journalMedia (.receipt q.next) s.endOp))
  else s.takeOp (.auditMark true)

/-- AUDIT_MARK: the engine ends the programming of the next audit mark (R136); nothing when it is not in hand (log 8). -/
def execAuditMark (cells : Cells) (s : State) : Host.Outcome State Fault Refusal :=
  event s (fun s =>
    match s.engine.current, s.pass with
    | some (.auditMark again), some q =>
      (match s.unaudited q.next with
        | some (i, slot) => markAudited q i slot again cells s
        | none => settle (auditDone q true q.next s.endOp))
    | _, _ => s)

/-! ## Erase-ahead (R131, R132) -/

/-- The engine is free and nothing of a higher preference than an erase start waits (R127). -/
def State.idleForErase (s : State) : Bool :=
  s.engine.current.isNone && !s.highWaiting && s.engine.erase.isNone && s.pendingMarks.isEmpty && s.pass.isNone

/-- The erase of a sector starts, with a blank check when it was BLANK_UNCHECKED (R131, R132). -/
def startErase (i : Nat) (s : State) : State :=
  let checking := (s.sector i).state == .blankUnchecked
  let s := s.updSector i (fun c => { c with state := .erasing, first := none })
  settle (evalSpace { s with
    eraseRecord := some i
    engine := { s.engine with
      erase := some ⟨i, checking, false, 0, false⟩
      current := some (if checking then .blankCheck else .erase) } })

/-- ERASE_AHEAD_START: erase-ahead starts on its candidate, when its conditions hold (R131). -/
def execEraseAheadStart (s : State) : Host.Outcome State Fault Refusal :=
  event s (fun s =>
    match s.candidate with
    | some i => if s.idleForErase ∧ s.erasable i then startErase i s else s
    | none => s)

/-- ERASE_RESUME: a suspended erase resumes when the engine is free and nothing ranks above it (R127, R128). -/
def execEraseResume (s : State) : Host.Outcome State Fault Refusal :=
  event s (fun s =>
    match s.engine.erase with
    | some e =>
      if e.suspended ∧ s.engine.current.isNone ∧ !s.highWaiting then
        { s with engine := { s.engine with current := some .erase, erase := some { e with suspended := false } } }
      else s
    | none => s)

/-- The erase-ahead operation has ended with its sector in a state (R132). -/
def endErase (i : Nat) (c : Sector) (s : State) : State :=
  { (s.updSector i (fun _ => c)).endOp with
    eraseRecord := none, engine := { s.engine with current := none, erase := none } }

/-- A sector ready to be filled (R132). -/
def Sector.erased : Sector := ⟨.erased, none, 0, List.replicate 16 .blank, List.replicate 16 0xFF#8⟩

/-- A sector out of the ring (R132). -/
def Sector.failed : Sector := ⟨.bad, none, 0, List.replicate 16 .badPattern, List.replicate 16 0xFF#8⟩

/-- Whether every byte of a sector reads blank. -/
def sectorBlank (m : Memory) (i : Nat) : Bool := m.all (fun c => !(4096 * i ≤ c.1 && c.1 < 4096 * i + 4096))

/-- The sector becomes ERASED; a waiting commit selects again (R124, R132). -/
def eraseGood (i : Nat) (s : State) : State := settle (evalSpace (selectAgain (endErase i .erased s)))

/-- The BAD pattern in every status byte of a sector (R132). -/
def programBad (i : Nat) (m : Memory) : Memory :=
  (List.range 16).foldl (fun m slot => memProgram m (entryAddr i slot) [markPattern .badPattern] [] []) m

/-- The sector becomes BAD; a waiting commit selects again (R124, R132). -/
def eraseBad (i : Nat) (s : State) : State :=
  let s := setFault .journalMedia (.sector i) (endErase i .failed { s with journal := programBad i s.journal })
  settle (evalSpace (selectAgain s))

/-- The blank check has read its sector (R132). What waited through a check that failed suspends the erase as it begins, within
this event (R128; log 50). -/
def blankRead (e : EraseJob) (decay : List (Nat × Byte)) (s : State) : State :=
  let s := { s with journal := memDecay s.journal (4096 * e.sector) 4096 decay }
  if sectorBlank s.journal e.sector then eraseGood e.sector s
  else settle { s with engine := { s.engine with current := some .erase, erase := some { e with checking := false } } }

/-- BLANK_CHECK: the blank check of an ERASING sector ends (R132). -/
def execBlankCheck (decay : List (Nat × Byte)) (s : State) : Host.Outcome State Fault Refusal :=
  event s (fun s =>
    match s.engine.current, s.engine.erase with
    | some .blankCheck, some e => blankRead e decay s
    | _, _ => s)

/-- The erase has cleared its sector, but for the bytes that remain, and is verified (R132). -/
def eraseVerified (e : EraseJob) (remains : List (Nat × Byte)) (s : State) : State :=
  let a := 4096 * e.sector
  let s := { s with journal := memDecay (memErase s.journal a 4096) a 4096 remains }
  if sectorBlank s.journal e.sector then eraseGood e.sector s
  else if e.retried then eraseBad e.sector s
  else settle { s with engine := { s.engine with erase := some { e with retried := true, count := 0 } } }

/-- ERASE_DONE: the running erase ends and is verified (R132). -/
def execEraseDone (remains : List (Nat × Byte)) (s : State) : Host.Outcome State Fault Refusal :=
  event s (fun s =>
    match s.engine.current, s.engine.erase with
    | some .erase, some e => eraseVerified e remains s
    | _, _ => s)

/-! ## READ JOURNAL STATE (R140) -/

/-- The number of the step that the head commit is at (R123). -/
def stepNumber : HeadStep → Nat
  | .waitErasing => 2
  | .waitEmpty => 2
  | .header => 3
  | .body => 4
  | .complete => 5

/-- One sector in READ JOURNAL STATE. -/
def sectorData (c : Sector) : List Byte := be 1 (sectorStateCode c.state) ++ beReceipt c.first ++ be 1 c.used

/-- The erase in progress: its sector and its suspend count. A blank check is reported as the erase of its sector, with the count
0 (log 65). -/
def eraseData : Option EraseJob → List Byte
  | some e => be 1 e.sector ++ be 1 e.count
  | none => absent 2

/-- The data of READ JOURNAL STATE (R140, R211), 246 bytes: its three flags, exhausted, low and suspended, stand as bits 0 to 2 of
one flag byte after the counter (log 16). -/
def journalData (s : State) : List Byte :=
  be 4 s.counter ++ [flagByte [s.exhausted, s.lowFlag, s.engine.erase.any (·.suspended)]] ++ be 4 s.auditMark ++
  beReceipt s.oldest ++ beReceipt s.newest ++ beInt 2 s.space ++ be 1 s.commitQueue.length ++
  beReceipt (s.head.map (·.number)) ++ beOpt 1 (s.head.map (fun h => stepNumber h.step)) ++ beOpt 1 (s.head.map (·.attempt)) ++
  s.sectors.flatMap sectorData ++ eraseData s.engine.erase ++
  beReceipt (s.pass.map (·.target)) ++ beReceipt (s.pass.map (·.next)) ++ beOpt 1 (s.pass.map (fun q => portCode q.port)) ++
  be 1 s.pendingMarks.length ++ allPorts.flatMap (fun p => beReceipt (s.port p).stream)

/-- READ JOURNAL STATE (R140). -/
def readJournalState (p : Port) (s : State) : State :=
  guarded p [(s.started, .mode)] (fun s => reply p .ok (journalData s) s) s

/-- READ JOURNAL STATE (R140). -/
def execReadJournalState (p : Port) (s : State) : Host.Outcome State Fault Refusal := request p s (readJournalState p)

end Sys2Proof.Machine
end

