-- ==== Sys2Proof/Machine/Catalog.lean ====
section
/-! DEFINITION. The requests on the grade table, the vehicle tare table and the tally (R28 to R31, R36, R37, R172). -/

namespace Sys2Proof.Machine

/-! ## Grades and prices (R28 to R31) -/

/-- The highest price (R26). -/
def maxPrice : Nat := 99999

/-- Change the grade table, which makes the settings dirty (R30). -/
def setGrade (g : Nat) (f : Grade → Grade) (s : State) : State :=
  changeSettings (fun t => { t with grades := t.grades.set (g - 1) (f (s.grade g)) }) s

/-- SET PRICE (R28). -/
def setPrice (p : Port) (grade : Byte) (price : Tri) (s : State) : State :=
  let g := grade.toNat
  guarded p [(s.isOffice p, .role), (s.isRun, .mode), (gradeOk grade && price.toNat ≤ maxPrice, .range),
      (s.gradeActive g, .grade)]
    (fun s => reply p .ok (be 3 (s.grade g).live ++ be 3 price.toNat)
      (setGrade g (fun e => { e with live := price.toNat }) s)) s

/-- SET PRICE (R28). -/
def execSetPrice (p : Port) (grade : Byte) (price : Tri) (s : State) : Host.Outcome State Fault Refusal :=
  request p s (setPrice p grade price)

/-- A grade name: printable characters only (R29 check 3). -/
def nameOk (name : List Byte) : Bool := name.length == 8 && name.all printable

/-- DEFINE GRADE (R29); bits of the flags byte above the two named are ignored. -/
def defineGrade (p : Port) (grade : Byte) (name : List Byte) (flags holdHours : Byte) (price : Tri) (s : State) : State :=
  guarded p [(s.isOffice p, .role), (s.isConfig, .mode),
      (gradeOk grade && nameOk name && holdHours.toNat ≤ 72 && price.toNat ≤ maxPrice, .range)]
    (fun s => reply p .ok [] (setGrade grade.toNat (fun _ =>
      ⟨true, name, flags.getLsbD 0, flags.getLsbD 1, holdHours.toNat, price.toNat, price.toNat⟩) s)) s

/-- DEFINE GRADE (R29). -/
def execDefineGrade (p : Port) (grade : Byte) (name : List Byte) (flags holdHours : Byte) (price : Tri) (s : State) :
    Host.Outcome State Fault Refusal :=
  request p s (defineGrade p grade name flags holdHours price)

/-- The data of READ GRADE (R31). -/
def gradeData (s : State) (g : Nat) : List Byte :=
  let e := s.grade g
  be 1 g ++ [flag e.defined, flag e.active, flag e.restricted] ++ e.name ++ be 1 e.holdHours ++ be 3 e.live ++
  be 3 e.stored ++ [flag s.dirty]

/-- READ GRADE (R31). -/
def readGrade (p : Port) (grade : Byte) (s : State) : State :=
  guarded p [(s.started, .mode), (gradeOk grade, .range)] (fun s => reply p .ok (gradeData s grade.toNat) s) s

/-- READ GRADE (R31). -/
def execReadGrade (p : Port) (grade : Byte) (s : State) : Host.Outcome State Fault Refusal := request p s (readGrade p grade)

/-! ## Stored tares (R36, R37) -/

/-- DELETE TARE (R36). -/
def deleteTare (p : Port) (vehicle : List Byte) (s : State) : State :=
  guarded p [(s.isOffice p, .role), (s.started, .mode), (idOk 1 10 vehicle, .range), ((s.tareSlot vehicle).isSome, .noTare)]
    (fun s => reply p .ok [] { s with tares := s.tares.set ((s.tareSlot vehicle).getD 32) none }) s

/-- DELETE TARE (R36). -/
def execDeleteTare (p : Port) (vehicle : List Byte) (s : State) : Host.Outcome State Fault Refusal :=
  request p s (deleteTare p vehicle)

/-- Answer with an entry of the tare table; an expiry outside 32 bits is reported as a free value (R37, log 14). -/
def replyTare (p : Port) (slot : Nat) (e : Tare) (s : State) : State :=
  let valid := s.tareValid e
  let (expiry, s) := s.fit32 (s.tareExpiry e)
  reply p .ok (be 1 slot ++ sized e.vehicle ++ be 1 (classCode e.cls) ++ beInt 4 e.weight ++ be 4 e.time ++ [flag valid] ++
    be 4 expiry) s

/-- READ TARE by slot; a free one is marked by 0xFF after its number (R37, log 15). -/
def readTareSlot (p : Port) (n : Byte) (s : State) : State :=
  if 31 < n.toNat then refuse p .range s
  else match s.tareAt n.toNat with
    | some e => replyTare p n.toNat e s
    | none => reply p .ok (be 1 n.toNat ++ absent 1) s

/-- READ TARE by vehicle ID, or with a selector that is neither (R37, R210). -/
def readTareId (p : Port) (selector : Byte) (vehicle : List Byte) (s : State) : State :=
  if selector ≠ 1#8 ∨ !idOk 1 10 vehicle then refuse p .range s
  else match s.tareSlot vehicle with
    | some slot => (match s.tareAt slot with | some e => replyTare p slot e s | none => refuse p .noTare s)
    | none => refuse p .noTare s

/-- READ TARE (R37). -/
def readTare (p : Port) (key : TareKey) (s : State) : State :=
  guarded p [(s.started, .mode)]
    (match key with
      | .slot n => readTareSlot p n
      | .id selector vehicle => readTareId p selector vehicle) s

/-- READ TARE (R37). -/
def execReadTare (p : Port) (key : TareKey) (s : State) : Host.Outcome State Fault Refusal := request p s (readTare p key)

/-! ## READ TALLY (R172) -/

/-- The shift figures (R172; widths log 34). -/
def shiftData (t : Tally) : List Byte :=
  be 4 t.shift ++ be 4 t.openTime ++ be 6 t.receipts ++ be 6 t.voids ++ be 6 t.torn ++ be 6 t.total ++ [flag t.incomplete]

/-- The figures of one grade, as R166 lists them, without its code (log 34). -/
def figuresData (t : Tally) (g : Nat) : List Byte :=
  let f := t.figures g
  be 6 f.net ++ be 6 f.payable ++ be 6 f.amount ++ be 6 f.lines

/-- The data of READ TALLY (R172): no count stands before the grades' figures, and the code for a further read is that of the next
non-zero grade (log 34). -/
def tallyData (s : State) (source : Byte) (t : Tally) (receipt : Option Nat) (first : Nat) : List Byte :=
  let gs := t.nonZeroGrades.filter (fun g => first ≤ g)
  [source] ++ shiftData t ++ beReceipt receipt ++ [flag s.snapshot.isSome] ++ (gs.take 8).flatMap (figuresData t) ++
  beOpt 1 gs[8]?

/-- READ TALLY (R172). -/
def readTally (p : Port) (source first : Byte) (s : State) : State :=
  guarded p [(s.started, .mode), (decide (source.toNat ≤ 1) && gradeOk first, .range)]
    (fun s =>
      if source = 0#8 then reply p .ok (tallyData s source s.tally none first.toNat) s
      else match s.snapshot with
        | some n => reply p .ok (tallyData s source n.tally (some n.receipt) first.toNat) s
        | none => refuse p .state s) s

/-- READ TALLY (R172). -/
def execReadTally (p : Port) (source first : Byte) (s : State) : Host.Outcome State Fault Refusal :=
  request p s (readTally p source first)

end Sys2Proof.Machine
end

