-- ==== Sys2Proof/Machine/Ports.lean ====
section
/-! DEFINITION. The station ports: immediate reads, the journal stream, malformed frames, filters, roles, enabling, and the
fault status requests (R137, R138, R176 to R194, R203). -/

namespace Sys2Proof.Machine

/-! ## The journal stream (R137, R138) -/

/-- The byte that opens a block of a stream (R211). -/
def blockStart : Byte := 0xB5#8

/-- A stream sends a block (R138). -/
def sendBlock (p : Port) (bytes : List Byte) (s : State) : State :=
  s.updPort p (fun c => { c with dataOut := c.dataOut ++ blockStart :: bytes })

/-- The end block with its end code (R138, R211). -/
def endBlock (code : Byte) : List Byte := code :: List.replicate 255 0#8

/-- A stream's position becomes n, where an entry is left for it; past the newest entry it sends the end block LATEST and ends
(R138). -/
def moveStream (p : Port) (n : Nat) (s : State) : State :=
  if s.newestDone.any (fun m => n ≤ m) then s.updPort p (fun c => { c with stream := some n })
  else sendBlock p (endBlock 0x01#8) (s.updPort p (fun c => { c with stream := none }))

/-- A block boundary: the read of the entry at the position comes to wait, or the stream ends (R138). -/
def blockBoundary (p : Port) (n : Nat) (s : State) : State :=
  let t := moveStream p n s
  if (t.port p).stream.isSome then { t with engine := { t.engine with reads := t.engine.reads ++ [.stream p] } } else t

/-- The stream of a port ends; a read it has waiting is withdrawn, one already taken has its answer discarded (R138). -/
def endStream (p : Port) (s : State) : State :=
  let current := match s.engine.current with
    | some (.stream q live) => if q = p then some (.stream q false) else some (.stream q live)
    | op => op
  { s.updPort p (fun c => { c with stream := none }) with
    engine := { s.engine with current := current, reads := s.engine.reads.filter (fun r => r != .stream p) } }

/-- STREAM_END: select goes high on a READ JOURNAL frame (R138). -/
def execStreamEnd (p : Port) (s : State) : Host.Outcome State Fault Refusal := event s (fun s => settle (endStream p s))

/-- A stream opens (R137); a stream the port still has ends first (log 35). -/
def openStream (p : Port) (n : Nat) (s : State) : State :=
  let s := endStream p (beginFrame p s)
  if !s.scanned then sendBlock p (endBlock 0x02#8) s
  else blockBoundary p (max n (s.oldest.getD 0)) s

/-- READ JOURNAL: the operand of the frame has been received (R137). -/
def execReadJournal (p : Port) (receipt : Word) (s : State) : Host.Outcome State Fault Refusal :=
  event s (fun s => settle (openStream p receipt.toNat s))

/-- The engine has read an entry for a stream, and the port sends the block. Its next boundary comes when the block has been sent, at
the port's next JOURNAL_STREAM_READ (R138; log 70). At a number that no retained entry carries it sends no block and goes on at once
with the next number (log 55). -/
def streamRead (p : Port) (live : Bool) (decay : List (Nat × Byte)) (s : State) : State :=
  match (s.port p).stream with
  | none => s
  | some n =>
    if !live then s
    else match s.lookup n with
      | none => blockBoundary p (n + 1) s
      | some (i, slot) =>
        let s := { s with journal := memDecay s.journal (entryAddr i slot) 256 decay }
        moveStream p (n + 1) (sendBlock p (s.entryBytes i slot) s)

/-- The position of a stream that is between two blocks: no read of it waits or is in hand. -/
def State.betweenBlocks (s : State) (p : Port) : Option Nat :=
  if s.engine.current = some (.stream p true) ∨ s.engine.current = some (.stream p false) ∨ .stream p ∈ s.engine.reads then none
  else (s.port p).stream

/-- A stream between two blocks reaches its next boundary, at which its read comes to wait: it suspends a running erase, and a free
engine takes it (R127, R128, R138; log 70). -/
def reachBoundary (p : Port) (s : State) : State :=
  match s.betweenBlocks p with
  | some n => settle (blockBoundary p n s)
  | none => s

/-- The engine ends the read in hand for a port's stream (R138); nothing when none is (log 8). -/
def endStreamRead (p : Port) (decay : List (Nat × Byte)) (s : State) : State :=
  match s.engine.current with
  | some (.stream q live) => if q = p then settle (streamRead p live decay s.endOp) else s
  | _ => s

/-- JOURNAL_STREAM_READ: a stream between two blocks reaches its boundary, and the engine ends the read of its entry (R138); a read
that the engine has not taken goes on waiting (log 8, log 70). -/
def execJournalStreamRead (p : Port) (decay : List (Nat × Byte)) (s : State) : Host.Outcome State Fault Refusal :=
  event s (fun s => endStreamRead p decay (reachBoundary p s))

/-! ## Immediate reads (R176, R179, R180, R188) -/

/-- The bytes clocked out of a reply: 0x00 follows it (R179). -/
def clockOut (reply : List Byte) (clocked : Nat) : List Byte := (reply ++ List.replicate clocked 0#8).take clocked

/-- An immediate read: the summary byte, then the reply as far as it is clocked out. -/
def answerRead (p : Port) (reply : List Byte) (clocked : Nat) (s : State) : State :=
  s.updPort p (fun c => { c with summaryOut := summaryByte c, dataOut := clockOut reply clocked })

/-- The reply of READ STATUS (R180, R211). -/
def statusReply (s : State) (p : Port) : List Byte :=
  let c := s.port p
  let cfg := s.portSettings p
  be 1 (modeCode s.mode) ++ [summaryByte c] ++ be 1 (roleCode cfg.role) ++ be 1 cfg.scaleMask.toNat ++
  be 1 c.queue.length ++ be 1 c.overflow ++
  [flagByte [c.overrun, s.dirty, s.clockSet, s.anyFault, s.anyUnmaskedFault, s.faultOutput]]

/-- READ STATUS (R180). -/
def execReadStatus (p : Port) (clocked : Nat) (s : State) : Host.Outcome State Fault Refusal :=
  event s (fun s => answerRead p (statusReply s p) clocked s)

/-- The reply of READ RESULT (R179, R211). -/
def resultReply (c : PortCtx) : List Byte :=
  match c.state, c.result with
  | .done, some r => be 1 (resultCode r.code) ++ be 1 r.data.length ++ r.data ++ [flag c.overrun]
  | _, _ => [0xFF#8] ++ be 1 (portStateCode c.state) ++ [flag c.overrun]

/-- READ RESULT: a result clocked out to its last byte is removed, and the port goes to IDLE (R179). -/
def readResult (p : Port) (clocked : Nat) (s : State) : State :=
  let c := s.port p
  let s := answerRead p (resultReply c) clocked s
  if c.state = .done ∧ (resultReply c).length ≤ clocked then
    s.updPort p (fun c => { c with state := .idle, result := none, overrun := false })
  else s

/-- READ RESULT (R179). -/
def execReadResult (p : Port) (clocked : Nat) (s : State) : Host.Outcome State Fault Refusal :=
  event s (readResult p clocked)

/-- The reply of READ NOTICE (R188, R211). -/
def noticeReply (c : PortCtx) : List Byte :=
  match c.queue with
  | n :: ns => noticeBytes n ++ be 1 ns.length ++ be 1 c.overflow
  | [] => [0x00#8, 0x00#8] ++ be 1 c.overflow

/-- READ NOTICE: a notice clocked out to its last byte leaves the queue (R188). -/
def readNotice (p : Port) (clocked : Nat) (s : State) : State :=
  let c := s.port p
  let s := answerRead p (noticeReply c) clocked s
  if (noticeReply c).length ≤ clocked then s.updPort p (fun c => { c with queue := c.queue.tail }) else s

/-- READ NOTICE (R188). -/
def execReadNotice (p : Port) (clocked : Nat) (s : State) : Host.Outcome State Fault Refusal :=
  event s (readNotice p clocked)

/-- MALFORMED_FRAME: a request frame that is not well formed, on an enabled or a disabled port (R177, R178). -/
def execMalformedFrame (p : Port) (s : State) : Host.Outcome State Fault Refusal :=
  event s (takeFrame p (refuse p .format))

/-! ## Filters and roles (R189, R203) -/

/-- The scale mask in the low bits of a byte. -/
def maskOf (b : Byte) : BitVec 3 := b.setWidth 3

/-- The two masks of a filter. -/
def filterData (f : Filter) : List Byte := [f.kinds] ++ be 1 f.scales.toNat

/-- SET FILTER (R189). -/
def setFilter (p : Port) (kinds scales : Byte) (s : State) : State :=
  guarded p [(s.started, .mode)]
    (fun s => reply p .ok (filterData (s.port p).filter)
      (s.updPort p (fun c => { c with filter := ⟨kinds, maskOf scales⟩ }))) s

/-- SET FILTER (R189). -/
def execSetFilter (p : Port) (kinds scales : Byte) (s : State) : Host.Outcome State Fault Refusal :=
  request p s (setFilter p kinds scales)

/-- The settings of a port as SET ROLE reports them (R203). -/
def roleData (c : PortSettings) : List Byte :=
  be 1 (roleCode c.role) ++ be 1 c.scaleMask.toNat ++ filterData c.noticeDefault

/-- SET ROLE (R203). -/
def setRole (p : Port) (port role scales noticeKinds noticeScales : Byte) (s : State) : State :=
  guarded p [(s.isOffice p, .role), (s.isConfig, .mode)]
    (fun s =>
      match portOf port, roleOf role with
      | some q, some r =>
        guarded p [(q != p || r == .office, .self)]
          (fun s => reply p .ok (roleData (s.portSettings q)) (changeSettings (fun t =>
            { t with ports := t.ports.set q ⟨r, maskOf scales, ⟨noticeKinds, maskOf noticeScales⟩⟩ }) s)) s
      | _, _ => refuse p .range s) s

/-- SET ROLE (R203). -/
def execSetRole (p : Port) (port role scales noticeKinds noticeScales : Byte) (s : State) :
    Host.Outcome State Fault Refusal :=
  request p s (setRole p port role scales noticeKinds noticeScales)

/-! ## Enabling and disabling (R182, R183) -/

/-- PORT ENABLE (R183). -/
def portEnable (p : Port) (port : Byte) (s : State) : State :=
  guarded p [(s.isOffice p, .role), (s.started, .mode)]
    (fun s =>
      match portOf port with
      | none => refuse p .range s
      | some q => reply p .ok [flag (s.port q).enabled] (s.updPort q (fun c => { c with enabled := true }))) s

/-- PORT ENABLE (R183). -/
def execPortEnable (p : Port) (port : Byte) (s : State) : Host.Outcome State Fault Refusal := request p s (portEnable p port)

/-- Fail the capture on a scale that a port armed (R77). -/
def failArmedBy (q : Port) (s : State) (sc : Scale) : State :=
  match (s.chan sc).capture with
  | some k => if k.port = q then failCapture sc k .portDisabled none s else s
  | none => s

/-- Remove every claim that a port holds (R91). -/
def dropClaimsOf (q : Port) (s : State) : State :=
  { s with tickets := s.tickets.map (fun t =>
      if t.claim.any (fun c => c.port == q) then { t with claim := none } else t) }

/-- A DUPLICATE job of a port that is QUEUED or RETRY_WAIT is removed (R162). -/
def dropDuplicate (q : Port) (s : State) (slot : Nat) : State :=
  match s.job slot with
  | some j =>
    if j.kind = .duplicate ∧ j.port = some q ∧ (j.state = .queued ∨ j.state = .retryWait) then removeJob slot s else s
  | none => s

/-- The effects of a disable on an enabled port (R182); the captures it armed fail in the order A, B, P (R77), and its
DUPLICATE jobs leave in slot order (R162; log 29). -/
def disablePort (q : Port) (s : State) : State :=
  let s := s.updPort q (fun c => { c with enabled := false })
  let s := dropClaimsOf q (allScales.foldl (failArmedBy q) s)
  (List.range 16).foldl (dropDuplicate q) s

/-- PORT DISABLE (R182). -/
def portDisable (p : Port) (port : Byte) (s : State) : State :=
  guarded p [(s.isOffice p, .role), (s.started, .mode)]
    (fun s =>
      match portOf port with
      | none => refuse p .range s
      | some q =>
        guarded p [(q != p, .self)]
          (fun s =>
            if (s.port q).enabled then settle (reply p .ok [flag true] (disablePort q s))
            else reply p .ok [flag false] s) s) s

/-- PORT DISABLE (R182). -/
def execPortDisable (p : Port) (port : Byte) (s : State) : Host.Outcome State Fault Refusal :=
  request p s (portDisable p port)

/-! ## The fault status (R193, R194) -/

/-- One kind in READ FAULT, its detail in four bytes whatever the kind (R193; log 61). -/
def faultData (s : State) (k : FaultKind) : List Byte :=
  let r := s.fault k
  [flag r.isSome, flag (s.masked k), flag (s.stops k)] ++
  (match r with | some r => faultDetailBytes r.detail ++ be 4 r.time | none => absent 8)

/-- The first-fault record in READ FAULT, its detail in four bytes (R193; log 61). -/
def firstFaultData (f : Option FirstFault) : List Byte :=
  match f with
  | some f => be 1 (faultIndex f.kind) ++ be 4 f.time ++ faultDetailBytes f.detail ++ [flag f.more]
  | none => absent 10

/-- The presence bits of the twelve times in READ FAULT, kind 0 first, the first-fault record last (log 15). -/
def faultPresence (s : State) : List Byte :=
  let bits := faultKinds.map (fun k => (s.fault k).isSome) ++ [s.firstFault.isSome]
  [flagByte (bits.take 8), flagByte (bits.drop 8)]

/-- READ FAULT (R193). -/
def readFault (p : Port) (s : State) : State :=
  guarded p [(s.started, .mode)]
    (fun s => reply p .ok (faultPresence s ++ faultKinds.flatMap (faultData s) ++ firstFaultData s.firstFault ++
      [flag s.faultOutput]) s) s

/-- READ FAULT (R193). -/
def execReadFault (p : Port) (s : State) : Host.Outcome State Fault Refusal := request p s (readFault p)

/-- The fault records with those of the kinds named cleared (R194). -/
def clearKinds (kinds : Half) (fs : List (Option FaultRecord)) : List (Option FaultRecord) :=
  fs.mapIdx (fun i r => if kinds.getLsbD i then none else r)

/-- CLEAR FAULT (R194); any record flag but 0 is set. -/
def clearFault (p : Port) (kinds : Half) (record : Byte) (s : State) : State :=
  guarded p [(s.isOffice p, .role), (s.started, .mode)]
    (fun s => reply p .ok (be 2 s.faultBits) { s with
      faults := clearKinds kinds s.faults
      firstFault := if record = 0#8 then s.firstFault else none }) s

/-- CLEAR FAULT (R194). -/
def execClearFault (p : Port) (kinds : Half) (record : Byte) (s : State) : Host.Outcome State Fault Refusal :=
  request p s (clearFault p kinds record)

end Sys2Proof.Machine
end

