-- ==== Sys2Proof/Machine/Modes.lean ====
section
/-! DEFINITION. Mode control: entering and leaving configuration, the settings writes, the settings store and the loss of power
(R196 to R206). -/

namespace Sys2Proof.Machine

/-! ## Settings writes (R204, R205) -/

/-- SET HEADER (R204). -/
def setHeader (p : Port) (line : Byte) (text : List Byte) (s : State) : State :=
  guarded p [(s.isOffice p, .role), (s.isConfig, .mode),
      (1 ≤ line.toNat && line.toNat ≤ 3 && text.length == 32 && text.all printable, .range)]
    (fun s => reply p .ok [] (changeSettings (fun t => { t with headers := t.headers.set (line.toNat - 1) text }) s)) s

/-- SET HEADER (R204). -/
def execSetHeader (p : Port) (line : Byte) (text : List Byte) (s : State) : Host.Outcome State Fault Refusal :=
  request p s (setHeader p line text)

/-- The first-receipt setting acts on the counter while no entry is retained (R120, R205; log 25). -/
def applyFirstReceipt (first : Nat) (s : State) : State :=
  if s.newest.isNone then evalSpace { s with counter := first, exhausted := false } else s

/-- SET FIRST RECEIPT (R205); bits of the masks and severities above the eleven kinds are ignored. -/
def setFirstReceipt (p : Port) (first : Word) (claimTimeout : Half) (tareValidity : Byte) (masks severities : Half)
    (s : State) : State :=
  guarded p [(s.isOffice p, .role), (s.isConfig, .mode),
      (1 ≤ first.toNat && (30 ≤ claimTimeout.toNat && claimTimeout.toNat ≤ 600) &&
        (1 ≤ tareValidity.toNat && tareValidity.toNat ≤ 90), .range)]
    (fun s =>
      let s := changeSettings (fun t =>
        { t with
          firstReceipt := first.toNat
          claimTimeout := claimTimeout.toNat
          tareValidity := tareValidity.toNat
          faultMasks := masks.setWidth 11
          faultStops := severities.setWidth 11 }) s
      let s := applyFirstReceipt first.toNat s
      reply p .ok (be 4 s.counter) s) s

/-- SET FIRST RECEIPT (R205). -/
def execSetFirstReceipt (p : Port) (first : Word) (claimTimeout : Half) (tareValidity : Byte) (masks severities : Half)
    (s : State) : Host.Outcome State Fault Refusal :=
  request p s (setFirstReceipt p first claimTimeout tareValidity masks severities)

/-! ## The store write (R201) -/

/-- Every live price is copied to its stored price (R30). -/
def copyPrices (t : Settings) : Settings := { t with grades := t.grades.map (fun g => { g with stored := g.live }) }

/-- A write is handed to the engine. -/
def State.queueWrite (s : State) (w : WriteReq) : State :=
  { s with engine := { s.engine with writes := s.engine.writes ++ [w] } }

/-- A store write begins (R201). -/
def beginStoreWrite (s : State) : State :=
  let cfg := copyPrices s.settings
  { s.queueWrite .storeErase with
    settings := cfg, dirty := false, storeRecord := true, storeWrite := some ⟨cfg, 1⟩ }

/-- A store write ends, in success or failure (R201). -/
def endStoreWrite (failed : Bool) (s : State) : State :=
  let s := { s with storeRecord := false, storeWrite := none }
  let s := if failed then setFault .storeMedia .store { s with dirty := true } else s
  settle (if s.mode = .storing then setMode .run s else s)

/-- The next operation of a store write comes to wait, after the engine, free at the end of the one before it, has taken an operation
that waited: between its operations the engine takes other work by R127 (R202; log 57). -/
def storeNext (w : WriteReq) (s : State) : State := settle ((settle s).queueWrite w)

/-- A read-back of a store write has failed: the write is made once more, or ends (R201). -/
def retryStoreWrite (w : StoreWrite) (s : State) : State :=
  if w.attempt = 1 then storeNext .storeErase { s with storeWrite := some { w with attempt := 2 } }
  else endStoreWrite true s

/-- The engine ends the erase of the store sector; the programming of the image is next (R201). -/
def storeErased (good : Bool) (w : StoreWrite) (s : State) : State :=
  let s := { s.endOp with store := ⟨none, false⟩ }
  if good then storeNext .storeImage s else retryStoreWrite w s

/-- STORE_ERASE (R201); nothing when it is not in hand (log 8). -/
def execStoreErase (good : Bool) (s : State) : Host.Outcome State Fault Refusal :=
  event s (fun s =>
    match s.engine.current, s.storeWrite with
    | some .storeErase, some w => storeErased good w s
    | _, _ => s)

/-- The engine ends the programming of the staged image; that of the mark is next (R201). -/
def imageProgrammed (good : Bool) (w : StoreWrite) (s : State) : State :=
  if good then storeNext .storeMark { s.endOp with store := ⟨some w.staged, false⟩ }
  else retryStoreWrite w { s.endOp with store := ⟨none, false⟩ }

/-- STORE_IMAGE_PROGRAM (R201). -/
def execStoreImageProgram (good : Bool) (s : State) : Host.Outcome State Fault Refusal :=
  event s (fun s =>
    match s.engine.current, s.storeWrite with
    | some .storeImage, some w => imageProgrammed good w s
    | _, _ => s)

/-- The engine ends the programming of the valid mark (R201). -/
def markProgrammed (good : Bool) (w : StoreWrite) (s : State) : State :=
  let s := { s.endOp with store := { s.store with marked := good } }
  if good then endStoreWrite false s else retryStoreWrite w s

/-- STORE_VALID_MARK (R201). -/
def execStoreValidMark (good : Bool) (s : State) : Host.Outcome State Fault Refusal :=
  event s (fun s =>
    match s.engine.current, s.storeWrite with
    | some .storeMark, some w => markProgrammed good w s
    | _, _ => s)

/-- STORE SETTINGS (R202). -/
def storeSettings (p : Port) (s : State) : State :=
  guarded p [(s.isOffice p, .role), (s.isRun, .mode), (s.storeWrite.isNone, .state)]
    (fun s => settle (beginStoreWrite (reply p .ok [] s))) s

/-- STORE SETTINGS (R202). -/
def execStoreSettings (p : Port) (s : State) : Host.Outcome State Fault Refusal := request p s (storeSettings p)

/-! ## Entering and leaving configuration (R197 to R199) -/

/-- The effect of an accepted ENTER CONFIG (R197). -/
def enterConfigEffect (s : State) : State :=
  if s.mode = .run then (if s.drained then enterConfigMode s else setMode .configPending s) else s

/-- ENTER CONFIG (R197). -/
def enterConfig (p : Port) (s : State) : State :=
  guarded p [(s.isOffice p, .role), (s.started && s.mode != .storing, .mode)]
    (fun s =>
      let s := enterConfigEffect s
      reply p .ok (be 1 (modeCode s.mode)) s) s

/-- ENTER CONFIG (R197). -/
def execEnterConfig (p : Port) (s : State) : Host.Outcome State Fault Refusal := request p s (enterConfig p)

/-- The effect of LEAVE CONFIG (R199). -/
def leaveConfigEffect (s : State) : State :=
  match s.mode with
  | .configPending => setMode .run s
  | .config => beginStoreWrite (setMode .storing s)
  | _ => s

/-- LEAVE CONFIG (R199). -/
def leaveConfig (p : Port) (s : State) : State :=
  guarded p [(s.isOffice p, .role), (s.started, .mode)]
    (fun s =>
      let s := leaveConfigEffect s
      settle (reply p .ok (be 1 (modeCode s.mode)) s)) s

/-- LEAVE CONFIG (R199). -/
def execLeaveConfig (p : Port) (s : State) : Host.Outcome State Fault Refusal := request p s (leaveConfig p)

/-! ## The loss of power (R206) -/

/-- Program bytes as far as a cut-short programming reached. -/
def cutProgram (a : Nat) (bs : List Byte) (cut : Cells) (s : State) : State :=
  { s with journal := memProgram s.journal a bs cut.stuck cut.lost }

/-- What the bytes of an erase keep when it is cut short: the bits that were not yet set, in `stuck` (log 6). -/
def cutErase (a : Nat) (cut : Cells) (m : Memory) : Memory :=
  (cut.stuck.zipIdx).foldl (fun m (b, k) =>
    if k < 4096 then memWrite m (a + k) (memRead m (a + k) ||| b) else m) m

/-- What the operation in hand leaves in the array when it is cut short (R206); a suspended erase leaves its sector's bytes as they
were before it (log 6), and a store write whose erase still waits leaves the store as it was (log 69). -/
def cutOperation (cut : Cells) (s : State) : State :=
  match s.engine.current with
  | some .commitStep =>
    (match s.head with
      | some h => cutProgram (entryAddr h.sector h.slot + (stepBytes h).1) (stepBytes h).2 cut s
      | none => s)
  | some (.printedMark _) =>
    (match s.pendingMarks.head?.bind (fun m => (s.lookup m.receipt).map (fun x => (m.time, x))) with
      | some (time, i, slot) =>
        cutProgram (entryAddr i slot + 12) (be 4 time) ⟨cut.stuck.drop 1, cut.lost.drop 1⟩
          (cutProgram (entryAddr i slot) [markPattern .printed] cut s)
      | none => s)
  | some (.auditMark _) =>
    (match s.pass.bind (fun q => s.unaudited q.next) with
      | some (i, slot) => cutProgram (entryAddr i slot) [markPattern .audited] cut s
      | none => s)
  | some .erase =>
    (match s.engine.erase with
      | some e => { s with journal := cutErase (4096 * e.sector) cut s.journal }
      | none => s)
  | some (.calRecord sc) =>
    (match s.calJobs.get sc with
      | some (.record _ r) =>
        let area := s.cal.get sc
        let slots := memProgram area.slots (calAddr (s.chan sc)) (calBytes r) cut.stuck cut.lost
        { s with cal := s.cal.set sc { area with slots := slots } }
      | _ => s)
  | some (.calLock sc) => { s with cal := s.cal.set sc { s.cal.get sc with lock := lockByte (s.cal.get sc).lock cut } }
  | some .storeErase => { s with store := ⟨none, false⟩ }
  | some .storeImage => { s with store := ⟨none, false⟩ }
  | some .storeMark => { s with store := { s.store with marked := decide (cut = Cells.good) } }
  | _ => s

/-- The part takes no further event; an operation in progress is cut short (R206). -/
def stopPart (cut : Cells) (s : State) : State := if s.powered then (cutOperation cut s).endOp else s

/-- MAIN_SUPPLY_LOSS (R206). -/
def execMainSupplyLoss (cut : Cells) (s : State) : Host.Outcome State Fault Refusal :=
  .next { stopPart cut s with supply := false, lostSupply := true }

/-- RESET_N_LOW (R206). -/
def execResetNLow (cut : Cells) (s : State) : Host.Outcome State Fault Refusal :=
  .next { stopPart cut s with resetHigh := false }

end Sys2Proof.Machine
end

