-- ==== Sys2Proof/Machine/Start.lean ====
section
/-! DEFINITION. A start: the decision, the cold-start values, the start-up scan of the journal, the resolution of commits and the
order of a start (R19, R64 to R66, R99, R114, R115, R141, R142, R164, R165, R173 to R175, R195, R201, R206 to R208). -/

namespace Sys2Proof.Machine

/-! ## Decision and cold-start values (R207) -/

/-- Whether a start is warm (R207): the sense line counts only after a loss of the main supply, also when the supply returned while
RESET_N was low and the release of RESET_N begins the start (log 54). -/
def warmStart (retained sense : Bool) (s : State) : Bool := retained && (!s.lostSupply || sense)

/-- The live settings that a store image brings: each live price equals its stored price (R32, R207). -/
def loadImage (t : Settings) : Settings := { t with grades := t.grades.map (fun g => { g with live := g.stored }) }

/-- Whether the store is valid, and its image (R200). -/
def Store.valid (st : Store) : Option Settings := if st.marked then st.image else none

/-- Every retained item at its cold-start value, apart from the fault status (R207). -/
def coldValues (s : State) : State :=
  { s with
    settings := s.store.valid.elim Settings.default loadImage
    dirty := false
    storeRecord := false
    channels := s.channels.map (fun c => { c with zeroOffset := 0 })
    tares := List.replicate 32 none
    tickets := []
    nextTicket := 1
    clock := 0
    clockSet := false
    holds := []
    settlements := []
    eraseRecord := none
    jobs := List.replicate 16 none
    ageCounter := 0
    backlog := none
    snapshot := none }

/-- What no start keeps, apart from the ports, the scales and the journal's map (R122, R129, R135, R142, R201). The print engine
takes its start values without a PRINTER_STATE notice (R146; log 20). -/
def clearVolatile (s : State) : State :=
  { s with
    supply := true
    resetHigh := true
    lostSupply := false
    mode := .starting
    storeWrite := none
    calJobs := ⟨none, none, none⟩
    scanned := false
    commitQueue := []
    head := none
    engine := ⟨none, [], [], none⟩
    pass := none
    pendingMarks := []
    lowFlag := false
    pe := PrintEngine.start }

/-! ## Ports and fault status (steps 2 and 3 of R208) -/

/-- A port context at a start (R175): its filter is the notice default. -/
def startPort (cfg : PortSettings) (c : PortCtx) : PortCtx :=
  { c with state := .idle, enabled := true, result := none, overrun := false, filter := cfg.noticeDefault, queue := [],
           overflow := 0, stream := none }

/-- Every port context is set up (R175). -/
def startPorts (s : State) : State :=
  { s with ports := ⟨startPort s.settings.ports.s0 s.ports.s0, startPort s.settings.ports.s1 s.ports.s1,
      startPort s.settings.ports.s2 s.ports.s2, startPort s.settings.ports.s3 s.ports.s3⟩ }

/-- The fault status at a cold start (R195, R208). -/
def coldFaults (s : State) : State :=
  let s := { s with faults := List.replicate 11 none, firstFault := none }
  let s := setFault .clockUnset .none (setFault .retentionLost .none s)
  if s.store.valid.isNone then setFault .settingsLost .none s else s

/-- A warm start that finds a store write interrupted (R201). -/
def warmFaults (s : State) : State :=
  if s.storeRecord then setFault .storeMedia .storeInterrupted { s with storeRecord := false } else s

/-! ## The scan (R141) -/

/-- Whether a slot reads blank at the scan: its status byte reads as blank (R119, R141, log 39). -/
def slotBlank (e : List Byte) : Bool := markOf e == .blank

/-- A sector as the scan classifies it, before its first number is known. -/
inductive ScanCase where
  | restarted
  | bad
  | blank
  | entries (first : Option Nat) (used : Nat)
  deriving DecidableEq, Repr

/-- The entries used of a sector: the last slot that is not blank, plus 1. -/
def scanUsed (es : List (List Byte)) : Nat := es.length - (es.reverse.takeWhile slotBlank).length

/-- The number of slot 0: read from the lowest header that holds, counting down by one per slot, at most to 0 (R141 case 4;
log 24). -/
def scanFirst (es : List (List Byte)) : Option Nat :=
  (es.zipIdx.find? (fun e => headerHolds e.1)).map (fun e => entryNat e.1 1 4 - e.2)

/-- Classify one sector (R141). -/
def scanSector (erasing : Bool) (es : List (List Byte)) : ScanCase :=
  if erasing then .restarted
  else if es.any (fun e => e.headD 0xFF#8 == 0x00#8) then .bad
  else if es.all slotBlank then .blank
  else .entries (scanFirst es) (scanUsed es)

/-- The 16 entry places of a sector. -/
def State.sectorBytes (s : State) (i : Nat) : List (List Byte) := (List.range 16).map (s.entryBytes i)

/-- The cases of the 32 sectors. -/
def scanCases (s : State) : List ScanCase :=
  sectorIndexes.map (fun i => scanSector (s.eraseRecord == some i) (s.sectorBytes i))

/-- The nearest sector in a walk that has a header that holds, when no sector of case 1 or 3 is passed (R141 case 4). -/
def nearestFirst : List ScanCase → Option Nat
  | [] => none
  | .entries (some n) _ :: _ => some n
  | .entries none _ :: cs => nearestFirst cs
  | .bad :: cs => nearestFirst cs
  | .restarted :: _ => none
  | .blank :: _ => none

/-- The other sectors met walking the ring backward from one. -/
def walkBack (cs : List ScanCase) (i : Nat) : List ScanCase :=
  (List.range 31).map (fun k => cs.getD ((i + 31 - k) % 32) .blank)

/-- The other sectors met walking the ring forward from one. -/
def walkOn (cs : List ScanCase) (i : Nat) : List ScanCase :=
  (List.range 31).map (fun k => cs.getD ((i + 1 + k) % 32) .blank)

/-- The first number of a sector with no header that holds; a count down stops at 0, and a count up is not cut
off at 32 bits (R141 case 4; log 24). -/
def guessFirst (cs : List ScanCase) (i firstReceipt : Nat) : Nat :=
  match nearestFirst (walkBack cs i) with
  | some n => n + 16
  | none =>
    match nearestFirst (walkOn cs i) with
    | some n => n - 16
    | none => firstReceipt

/-- Whether the scan marks an entry TORN: it reads STARTED, or COMPLETE or PRINTED with a failing body check (R141). -/
def scanTears (e : List Byte) : Bool :=
  markOf e == .started || ((markOf e == .complete || markOf e == .printed) && !bodyHolds e)

/-- The record of a sector's map after the scan, before the newest is known (R141, R142); a BAD sector and one whose erase starts
again have 0 entries used (log 46). -/
def scanRecord (cs : List ScanCase) (firstReceipt : Nat) (es : List (List Byte)) (i : Nat) : Sector :=
  let marks := es.map markOf
  let kinds := es.map kindByte
  match cs.getD i .blank with
  | .restarted => ⟨.erasing, none, 0, marks, kinds⟩
  | .bad => ⟨.bad, none, 0, marks, kinds⟩
  | .blank => ⟨.blankUnchecked, none, 0, marks, kinds⟩
  | .entries first used =>
    ⟨.full, some (first.getD (guessFirst cs i firstReceipt)), used,
      es.map (fun e => if scanTears e then .torn else markOf e), kinds⟩

/-- The entries of a sector that the scan marks TORN: their slots. -/
def tornSlots (c : ScanCase) (es : List (List Byte)) : List Nat :=
  match c with
  | .entries _ used => (List.range used).filter (fun slot => scanTears (es.getD slot []))
  | _ => []

/-- Program TORN on the entries of a sector that the scan marks (R141). -/
def programTears (i : Nat) (slots : List Nat) (m : Memory) : Memory :=
  slots.foldl (fun m slot => memProgram m (entryAddr i slot) [markPattern .torn] [] []) m

/-- The receipt numbers of the entries of a sector that the scan marks TORN: the sector's first number and the slot, whatever number
a later header holds (R117, R142; log 64). -/
def tornNumbers (s : State) (cs : List ScanCase) (i : Nat) : List Nat :=
  (tornSlots (cs.getD i .blank) (s.sectorBytes i)).map (fun slot => ((s.sector i).first.getD 0) + slot)

/-- The sector that holds the newest entry is FILLING unless it is full (R142); of several that hold its number it is the one of the
lowest index (log 62). -/
def settleNewest (s : State) : State :=
  match s.newest.bind s.lookup with
  | some (i, _) => s.updSector i (fun c => { c with state := if c.used < 16 then .filling else .full })
  | none => s

/-- Every retained entry numbered below a retained AUDITED entry is taken as AUDITED (R142). -/
def backfillAudited (s : State) : State :=
  match maxOf ((s.retainedEntries.filter (fun e => s.slotMark e.2.1 e.2.2 == .audited)).map Prod.fst) with
  | none => s
  | some top => s.retainedEntries.foldl (fun s e => if e.1 < top then s.setSlotMark e.2.1 e.2.2 .audited else s) s

/-- The receipt counter after the scan (R142; log 25). -/
def startCounter (s : State) : State :=
  match s.newest with
  | some n => if n < lastReceipt then { s with counter := n + 1, exhausted := false }
      else { s with counter := lastReceipt, exhausted := true }
  | none => { s with counter := s.settings.firstReceipt, exhausted := false }

/-- TORN_FOUND with the lowest number marked; at a warm start each is counted in the tally (R141, R168, R173). -/
def reportTorn (warm : Bool) (torn : List Nat) (s : State) : State :=
  match minOf torn with
  | none => s
  | some n =>
    let s := setFault .tornFound (.receipt n) s
    if warm then torn.foldl (fun s _ => tallyTorn s) s else s

/-- The erase that was in progress starts again as the first operation after the scan (R141 case 1). A sector whose erase-ahead was
still in its blank check (R132) is erased as well, with no blank check: the erase record does not tell the two apart (log 72, DESIGN
CHOICE). -/
def restartErase (s : State) : State :=
  match s.eraseRecord with
  | some i => { s with engine := { s.engine with current := some .erase, erase := some ⟨i, false, false, 0, false⟩ } }
  | none => s

/-- The start-up scan and the rebuild (R141, R142). -/
def scanJournal (warm : Bool) (decay : List (Nat × Byte)) (s : State) : State :=
  let s := { s with journal := memDecay s.journal 0 131072 decay }
  let cs := scanCases s
  let torn := sectorIndexes.flatMap (tornNumbers { s with
    sectors := sectorIndexes.map (fun i => scanRecord cs s.settings.firstReceipt (s.sectorBytes i) i) } cs)
  let s := { s with
    scanned := true
    sectors := sectorIndexes.map (fun i => scanRecord cs s.settings.firstReceipt (s.sectorBytes i) i)
    journal := sectorIndexes.foldl (fun m i => programTears i (tornSlots (cs.getD i .blank) (s.sectorBytes i)) m) s.journal }
  restartErase (evalSpace (startCounter (backfillAudited (settleNewest (reportTorn warm torn s)))))

/-! ## Scales and printer (step 5 of R208) -/

/-- A scale that was in FAULT has left it by the start: SCALE_STATE is offered (R13). -/
def offerLeft (was : PerScale Channel) (s : State) (sc : Scale) : State :=
  if (was.get sc).state = .fault then offerScaleState sc s else s

/-- Every scale channel reads its calibration area and takes its start values, and those that were in FAULT offer the change,
in the order A, B, P (R13, R19, R23, R24; log 49). -/
def startScales (s : State) : State :=
  let start := fun sc => startChannel (s.scaleSettings sc).enabled (s.cal.get sc) (s.chan sc).zeroOffset
  allScales.foldl (offerLeft s.channels) { s with channels := ⟨start .a, start .b, start .p⟩ }

/-- The print queue of a warm start (R164). -/
def warmJob (j : Job) : Job :=
  match j.state with
  | .printing => { j with state := .queued, restarted := true }
  | .retryWait => { j with state := .queued, wait := 0 }
  | _ => j

/-! ## Warm start: commits and holds (step 6 of R208) -/

/-- Whether the entry of a record's number stands as a completed receipt (R65, R114). -/
def State.committed (s : State) (n : Nat) : Bool :=
  match s.entryMark n with
  | some .complete => true
  | some .printed => true
  | some .audited => ((s.retainedBytes n).map (fun e => !carriesTorn e)).getD false
  | _ => false

/-- One settlement record is resolved, and its ticket reconciled (R65, R114); the order in which two reserved jobs leave is log 29. -/
def resolveRecord (s : State) (r : Settlement) : State :=
  match r.receipt.filter s.committed with
  | some n => completeRecord r n s
  | none => failRecord r s

/-- The settlement list is resolved in order, and the holds are examined (R99, R114). -/
def warmResolve (s : State) : State :=
  examineHolds { s.settlements.foldl resolveRecord s with settlements := [] }

/-- The tickets of a warm start, before their reconciliation (R64). -/
def warmTickets (s : State) : State :=
  { s with tickets := s.tickets.map (fun t => { t with claim := none, capture := none }) }

/-- The activities of a warm start from the fault status on (R208). -/
def warmActivities (decay : List (Nat × Byte)) (s : State) : State :=
  let s := scanJournal true decay (warmFaults s)
  let s := startScales { s with jobs := s.jobs.map (fun j => j.map warmJob) }
  warmResolve (testBacklog (warmTickets s))

/-! ## Cold start: backlog and tally (step 7 of R208) -/

/-- The backlog walk is set up (R165). -/
def setBacklog (s : State) : State :=
  match s.oldest, s.newest with
  | some o, some n => testBacklog { s with backlog := some ⟨o, n⟩ }
  | _, _ => s

/-- The activities of a cold start from the fault status on (R208). -/
def coldActivities (decay : List (Nat × Byte)) (s : State) : State :=
  rebuildTally (setBacklog (startScales (scanJournal false decay (coldFaults s))))

/-- A start, from its decision to RUN (R208, log 3). -/
def startPart (retained sense : Bool) (decay : List (Nat × Byte)) (s : State) : State :=
  let warm := warmStart retained sense s
  let s := clearVolatile s
  let s := startPorts (if warm then s else coldValues s)
  settle (setMode .run (if warm then warmActivities decay s else coldActivities decay s))

/-- START: RESET_N is released, or the main supply returns (R206 to R208; log 27). -/
def execStart (retained sense : Bool) (decay : List (Nat × Byte)) (s : State) : Host.Outcome State Fault Refusal :=
  .next (startPart retained sense decay s)

end Sys2Proof.Machine
end

