-- ==== Sys2Proof/Machine/Tick.lean ====
section
/-! DEFINITION. What passes in one millisecond in which no command waits: the timers run, and one that reaches its end puts its
expiry command in the queue (R4, R76, R83, R90, R149, R152, R157; log 1). -/

namespace Sys2Proof.Machine

/-! ## One unit of each timer -/

/-- The silence timer of a channel that is not DISABLED counts one millisecond (R4). -/
def Channel.tickMs (c : Channel) : Channel := if c.state = .disabled then c else { c with silence := min 250 (c.silence + 1) }

/-- The capture timer of a scale runs down by one second (R76). -/
def Channel.tickSecond (c : Channel) : Channel :=
  { c with capture := c.capture.map (fun k => { k with remaining := k.remaining - 1 }) }

/-- The claim timer of a ticket runs down by one second (R90). -/
def Ticket.tickSecond (t : Ticket) : Ticket :=
  { t with claim := t.claim.map (fun c => { c with remaining := c.remaining - 1 }) }

/-- The retry wait of a job runs down by one second (R152). -/
def Job.tickSecond (j : Job) : Job := if j.state = .retryWait then { j with wait := j.wait - 1 } else j

/-- The response timer and the wait after the status query run down by one second (R149, R157). -/
def PrintEngine.tickSecond (e : PrintEngine) : PrintEngine :=
  { e with responseTimer := e.responseTimer.map (· - 1), queryTimer := e.queryTimer.map (· - 1) }

/-! ## The timers that the unit brings to their end -/

/-- The silence timers that this millisecond brings to 250 (R4). -/
def State.silencesDue (s : State) : List Instr :=
  (allScales.filter (fun sc => (s.chan sc).state != .disabled && 250 ≤ (s.chan sc).silence + 1)).map .silenceEvent

/-- Whether a job's retry wait ends with this second (R152). -/
def retryDue (j : Job) : Bool := j.state == .retryWait && j.wait ≤ 1

/-- The timers of seconds that this second brings to 0 (R76, R90, R149, R152, R157), in the order of log 1. -/
def State.secondsDue (s : State) : List Instr :=
  (allScales.filter (fun sc => (s.chan sc).capture.any (fun k => k.remaining ≤ 1))).map .captureTimeout ++
  (s.tickets.filter (fun t => t.claim.any (fun c => c.remaining ≤ 1))).map (fun t => .claimExpiry (BitVec.ofNat 16 t.number)) ++
  ((List.range 16).filter (fun slot => (s.job slot).any retryDue)).map .retryWait ++
  (if s.pe.responseTimer.any (· ≤ 1) then [.responseTimeout] else []) ++
  (if s.pe.queryTimer.any (· ≤ 1) then [.statusQueryTimeout] else [])

/-! ## A millisecond -/

/-- A millisecond of the silence timers, while the part is powered. -/
def tickMs (s : State) : State :=
  { s with channels := s.channels.map Channel.tickMs, pending := s.pending ++ s.silencesDue }

/-- A second of the part's timers, while it is powered. -/
def tickSecond (s : State) : State :=
  { s with
    channels := s.channels.map Channel.tickSecond
    tickets := s.tickets.map Ticket.tickSecond
    jobs := s.jobs.map (Option.map Job.tickSecond)
    pe := s.pe.tickSecond
    pending := s.pending ++ s.secondsDue }

/-- One millisecond with no command waiting; the thousandth ends a second, in which the yard clock advances. -/
def tick (s : State) : State :=
  let second := s.msPhase + 1 == 1000
  let s := { s with msPhase := if second then 0 else s.msPhase + 1 }
  let s := if s.powered then tickMs s else s
  let s := if second then { s with pending := s.pending ++ [.clockAdvance] } else s
  if second && s.powered then tickSecond s else s

end Sys2Proof.Machine
end

