-- ==== Sys2Proof/Machine/Dispatch.lean ====
section
/-! DEFINITION. The meaning of each command: one arm for each constructor of Instr. -/

namespace Sys2Proof.Machine

/-- The effect of a command on everything but the queue. -/
def exec (i : Instr) (s : State) : Host.Outcome State Fault Refusal :=
  match i with
  | .digitizerFrame sc bytes => Sys2Proof.Machine.execDigitizerFrame sc bytes s
  | .silenceEvent sc => Sys2Proof.Machine.execSilenceEvent sc s
  | .captureTimeout sc => Sys2Proof.Machine.execCaptureTimeout sc s
  | .readStatus p clocked => Sys2Proof.Machine.execReadStatus p clocked s
  | .readResult p clocked => Sys2Proof.Machine.execReadResult p clocked s
  | .readNotice p clocked => Sys2Proof.Machine.execReadNotice p clocked s
  | .readJournal p receipt => Sys2Proof.Machine.execReadJournal p receipt s
  | .journalStreamRead p decay => Sys2Proof.Machine.execJournalStreamRead p decay s
  | .streamEnd p => Sys2Proof.Machine.execStreamEnd p s
  | .malformedFrame p => Sys2Proof.Machine.execMalformedFrame p s
  | .openTicket p cls vehicle => Sys2Proof.Machine.execOpenTicket p cls vehicle s
  | .setVehicle p ticket vehicle => Sys2Proof.Machine.execSetVehicle p ticket vehicle s
  | .setSeller p ticket seller => Sys2Proof.Machine.execSetSeller p ticket seller s
  | .weigh p scale kind ticket grade => Sys2Proof.Machine.execWeigh p scale kind ticket grade s
  | .weighStoreTare p scale vehicle => Sys2Proof.Machine.execWeighStoreTare p scale vehicle s
  | .cancelWeigh p scale => Sys2Proof.Machine.execCancelWeigh p scale s
  | .readScale p scale => Sys2Proof.Machine.execReadScale p scale s
  | .zeroScale p scale => Sys2Proof.Machine.execZeroScale p scale s
  | .restoreScale p scale => Sys2Proof.Machine.execRestoreScale p scale s
  | .calibrate p scale zeroSum span trim1 trim2 trim3 trim4 => Sys2Proof.Machine.execCalibrate p scale zeroSum span trim1 trim2 trim3 trim4 s
  | .calibrationRecordWritten sc cells => Sys2Proof.Machine.execCalibrationRecordWritten sc cells s
  | .lockCalibration p scale => Sys2Proof.Machine.execLockCalibration p scale s
  | .calibrationLockWritten sc cells => Sys2Proof.Machine.execCalibrationLockWritten sc cells s
  | .scaleSettings p scale enable settle timeout empty recovery => Sys2Proof.Machine.execScaleSettings p scale enable settle timeout empty recovery s
  | .dockLine p ticket grade dock => Sys2Proof.Machine.execDockLine p ticket grade dock s
  | .closeOnStoredTare p ticket grade => Sys2Proof.Machine.execCloseOnStoredTare p ticket grade s
  | .voidTicket p ticket reason => Sys2Proof.Machine.execVoidTicket p ticket reason s
  | .readTicket p ticket part => Sys2Proof.Machine.execReadTicket p ticket part s
  | .listTickets p selection => Sys2Proof.Machine.execListTickets p selection s
  | .claimTicket p ticket => Sys2Proof.Machine.execClaimTicket p ticket s
  | .releaseTicket p ticket => Sys2Proof.Machine.execReleaseTicket p ticket s
  | .claimExpiry ticket => Sys2Proof.Machine.execClaimExpiry ticket s
  | .endHold p ticket => Sys2Proof.Machine.execEndHold p ticket s
  | .extendHold p ticket expiry => Sys2Proof.Machine.execExtendHold p ticket expiry s
  | .setClock p time => Sys2Proof.Machine.execSetClock p time s
  | .readClock p => Sys2Proof.Machine.execReadClock p s
  | .clockAdvance => Sys2Proof.Machine.execClockAdvance s
  | .settleTicket p ticket => Sys2Proof.Machine.execSettleTicket p ticket s
  | .commitHeader cells torn check => Sys2Proof.Machine.execCommitHeader cells torn check s
  | .commitBody cells torn check => Sys2Proof.Machine.execCommitBody cells torn check s
  | .commitComplete cells torn check => Sys2Proof.Machine.execCommitComplete cells torn check s
  | .printedMark cells time => Sys2Proof.Machine.execPrintedMark cells time s
  | .auditThrough p receipt => Sys2Proof.Machine.execAuditThrough p receipt s
  | .auditMark cells => Sys2Proof.Machine.execAuditMark cells s
  | .eraseAheadStart => Sys2Proof.Machine.execEraseAheadStart s
  | .eraseResume => Sys2Proof.Machine.execEraseResume s
  | .blankCheck decay => Sys2Proof.Machine.execBlankCheck decay s
  | .eraseDone remains => Sys2Proof.Machine.execEraseDone remains s
  | .readJournalState p => Sys2Proof.Machine.execReadJournalState p s
  | .printFetch decay => Sys2Proof.Machine.execPrintFetch decay s
  | .endOfJobSent => Sys2Proof.Machine.execEndOfJobSent s
  | .responseTimeout => Sys2Proof.Machine.execResponseTimeout s
  | .ack => Sys2Proof.Machine.execAck s
  | .err => Sys2Proof.Machine.execErr s
  | .paperLow => Sys2Proof.Machine.execPaperLow s
  | .paperOut => Sys2Proof.Machine.execPaperOut s
  | .coverOpen => Sys2Proof.Machine.execCoverOpen s
  | .ready => Sys2Proof.Machine.execReady s
  | .statusQueryTimeout => Sys2Proof.Machine.execStatusQueryTimeout s
  | .retryWait slot => Sys2Proof.Machine.execRetryWait slot s
  | .printReceipt p receipt => Sys2Proof.Machine.execPrintReceipt p receipt s
  | .cancelPrint p slot kind receipt => Sys2Proof.Machine.execCancelPrint p slot kind receipt s
  | .listPrintQueue p => Sys2Proof.Machine.execListPrintQueue p s
  | .readPrinter p => Sys2Proof.Machine.execReadPrinter p s
  | .restorePrinter p => Sys2Proof.Machine.execRestorePrinter p s
  | .closeShift p => Sys2Proof.Machine.execCloseShift p s
  | .readTally p source first => Sys2Proof.Machine.execReadTally p source first s
  | .setPrice p grade price => Sys2Proof.Machine.execSetPrice p grade price s
  | .defineGrade p grade name flags holdHours price => Sys2Proof.Machine.execDefineGrade p grade name flags holdHours price s
  | .readGrade p grade => Sys2Proof.Machine.execReadGrade p grade s
  | .deleteTare p vehicle => Sys2Proof.Machine.execDeleteTare p vehicle s
  | .readTare p key => Sys2Proof.Machine.execReadTare p key s
  | .setFilter p kinds scales => Sys2Proof.Machine.execSetFilter p kinds scales s
  | .setRole p port role scales noticeKinds noticeScales => Sys2Proof.Machine.execSetRole p port role scales noticeKinds noticeScales s
  | .portEnable p port => Sys2Proof.Machine.execPortEnable p port s
  | .portDisable p port => Sys2Proof.Machine.execPortDisable p port s
  | .readFault p => Sys2Proof.Machine.execReadFault p s
  | .clearFault p kinds record => Sys2Proof.Machine.execClearFault p kinds record s
  | .setHeader p line text => Sys2Proof.Machine.execSetHeader p line text s
  | .setFirstReceipt p first claimTimeout tareValidity masks severities => Sys2Proof.Machine.execSetFirstReceipt p first claimTimeout tareValidity masks severities s
  | .enterConfig p => Sys2Proof.Machine.execEnterConfig p s
  | .leaveConfig p => Sys2Proof.Machine.execLeaveConfig p s
  | .storeSettings p => Sys2Proof.Machine.execStoreSettings p s
  | .storeErase good => Sys2Proof.Machine.execStoreErase good s
  | .storeImageProgram good => Sys2Proof.Machine.execStoreImageProgram good s
  | .storeValidMark good => Sys2Proof.Machine.execStoreValidMark good s
  | .mainSupplyLoss cut => Sys2Proof.Machine.execMainSupplyLoss cut s
  | .resetNLow cut => Sys2Proof.Machine.execResetNLow cut s
  | .start retained sense decay => Sys2Proof.Machine.execStart retained sense decay s

end Sys2Proof.Machine
end

