-- ==== Sys2Proof/WellFormed.lean ====
section
/-! DEFINITION. Which commands are well formed: the operands that the sender of each can form (R2, R206, R210; log 40). -/

namespace Sys2Proof

/-- Byte differences of an array operation on `n` bytes. -/
def Cells.wf (n : Nat) (c : Cells) : Bool := c.stuck.length ≤ n && c.lost.length ≤ n

/-- Bytes that read otherwise, at offsets below `n`. -/
def decayWf (n : Nat) (d : List (Nat × Byte)) : Bool := d.all (fun x => x.1 < n)

/-- An ID whose length fits its length byte (R210). -/
def idWf (t : List Byte) : Bool := t.length ≤ 255

/-- A whole frame on a digitizer link: a start byte, and as many bytes as its third byte calls for (R2). -/
def frameWf (bs : List RxByte) : Bool :=
  match bs with
  | s :: _ :: n :: _ =>
    s.value == Machine.startByte && !s.framingError && bs.length == Machine.frameLength n.value.toNat
  | _ => false

/-- The commands that some sender can form. -/
def Instr.wf : Instr → Bool
  | .digitizerFrame _ bs => frameWf bs
  | .journalStreamRead _ d => decayWf 256 d
  | .openTicket _ _ v => idWf v
  | .setVehicle _ _ v => idWf v
  | .setSeller _ _ v => idWf v
  | .weigh _ _ k _ _ => k != 4#8
  | .weighStoreTare _ _ v => idWf v
  | .calibrationRecordWritten _ c => c.wf 22
  | .calibrationLockWritten _ c => c.wf 1
  | .claimExpiry t => 1 ≤ t.toNat && t.toNat ≤ 9999
  | .commitHeader c t k => c.wf 12 && t.wf 1 && k.wf 4
  | .commitBody c t k => c.wf 240 && t.wf 1 && k.wf 4
  | .commitComplete c t k => c.wf 1 && t.wf 1 && k.wf 4
  | .printedMark c t => c.wf 1 && t.wf 4
  | .auditMark c => c.wf 1
  | .blankCheck d => decayWf 4096 d
  | .eraseDone d => decayWf 4096 d
  | .printFetch d => decayWf 256 d
  | .retryWait slot => slot < 16
  | .defineGrade _ _ n _ _ _ => n.length == 8
  | .deleteTare _ v => idWf v
  | .readTare _ (.id s v) => s != 0#8 && idWf v
  | .setHeader _ _ t => t.length == 32
  | .mainSupplyLoss c => c.wf 4096
  | .resetNLow c => c.wf 4096
  | .start _ _ d => decayWf 131072 d
  | _ => true

end Sys2Proof
end

