-- ==== Sys2Proof/Safety.lean ====
section
/-! DEFINITION. What the statements speak of: a port that takes requests, the state its request meets, a good digitizer frame, what a
presentation does to a capture, print slots and what frees one, the books that a settlement changes, a commit that fails, the ring,
the beginning of an attempt, a void's capture, a waiting commit's selection, the entries that a start tears, and the shape that every
step keeps. -/

namespace Sys2Proof.Machine

/-! ## Requests that are taken (R177) -/

/-- The part is powered, and the port is enabled and not BUSY: a request frame on it is handed to its owner (R177). -/
abbrev Taking (p : Port) (s : State) : Prop :=
  s.powered = true ∧ (s.port p).state ≠ .busy ∧ (s.port p).enabled = true

/-- The state that a request's owner meets: the frame has clocked out the summary byte, the result buffer is empty and the port
is BUSY (R176, R177). -/
def taken (p : Port) (s : State) : State :=
  (beginFrame p s).updPort p (fun c => { c with state := .busy, result := none })

/-- A request answered at once with a code and data, and no other effect (R177). -/
def answered (p : Port) (code : ResultCode) (data : List Byte) (s : State) : State := reply p code data (taken p s)

/-- The answer to a request on a ticket that it names by number (R43): RANGE, NO_TICKET, or as the request goes on. -/
def onTicket (p : Port) (n : Half) (s : State) (f : Ticket → State) : State :=
  if n.toNat = 0 ∨ 9999 < n.toNat then answered p .range [] s
  else match s.ticket n.toNat with
    | none => answered p .noTicket [] s
    | some t => f t

/-! ## Frames of a digitizer (R2, R3) -/

/-- The bytes of the frame that arriving bytes end: those the channel's receiver holds, and they (R2). -/
def wholeFrame (sc : Scale) (bytes : List RxByte) (s : State) : List RxByte := (s.chan sc).rx ++ bytes

/-- Bytes arrive at an enabled channel of a powered part that end a frame, and it fails no test of R3. -/
abbrev GoodFrameArrives (sc : Scale) (bytes : List RxByte) (s : State) : Prop :=
  s.powered = true ∧ (s.chan sc).state ≠ .disabled ∧ bytes ≠ [] ∧ frameWf (wholeFrame sc bytes s) = true ∧
  frameFault sc (s.chan sc).seqRef (parseFrame (wholeFrame sc bytes s)) = none

/-- Bytes arrive at an enabled channel of a powered part that end a frame, and it fails the test of R3 that records a cause. -/
abbrev BadFrameArrives (sc : Scale) (bytes : List RxByte) (cause : BadCause) (s : State) : Prop :=
  s.powered = true ∧ (s.chan sc).state ≠ .disabled ∧ bytes ≠ [] ∧ frameWf (wholeFrame sc bytes s) = true ∧
  frameFault sc (s.chan sc).seqRef (parseFrame (wholeFrame sc bytes s)) = some cause

/-- The channel after a good frame, but for its capture: the fault count falls by 1; a scale that stays in FAULT takes no weight
(R11, R13); without a live calibration the scale is EMPTY with no weight (R5); else the weight is the rounded W1, which becomes the
reference, motion and state follow (R6 to R8), and zero tracking moves the zero offset by W1 (R15; that the W1 is then used up is
log 13, DESIGN CHOICE). -/
def frameChannel (sc : Scale) (bytes : List RxByte) (s : State) : Channel :=
  let f := parseFrame (wholeFrame sc bytes s)
  let c := s.chan sc
  let cfg := s.scaleSettings sc
  let counted := { c with
    faultCount := c.faultCount - 1, seqRef := some ((f.sequence + 1) % 16), silence := 0, rx := [], capture := none }
  if c.state = .fault ∧ ¬ (cfg.recovery = .auto ∧ c.faultCount - 1 = 0) then { counted with motion := 0 }
  else match c.live with
    | none => { counted with state := .empty, weight := none, w1 := none, reference := none, motion := 0 }
    | some cal =>
      let w1 := calibratedWeight cal f.counts - c.zeroOffset
      let w := reported sc w1
      let motion := if c.state = .fault then 0 else nextMotion sc c w
      let state : ScaleState := if (capacity sc + 9 * division sc : Int) < w then .overload
        else if w ≤ (cfg.empty * division sc : Nat) then .empty
        else if cfg.settle ≤ motion then .stable else .moving
      let tracks := state = .empty ∧ cfg.settle ≤ motion ∧ w = 0 ∧ w1 ≠ 0 ∧
        -(capacity sc : Int) ≤ 50 * (c.zeroOffset + w1) ∧ 50 * (c.zeroOffset + w1) ≤ (capacity sc : Int)
      { counted with
        state := state, weight := some w, reference := some w, motion := motion
        w1 := some (if tracks then 0 else w1), zeroOffset := if tracks then c.zeroOffset + w1 else c.zeroOffset }

/-- The ports when a scale's channel has become `c`: SCALE_STATE is offered if its state or WARN changed (R10). -/
def scaleHeard (sc : Scale) (c : Channel) (s : State) : PerPort PortCtx :=
  if c.state = (s.chan sc).state ∧ warn c = warn (s.chan sc) then s.ports
  else (broadcast ⟨.scaleState, some (scaleCode sc), [BitVec.ofNat 8 (scaleStateCode c.state), flag (warn c)], s.clock⟩ s).ports

/-- What the capture armed on a scale does when its channel presents its state after anything but a good frame (R10, R71): FAULT fails
it with SCALE_FAULT, MOVING and OVERLOAD note a load, EMPTY after a load fails it with VEHICLE_LEFT unless it is a PLATFORM TARE, and
else it waits. A capture that fails leaves its scale and its ticket, and WEIGH_FAILED goes to the arming port (R75). -/
def presented (sc : Scale) (s : State) : State :=
  let c := s.chan sc
  let fails (k : Capture) (reason : CaptureFailure) : State := { s with
    channels := s.channels.set sc { c with capture := none }
    tickets := match k.ticket with
      | some n => s.tickets.map (fun t => if t.number = n then { t with capture := none } else t)
      | none => s.tickets
    ports := (offerTo k.port (weighFailed sc k reason none s.clock) s).ports }
  match c.capture with
  | none => s
  | some k =>
    if c.state = .fault then fails k .scaleFault
    else if c.state = .moving ∨ c.state = .overload then
      { s with channels := s.channels.set sc { c with capture := some { k with loadSeen := true } } }
    else if c.state = .empty ∧ k.loadSeen = true ∧ ¬ (sc = .p ∧ k.kind = .tare) then fails k .vehicleLeft
    else s

/-! ## Print slots (R144, R148, R153, R165) -/

/-- A job has left its slot: it is free, or the backlog walk has put a job of its own there. -/
abbrev SlotLeft (slot : Nat) (u : State) : Prop :=
  u.job slot = none ∨ ∃ b, u.job slot = some b ∧ b.port = none ∧ b.state = .queued

/-- A slot becomes free and the conditions of the backlog walk are tested (R144, R165); `PrintQueueRequests` states the walk that
the test starts, one examination at a time. -/
def slotFreed (slot : Nat) (s : State) : State := testBacklog { s with jobs := s.jobs.set slot none }

/-- The ports after PRINT_ABANDONED: addressed to the job's port, broadcast to every other OFFICE-role port (R148, R153). -/
def abandonedHeard (slot : Nat) (j : Job) (reason : Nat) (s : State) : PerPort PortCtx :=
  let n : Notice := ⟨.printAbandoned, some (j.receipt.getD 0), be 1 slot ++ be 1 (jobKindCode j.kind) ++ be 1 reason, s.clock⟩
  let port (p : Port) : PortCtx :=
    if j.port = some p then enqueue n (s.port p) else if s.role p = .office then hear n (s.port p) else s.port p
  ⟨port .s0, port .s1, port .s2, port .s3⟩

/-- From `s` to `u` the job in hand leaves the queue: its slot is freed and the backlog walk goes on, the print engine is IDLE, and
nothing else changes; every other job stays. -/
abbrev JobLeaves (slot : Nat) (s u : State) : Prop :=
  SlotLeft slot u ∧ (∀ i k, i ≠ slot → s.job i = some k → u.job i = some k) ∧
  (let freed := slotFreed slot s
   u = { s with
     jobs := freed.jobs, backlog := freed.backlog, ageCounter := freed.ageCounter, free := freed.free
     pe := { s.pe with activity := .idle, job := none, responseTimer := none, tx := [] } })

/-- The job in hand is abandoned for a reason: it leaves the queue, with PRINT_ABANDONED. -/
abbrev JobAbandoned (slot : Nat) (j : Job) (reason : Nat) (s u : State) : Prop :=
  JobLeaves slot { s with ports := abandonedHeard slot j reason s } u

/-! ## The print engine (R146, R157) -/

/-- The ports hear PRINTER_STATE with what a print engine shows (R146, R212). -/
def printerHeard (e : PrintEngine) (s : State) : PerPort PortCtx :=
  (broadcast ⟨.printerState, none, [flagByte [e.pausePaper, e.pauseCover, e.pauseStart], BitVec.ofNat 8 (paperCode e.paper),
    BitVec.ofNat 8 (coverCode e.cover), BitVec.ofNat 8 (linkCode e.link)], s.clock⟩ s).ports

/-- The print engine has become `e`: PRINTER_STATE is offered if the pause causes, the paper, the cover or the link changed
(R146). -/
def printerBecomes (e : PrintEngine) (s : State) : State :=
  let same := e.pausePaper = s.pe.pausePaper ∧ e.pauseCover = s.pe.pauseCover ∧ e.pauseStart = s.pe.pauseStart ∧
    e.paper = s.pe.paper ∧ e.cover = s.pe.cover ∧ e.link = s.pe.link
  { s with pe := e, ports := if same then s.ports else printerHeard e s }

/-- A status byte has ended the wait after the query, and with it the cause START (R157). -/
def queryAnswered (s : State) : State := printerBecomes { s.pe with pauseStart := false, queryTimer := none } s

/-! ## Settlements (R61, R107, R109, R114) -/

/-- What the end of a commit settles in the yard's books. -/
structure Books where
  tickets : List Ticket
  holds : List HoldEntry
  tally : Tally
  snapshot : Option Snapshot

/-- The books of a state. -/
def State.books (s : State) : Books := ⟨s.tickets, s.holds, s.tally, s.snapshot⟩

/-- The ticket that a settlement record names. -/
def Books.ticket (b : Books) (r : Settlement) : Option Ticket :=
  r.ticket.bind (fun n => b.tickets.find? (fun t => t.number == n))

/-- A record ends with a receipt: its ticket is freed, and the tally adds the receipt or the shift is closed (R107); the shift number
stays at its last value and leaves the incomplete flag clear (log 51, DESIGN CHOICE). -/
def Books.completed (clock receipt : Nat) (r : Settlement) (b : Books) : Books :=
  { tickets := match r.ticket with
      | some n => b.tickets.filter (fun t => t.number != n)
      | none => b.tickets
    holds := b.holds
    tally := match r.kind, b.ticket r with
      | .payout, some t => b.tally.addPayout t.lines (t.total.getD 0)
      | .payout, none => b.tally
      | .void, _ => b.tally.addVoid
      | .shift, _ => { Tally.first clock with shift := min 4294967295 (b.tally.shift + 1) }
    snapshot := if r.kind = .shift then some ⟨b.tally, receipt⟩ else b.snapshot }

/-- Whether a COMMITTING ticket returns to PAYABLE: it was PAYABLE before its commit, or HELD with a hold that has expired (R61). -/
def returnsPayable (clock : Nat) (t : Ticket) : Bool :=
  match t.commit with
  | none => false
  | some c => c.before == .payable || (c.before == .held && t.hold.any (fun e => e.expiry ≤ clock))

/-- A record ends without a receipt: its ticket leaves COMMITTING for PAYABLE, or for the state it had, a hold that has not expired
with it (R61). -/
def Books.returned (clock : Nat) (r : Settlement) (b : Books) : Books :=
  match b.ticket r with
  | none => b
  | some t =>
    match t.commit with
    | none => b
    | some c =>
      { b with
        tickets := b.tickets.map (fun u => if u.number = t.number then
          { t with commit := none, state := if returnsPayable clock t then .payable else c.before } else u)
        holds := match t.hold with
          | some e => if c.before = .held ∧ clock < e.expiry then placeHold ⟨t.number, e.expiry⟩ b.holds else b.holds
          | none => b.holds }

/-- A commit whose settlement record is `r` fails, from `f` to `v` (R109, R126): it leaves the commit queue and the settlement list,
its ticket returns, its reserved jobs leave their slots one after another, in the order of the record (log 29, DESIGN CHOICE), with
the backlog walk tested at each (R165) while every other job stays, and its port has MEDIA with the torn numbers. -/
abbrev CommitFails (r : Settlement) (f v : State) : Prop :=
  let b := f.books.returned f.clock r
  let freed := r.jobs.foldl (fun x slot => slotFreed slot x) f
  (∀ slot ∈ r.jobs, SlotLeft slot v) ∧
  (∀ slot j, slot ∉ r.jobs → f.job slot = some j → v.job slot = some j) ∧
  v = { f with
    commitQueue := f.commitQueue.tail, settlements := f.settlements.tail, head := none, tickets := b.tickets, holds := b.holds
    jobs := freed.jobs, backlog := freed.backlog, ageCounter := freed.ageCounter, free := freed.free
    ports := (reply r.port .media (be 4 (r.torn.getD 0 0) ++ be 4 (r.torn.getD 1 0))
      (match f.books.ticket r with
        | some t =>
          if returnsPayable f.clock t then broadcast ⟨.ticketPayable, some t.number, [4#8], f.clock⟩ f else f
        | none => f)).ports }

/-- A record is resolved at a warm start: completed when its receipt number stands, else returned (R65, R114). -/
def Books.resolved (clock : Nat) (stands : Nat → Bool) (b : Books) (r : Settlement) : Books :=
  match r.receipt.filter stands with
  | some n => b.completed clock n r
  | none => b.returned clock r

/-! ## The ring, and what a void and an ended erase bring about (R56, R117, R124) -/

/-- The sectors met walking the ring forward, BAD sectors passed over: from the one after the current sector, which is the FILLING
sector or else the one that holds the newest retained entry, or from sector 0 when there is none (R117). -/
def ringOf (s : State) : List Nat :=
  let walk := match s.sectors.findIdx? (fun c => c.state == .filling), s.newest.bind s.lookup with
    | some i, _ => (List.range 31).map (fun k => (i + 1 + k) % 32)
    | none, some (i, _) => (List.range 31).map (fun k => (i + 1 + k) % 32)
    | none, none => List.range 32
  walk.filter (fun i => (s.sector i).state ≠ .bad)

/-- The ahead run: the ERASED and ERASING sectors that the walk meets first (R117). -/
def aheadOf (s : State) : List Nat :=
  (ringOf s).takeWhile (fun i => (s.sector i).state = .erased ∨ (s.sector i).state = .erasing)

/-- A head commit that waits at step 2 selects its entry again: the next slot of the FILLING sector, or slot 0 of the first sector of
the ahead run when that is ERASED, and the engine is handed its header; or it goes on waiting, and JOURNAL_FULL is set when the wait for
an empty run begins (R124; log 32, DEDUCED). -/
def waitingSelects (u : State) : State :=
  match u.head, u.commitQueue with
  | some h, r :: _ =>
    let selects (i slot : Nat) : State := { u with
      head := some { h with step := .header, sector := i, slot := slot }
      engine := { u.engine with writes := u.engine.writes ++ [.commitStep] } }
    let waits (step : HeadStep) : State := { u with head := some { h with step := step } }
    if h.step ≠ .waitErasing ∧ h.step ≠ .waitEmpty then u
    else match u.sectors.findIdx? (fun c => c.state == .filling), aheadOf u with
      | some i, _ => selects i (u.sector i).used
      | none, i :: _ =>
        if (u.sector i).state = .erased then
          { selects i 0 with
            sectors := u.sectors.set i { u.sector i with state := .filling, first := some h.number, used := 0 } }
        else waits .waitErasing
      | none, [] => if h.step = .waitEmpty then u else setFault .journalFull (.commitKind r.kind) (waits .waitEmpty)
  | _, _ => u

/-- The head commit's attempt begins with the counter's number (R120, R123): the counter rises, or is exhausted at its last value;
the settlement record and the ticket name the number; the entry is built; and its place is selected (R124): the next slot of the
FILLING sector, or slot 0 of the first sector of the ahead run when that is ERASED, which becomes FILLING, and the engine is handed
the header; else the commit waits, and for an empty run JOURNAL_FULL is set. -/
def numbered (q : CommitReq) (attempt : Nat) (w : State) : State :=
  let begun (step : HeadStep) (i slot : Nat) : State :=
    { w with
      counter := if w.counter < 4294967295 then w.counter + 1 else w.counter
      exhausted := decide (4294967295 ≤ w.counter)
      settlements := match w.settlements with
        | [] => []
        | r :: rs => { r with receipt := some w.counter } :: rs
      tickets := match q.ticket with
        | some n => w.tickets.map (fun t => if t.number = n then
            { t with commit := t.commit.map (fun c => { c with receipt := some w.counter }) } else t)
        | none => w.tickets
      head := some ⟨attempt, w.counter, step, i, slot, buildEntry w q w.counter⟩
      engine := { w.engine with writes := w.engine.writes ++ (if step = .header then [.commitStep] else []) } }
  match w.sectors.findIdx? (fun c => c.state == .filling), w.aheadRun with
  | some i, _ => begun .header i (w.sector i).used
  | none, i :: _ =>
    if (w.sector i).state = .erased then
      { begun .header i 0 with
        sectors := w.sectors.set i { w.sector i with state := .filling, first := some w.counter, used := 0 } }
    else begun .waitErasing 0 0
  | none, [] => setFault .journalFull (.commitKind q.kind) (begun .waitEmpty 0 0)

/-- A void fails the capture armed for its ticket: it leaves its scale and the ticket, and WEIGH_FAILED with VOIDED and no weight goes
to the port that armed it (R56, R57, R75, R212). -/
def captureVoided (t : Ticket) (s : State) : State :=
  match t.capture.bind (fun sc => (s.chan sc).capture.map (fun k => (sc, k))) with
  | none => s
  | some (sc, k) => { s with
      channels := s.channels.set sc { s.chan sc with capture := none }
      tickets := s.tickets.map (fun r => if k.ticket = some r.number then { r with capture := none } else r)
      ports := (offerTo k.port ⟨.weighFailed, some (k.ticket.getD 0), be 1 (scaleCode sc) ++ be 1 (captureCode k.kind) ++ [7#8] ++
        List.replicate 4 0xFF#8 ++ sizedOpt k.vehicle, s.clock⟩ s).ports }

/-! ## The start-up scan (R141) -/

/-- The places, sector and slot, of the entries that the scan of some array contents marks TORN: in a sector that is neither the one
whose erase was in progress nor BAD, an entry that reads STARTED, or COMPLETE or PRINTED with a failing body check. -/
def tornPlaces (erasing : Option Nat) (m : Memory) : List (Nat × Nat) :=
  (List.range 32).flatMap (fun i =>
    let entry (k : Nat) := memBytes m (entryAddr i k) 256
    if erasing = some i ∨ ∃ k ∈ List.range 16, (entry k).headD 0xFF#8 = 0x00#8 then []
    else ((List.range 16).filter (fun k =>
      markOf (entry k) = .started ∨ ((markOf (entry k) = .complete ∨ markOf (entry k) = .printed) ∧ ¬ bodyHolds (entry k)))).map
        (fun k => (i, k)))

/-! ## Requests (R176, R210) -/

/-- The port of a command that is a well-formed request frame (R176, R210); none for every other command. -/
def requestPort : Instr → Option Port
  | .openTicket p _ _ => some p
  | .setVehicle p _ _ => some p
  | .setSeller p _ _ => some p
  | .weigh p _ _ _ _ => some p
  | .weighStoreTare p _ _ => some p
  | .cancelWeigh p _ => some p
  | .readScale p _ => some p
  | .zeroScale p _ => some p
  | .restoreScale p _ => some p
  | .calibrate p _ _ _ _ _ _ _ => some p
  | .lockCalibration p _ => some p
  | .scaleSettings p _ _ _ _ _ _ => some p
  | .dockLine p _ _ _ => some p
  | .closeOnStoredTare p _ _ => some p
  | .voidTicket p _ _ => some p
  | .readTicket p _ _ => some p
  | .listTickets p _ => some p
  | .claimTicket p _ => some p
  | .releaseTicket p _ => some p
  | .endHold p _ => some p
  | .extendHold p _ _ => some p
  | .setClock p _ => some p
  | .readClock p => some p
  | .settleTicket p _ => some p
  | .auditThrough p _ => some p
  | .readJournalState p => some p
  | .printReceipt p _ => some p
  | .cancelPrint p _ _ _ => some p
  | .listPrintQueue p => some p
  | .readPrinter p => some p
  | .restorePrinter p => some p
  | .closeShift p => some p
  | .readTally p _ _ => some p
  | .setPrice p _ _ => some p
  | .defineGrade p _ _ _ _ _ => some p
  | .readGrade p _ => some p
  | .deleteTare p _ => some p
  | .readTare p _ => some p
  | .setFilter p _ _ => some p
  | .setRole p _ _ _ _ _ => some p
  | .portEnable p _ => some p
  | .portDisable p _ => some p
  | .readFault p => some p
  | .clearFault p _ _ => some p
  | .setHeader p _ _ => some p
  | .setFirstReceipt p _ _ _ _ _ => some p
  | .enterConfig p => some p
  | .leaveConfig p => some p
  | .storeSettings p => some p
  | _ => none

/-! ## The shape of a state -/

/-- A port context: at most 8 notices wait and the overflow count fits its byte (R184, R187). -/
abbrev PortCtx.Sound (c : PortCtx) : Prop := c.queue.length ≤ 8 ∧ c.overflow ≤ 255

/-- Settings: 64 grades, and three header lines of 32 characters (R26, R200). -/
abbrev Settings.Sound (t : Settings) : Prop :=
  t.grades.length = 64 ∧ t.headers.length = 3 ∧ ∀ l ∈ t.headers, l.length = 32

/-- A sector map: 32 records of 16 marks (R116). -/
abbrev sectorsSound (cs : List Sector) : Prop := cs.length = 32 ∧ ∀ c ∈ cs, c.marks.length = 16

/-- The arrays keep their canonical form, and every table its size. -/
structure ArraysSound (journal : Memory) (cal : PerScale CalArea) : Prop where
  journal : journal.wf = true
  calA : cal.a.slots.wf = true
  calB : cal.b.slots.wf = true
  calP : cal.p.slots.wf = true

/-- Every table has its size (R26, R33, R39, R116, R143, R191, R200). -/
structure TablesSound (settings : Settings) (store : Store) (storeWrite : Option StoreWrite) (tares : List (Option Tare))
    (tickets : List Ticket) (sectors : List Sector) (jobs : List (Option Job)) (faults : List (Option FaultRecord)) :
    Prop where
  settings : settings.Sound
  image : ∀ t, store.image = some t → t.Sound
  staged : ∀ w, storeWrite = some w → w.staged.Sound
  tares : tares.length = 32
  tickets : tickets.length ≤ 48
  sectors : sectorsSound sectors
  jobs : jobs.length = 16
  faults : faults.length = 11

/-- Every notice queue is within its bound (R184, R187). -/
structure PortsSound (ports : PerPort PortCtx) : Prop where
  s0 : ports.s0.Sound
  s1 : ports.s1.Sound
  s2 : ports.s2.Sound
  s3 : ports.s3.Sound

/-- The shape that every step keeps: canonical arrays, tables of their sizes, bounded queues, and a yard clock of 32 bits
(R83). -/
structure State.Sound (s : State) : Prop where
  arrays : ArraysSound s.journal s.cal
  tables : TablesSound s.settings s.store s.storeWrite s.tares s.tickets s.sectors s.jobs s.faults
  ports : PortsSound s.ports
  clock : s.clock ≤ lastSecond

end Sys2Proof.Machine
end

