-- ==== Sys2Proof/Certificates/Slice0/Obligations.lean ====
section
/-! DEFINITION. The statements for the provers. `Taking p s` says that port `p` hands a request to its owner, `taken p s` is the
state that owner meets, and `answered p code data s` is `s` with that request answered at once and nothing else done. -/

open Sys2Proof Sys2Proof.Machine

/-! ## The block -/

/-- A step runs the command at the front of the queue on the state with the queue's rest. -/
def Obligations.StepRunsFront : Prop :=
  ∀ (c : Instr) (cs : List Instr) (s : State), s.pending = c :: cs → step s = exec c { s with pending := cs }

/-- With no command waiting, a step is one millisecond (log 1, DESIGN CHOICE): the timers count it, and at the thousandth the timers
of seconds run down; what reaches its end is put in the queue, the second's CLOCK_ADVANCE with it, and nothing else changes. -/
def Obligations.IdleStepIsAMillisecond : Prop :=
  ∀ s : State, s.pending = [] →
    let second := s.msPhase + 1 = 1000
    let runs := s.powered = true ∧ second
    step s = .next { s with
      msPhase := if second then 0 else s.msPhase + 1
      channels := s.channels.map (fun c => { c with
        silence := if s.powered = true ∧ c.state ≠ .disabled then min 250 (c.silence + 1) else c.silence
        capture := if runs then c.capture.map (fun k => { k with remaining := k.remaining - 1 }) else c.capture })
      tickets := if runs then s.tickets.map (fun t =>
          { t with claim := t.claim.map (fun c => { c with remaining := c.remaining - 1 }) })
        else s.tickets
      jobs := if runs then s.jobs.map (Option.map (fun j =>
          { j with wait := if j.state = .retryWait then j.wait - 1 else j.wait }))
        else s.jobs
      pe := if runs then { s.pe with
          responseTimer := s.pe.responseTimer.map (· - 1), queryTimer := s.pe.queryTimer.map (· - 1) }
        else s.pe
      pending :=
        ([Scale.a, .b, .p].filter (fun sc => s.powered = true ∧ (s.chan sc).state ≠ .disabled ∧
          249 ≤ (s.chan sc).silence)).map .silenceEvent ++
        (if second then [.clockAdvance] else []) ++
        (if runs then
          ([Scale.a, .b, .p].filter (fun sc => ∃ k ∈ (s.chan sc).capture, k.remaining ≤ 1)).map .captureTimeout ++
          (s.tickets.filter (fun t => ∃ c ∈ t.claim, c.remaining ≤ 1)).map (fun t => .claimExpiry (BitVec.ofNat 16 t.number)) ++
          ((List.range 16).filter (fun i => ∃ j ∈ s.job i, j.state = .retryWait ∧ j.wait ≤ 1)).map .retryWait ++
          (if ∃ n ∈ s.pe.responseTimer, n ≤ 1 then [.responseTimeout] else []) ++
          (if ∃ n ∈ s.pe.queryTimer, n ≤ 1 then [.statusQueryTimeout] else [])
        else []) }

/-- Every command answers a next state, no command faults and none is refused (the model's choice: log 31, DEDUCED, and for the
commands of the model's own timers log 2, DESIGN CHOICE); and none touches the queue of waiting commands. -/
def Obligations.CommandsCompleteAndLeaveTheQueue : Prop :=
  (∀ (c : Instr) (s : State), ∃ t, exec c s = .next t) ∧
  (∀ (c : Instr) (s t : State), exec c s = .next t → t.pending = s.pending)

/-- Every step keeps the shape of the state: canonical arrays, tables of their sizes, queues of at most 8 notices, overflow counts
of at most 255 and a yard clock of 32 bits. -/
def Obligations.StepKeepsSound : Prop := ∀ s t : State, s.Sound → step s = .next t → t.Sound

/-- The state after reset has that shape. -/
def Obligations.ResetIsSound : Prop := State.reset.Sound

/-- What reset leaves: the mode, the clock, the counters, the ports and the fault status, the values of the worked example of
section 11.6. That reset is the part right after the first cold start, with no command waiting, is the model's choice (log 4,
DESIGN CHOICE). -/
def Obligations.ResetValues : Prop :=
  State.reset.mode = .run ∧ State.reset.pending = [] ∧ State.reset.clock = 0 ∧ State.reset.clockSet = false ∧
  State.reset.counter = 1 ∧ State.reset.nextTicket = 1 ∧ State.reset.auditMark = 0 ∧ State.reset.space = 0 ∧
  State.reset.tickets = [] ∧ State.reset.holds = [] ∧ State.reset.settlements = [] ∧ State.reset.tares = List.replicate 32 none ∧
  State.reset.jobs = List.replicate 16 none ∧ State.reset.snapshot = none ∧ State.reset.backlog = none ∧
  State.reset.tally.shift = 1 ∧ State.reset.tally.openTime = 0 ∧ State.reset.tally.incomplete = false ∧
  State.reset.sectors.all (fun c => c.state == .blankUnchecked) = true ∧ State.reset.newest = none ∧
  (∀ sc, (State.reset.chan sc).state = .empty ∧ (State.reset.chan sc).weight = none) ∧
  State.reset.role .s0 = .office ∧ State.reset.role .s1 = .scale ∧ State.reset.role .s2 = .window ∧
  State.reset.role .s3 = .view ∧ (State.reset.portSettings .s1).scaleMask = 0b111#3 ∧
  (∀ p, (State.reset.port p).state = .idle ∧ (State.reset.port p).enabled = true ∧ (State.reset.port p).overflow = 0 ∧
    (State.reset.port p).queue.map (·.kind) = [.fault, .fault, .fault, .journalLow, .modeChange]) ∧
  State.reset.faultOutput = true ∧ State.reset.firstFault = some ⟨.retentionLost, .none, 0, true⟩ ∧
  paused State.reset.pe = true ∧ State.reset.pe.link = .normal

/-- State.reset is what a first START, a cold one, leaves of a part without power whose nonvolatile array is blank, whatever stood
in its volatile and retained state (log 4, DESIGN CHOICE). What a start does not touch is carried over: the waiting commands, the
store as it was, the record of the data output (log 47) and the model's own counters; a scale that was in FAULT adds its
SCALE_STATE notice (log 49). -/
def Obligations.ResetIsFirstColdStart : Prop :=
  ∀ (retained sense : Bool) (s : State), s.powered = false → warmStart retained sense s = false → s.journal = [] →
    s.cal = ⟨CalArea.blank, CalArea.blank, CalArea.blank⟩ → s.store.valid = none →
    let left : List Notice := ([Scale.a, .b, .p].filter (fun sc => (s.chan sc).state = .fault)).map (fun sc =>
      ⟨.scaleState, some (scaleCode sc), [1#8, 0#8], 0⟩)
    let port (p : Port) : PortCtx := { PortCtx.reset with
      queue := resetQueue.take 4 ++ left ++ resetQueue.drop 4
      summaryOut := (s.port p).summaryOut, dataOut := (s.port p).dataOut }
    exec (.start retained sense []) s = .next { State.reset with
      store := s.store, ports := ⟨port .s0, port .s1, port .s2, port .s3⟩, pending := s.pending, free := s.free
      msPhase := s.msPhase }

/-! ## Memory -/

/-- The array takes a byte as programmed and changes no other; programming clears bits and sets none, apart from the cells that the
command says did not take or were lost, and outside its range it leaves every byte; its read-back is good when every byte reads as
programmed; an erase blanks its range and no more; and each keeps the canonical form (R116, R123). Bytes that read otherwise at a
read are taken over one by one, and stay so (log 7, DESIGN CHOICE). -/
def Obligations.ArrayOperations : Prop :=
  ∀ (m : Memory) (a : Nat), m.wf = true →
    (∀ v, (memWrite m a v).wf = true ∧ memRead (memWrite m a v) a = v ∧
      ∀ x, x ≠ a → memRead (memWrite m a v) x = memRead m x) ∧
    (∀ bs stuck lost, (memProgram m a bs stuck lost).wf = true ∧
      (∀ x, x < a ∨ a + bs.length ≤ x → memRead (memProgram m a bs stuck lost) x = memRead m x) ∧
      ∀ i, i < bs.length → memRead (memProgram m a bs stuck lost) (a + i) =
        memRead m (a + i) &&& (bs.getD i 0#8 ||| stuck.getD i 0#8) &&& ~~~(lost.getD i 0#8)) ∧
    (∀ n, memBytes m a n = (List.range n).map (fun i => memRead m (a + i))) ∧
    (∀ bs cells,
      let after := memProgram m a bs cells.stuck cells.lost
      (memProgramVerify m a bs cells).1 = after ∧
      ((memProgramVerify m a bs cells).2 = true ↔ memBytes after a bs.length = bs)) ∧
    (∀ n, memDecay m a n [] = m ∧
      ∀ k v d, memDecay m a n ((k, v) :: d) = memDecay (if k < n then memWrite m (a + k) v else m) a n d) ∧
    (∀ bs i, i < bs.length → memRead (memProgram m a bs [] []) (a + i) = memRead m (a + i) &&& bs.getD i 0#8) ∧
    (∀ n, (memErase m a n).wf = true ∧ (∀ x, a ≤ x ∧ x < a + n → memRead (memErase m a n) x = 0xFF#8) ∧
      ∀ x, x < a ∨ a + n ≤ x → memRead (memErase m a n) x = memRead m x)

/-! ## Station ports -/

/-- R178: a request frame on a BUSY port does nothing but set the overrun flag; a READ RESULT that returns a result clears the flag,
as does every start; an immediate read on a BUSY port leaves it. -/
def Obligations.BusyPortDiscardsRequests : Prop :=
  (∀ (c : Instr) (p : Port) (s : State), requestPort c = some p ∨ c = .malformedFrame p → s.powered = true →
    (s.port p).state = .busy →
    exec c s = .next (s.updPort p (fun x => { x with overrun := true, summaryOut := summaryByte x, dataOut := [] }))) ∧
  (∀ (p : Port) (n : Nat) (s : State), s.powered = true → (s.port p).state = .done →
    (resultReply (s.port p)).length ≤ n → ∃ t, exec (.readResult p n) s = .next t ∧ (t.port p).overrun = false) ∧
  (∀ (p : Port) (retained sense : Bool) (decay : List (Nat × Byte)) (s : State),
    ∃ t, exec (.start retained sense decay) s = .next t ∧ (t.port p).overrun = false) ∧
  (∀ (p : Port) (n : Nat) (receipt : Word) (s : State), s.powered = true → (s.port p).state = .busy →
    ∀ c ∈ [Instr.readStatus p n, .readResult p n, .readNotice p n, .readJournal p receipt],
      ∃ t, exec c s = .next t ∧ (t.port p).summaryOut = summaryByte (s.port p) ∧
        (t.port p).overrun = (s.port p).overrun ∧ (t.port p).state = .busy)

/-- R177: a request on a disabled port is answered DISABLED, a malformed frame FORMAT on any port, with no other effect. The state
that a request's owner meets has clocked out the summary byte and 0x00 after it (R176), with the port BUSY and its result buffer
empty; an answer puts the port in DONE with the result; and a request answered at once changes nothing but its port so. -/
def Obligations.DisabledAndMalformed : Prop :=
  (∀ (p q : Port) (f : PortCtx → PortCtx) (s : State), (s.updPort p f).port q = if q = p then f (s.port q) else s.port q) ∧
  (∀ (p : Port) (code : ResultCode) (data : List Byte) (s : State),
    taken p s = s.updPort p (fun c => { c with
      state := .busy, result := none, summaryOut := summaryByte c, dataOut := [] }) ∧
    reply p code data s = s.updPort p (fun c => { c with state := .done, result := some ⟨code, data⟩ }) ∧
    answered p code data s = s.updPort p (fun c => { c with
      state := .done, result := some ⟨code, data⟩, summaryOut := summaryByte c, dataOut := [] })) ∧
  (∀ (c : Instr) (p : Port) (s : State), requestPort c = some p → s.powered = true → (s.port p).state ≠ .busy →
    (s.port p).enabled = false → exec c s = .next (answered p .disabled [] s)) ∧
  (∀ (p : Port) (s : State), s.powered = true → (s.port p).state ≠ .busy →
    exec (.malformedFrame p) s = .next (answered p .format [] s))

/-- Every well-formed request has a frame, and the frame spells that request (R210). What a request's command holds is log 26 and
when it is well formed log 40 (both DESIGN CHOICE). -/
def Obligations.RequestFramesRoundTrip : Prop :=
  ∀ (c : Instr) (p : Port), requestPort c = some p → c.wf = true →
    ∃ bytes, encodeFrame c = some (p, bytes) ∧ decodeFrame p bytes false = some c

/-- READ STATUS puts out the summary byte and the status, and changes nothing else (R180). READ RESULT puts out a DONE port's
result and empties the buffer when its last byte has been clocked out, otherwise the no-result marker, the port state and the
overrun flag (R179). READ NOTICE puts out the oldest notice, which leaves the queue when its last byte has been clocked out; an
empty queue answers the empty code (R188). The 0x00 after a reply is R179's for READ RESULT and for the others log 22, DESIGN
CHOICE. With the bytes themselves: a field is sent most significant byte first, a signed one in two's complement, and an absent one
as 0xFF throughout (R209); a flag byte has bit i for its i-th flag, the summary byte is R210's; a notice has 28 bytes, its kind,
its subject in 4, its detail filled with 0x00 to 19 and its time in 4 (R212); and every enumeration has the codes of R209 to R212,
the notice kinds 1 to 13 in the order of the notice table and the result codes from 0 in R211's order. -/
def Obligations.ImmediateReadsAnswer : Prop :=
  (∀ (w n : Nat) (i : Int) (b : Bool),
    be 0 n = [] ∧ be (w + 1) n = be w (n / 256) ++ [BitVec.ofNat 8 n] ∧
    (-(256 ^ w : Nat) ≤ 2 * i → 2 * i < (256 ^ w : Nat) →
      beInt w i = be w (if i < 0 then i + (256 ^ w : Nat) else i).toNat) ∧
    beOpt w none = List.replicate w 0xFF#8 ∧ beOpt w (some n) = be w n ∧
    beIntOpt w none = List.replicate w 0xFF#8 ∧ beIntOpt w (some i) = beInt w i ∧ flag b = (if b = true then 1#8 else 0#8)) ∧
  (∀ (bs : List Bool) (k : Nat), bs.length ≤ 8 → (flagByte bs).getLsbD k = bs.getD k false) ∧
  (∀ (t : List Byte), sized t = be 1 t.length ++ t ∧ sizedOpt (some t) = sized t ∧ sizedOpt none = [0xFF#8]) ∧
  (∀ c : PortCtx, summaryByte c = BitVec.ofNat 8 (64 * portStateCode c.state + (if c.enabled = true then 32 else 0) +
    (if c.queue = [] then 0 else 16) + (if c.overrun = true then 8 else 0))) ∧
  (∀ (bytes : List Byte) (n : Nat), (clockOut bytes n).length = n ∧
    ∀ k, k < n → (clockOut bytes n)[k]? = some (bytes.getD k 0x00#8)) ∧
  (∀ n : Notice, n.detail.length ≤ 19 →
    noticeBytes n = be 1 (noticeCode n.kind) ++ (match n.subject with | some x => be 4 x | none => List.replicate 4 0xFF#8) ++
      n.detail ++ List.replicate (19 - n.detail.length) 0x00#8 ++ be 4 n.time ∧ (noticeBytes n).length = 28) ∧
  [NoticeKind.weighed, .weighFailed, .claimExpired, .printDone, .auditDone, .printAbandoned, .ticketPayable, .receiptCommitted,
    .scaleState, .printerState, .journalLow, .modeChange, .fault].map noticeCode = [1, 2, 3, 4, 5, 6, 7, 8, 9, 10, 11, 12, 13] ∧
  [ResultCode.ok, .armed, .format, .role, .mode, .disabled, .self, .noTicket, .state, .held, .claimed, .notClaimed, .claimsFull,
    .tableFull, .capturePending, .scaleBusy, .scaleState, .cls, .grade, .linesFull, .weighingsFull, .sellerIdRequired,
    .clockUnset, .range, .order, .noTare, .tareExpired, .journalFull, .queueFull, .media, .auditUnprinted, .tooLate,
    .tallyPending, .locked, .counterSpent].map resultCode = List.range 35 ∧
  ([Mode.starting, .run, .configPending, .config, .storing].map modeCode = [0, 1, 2, 3, 4] ∧
   [Role.view, .scale, .window, .office].map roleCode = [0, 1, 2, 3] ∧
   [PortState.idle, .busy, .done].map portStateCode = [0, 1, 2] ∧
   [Scale.a, .b, .p].map scaleCode = [1, 2, 3] ∧ [Port.s0, .s1, .s2, .s3].map portCode = [0, 1, 2, 3] ∧
   [Class.bridge, .platform].map classCode = [1, 2] ∧
   [CaptureKind.gross, .drop, .tare, .storeTare].map captureCode = [1, 2, 3, 4] ∧
   [ScaleState.disabled, .empty, .moving, .stable, .overload, .fault].map scaleStateCode = [0, 1, 2, 3, 4, 5] ∧
   [BadCause.check, .sequence, .cells, .overRange, .digitizer, .silence].map badCauseCode = [0, 1, 2, 3, 4, 5] ∧
   [Recovery.manual, .auto].map recoveryCode = [0, 1] ∧
   [TicketState.opened, .onYard, .held, .payable, .committing].map ticketStateCode = [0, 1, 2, 3, 4] ∧
   tareSourceCode .weighed = 0 ∧ (∀ w, tareSourceCode (.stored w) = 1) ∧
   [EntryKind.payout, .void, .shift].map entryKindCode = [1, 2, 3] ∧
   [SectorState.blankUnchecked, .erased, .filling, .full, .erasing, .bad].map sectorStateCode = [0, 1, 2, 3, 4, 5] ∧
   [JobKind.original, .duplicate, .voidSlip, .shiftReport, .tally].map jobKindCode = [0, 1, 2, 3, 4] ∧
   [JobState.reserved, .queued, .printing, .retryWait].map jobStateCode = [0, 1, 2, 3] ∧
   [Activity.idle, .fetching, .sending, .awaiting].map activityCode = [0, 1, 2, 3] ∧
   [Paper.ok, .low, .out].map paperCode = [0, 1, 2] ∧ [Cover.closed, .opened].map coverCode = [0, 1] ∧
   [Link.normal, .warn, .offline].map linkCode = [0, 1, 2] ∧
   [FaultKind.scaleFaultA, .scaleFaultB, .scaleFaultP, .printerOffline, .journalFull, .journalMedia, .tornFound, .settingsLost,
     .storeMedia, .retentionLost, .clockUnset].map faultIndex = [0, 1, 2, 3, 4, 5, 6, 7, 8, 9, 10]) ∧
  (∀ (p : Port) (n : Nat) (s : State), s.powered = true →
     exec (.readStatus p n) s = .next (s.updPort p (fun c => { c with
       summaryOut := summaryByte c
       dataOut := clockOut
         (be 1 (modeCode s.mode) ++ [summaryByte c] ++ be 1 (roleCode (s.role p)) ++
           be 1 (s.portSettings p).scaleMask.toNat ++ be 1 c.queue.length ++ be 1 c.overflow ++
           [flagByte [c.overrun, s.dirty, s.clockSet, s.anyFault, s.anyUnmaskedFault, s.faultOutput]]) n }))) ∧
  ((∀ (p : Port) (n : Nat) (s : State) (r : Result), s.powered = true → (s.port p).state = .done →
     (s.port p).result = some r →
     let bytes := be 1 (resultCode r.code) ++ be 1 r.data.length ++ r.data ++ [flag (s.port p).overrun]
     exec (.readResult p n) s = .next (s.updPort p (fun c =>
       if bytes.length ≤ n then
         { c with summaryOut := summaryByte c, dataOut := clockOut bytes n, state := .idle, result := none, overrun := false }
       else { c with summaryOut := summaryByte c, dataOut := clockOut bytes n }))) ∧
   (∀ (p : Port) (n : Nat) (s : State), s.powered = true → (s.port p).state ≠ .done →
     exec (.readResult p n) s = .next (s.updPort p (fun c => { c with
       summaryOut := summaryByte c
       dataOut := clockOut ([0xFF#8] ++ be 1 (portStateCode c.state) ++ [flag c.overrun]) n })))) ∧
  ((∀ (p : Port) (n : Nat) (s : State) (x : Notice) (xs : List Notice), s.powered = true → (s.port p).queue = x :: xs →
     let bytes := noticeBytes x ++ be 1 xs.length ++ be 1 (s.port p).overflow
     exec (.readNotice p n) s = .next (s.updPort p (fun c => { c with
       summaryOut := summaryByte c
       dataOut := clockOut bytes n
       queue := if bytes.length ≤ n then xs else x :: xs }))) ∧
   (∀ (p : Port) (n : Nat) (s : State), s.powered = true → (s.port p).queue = [] →
     exec (.readNotice p n) s = .next (s.updPort p (fun c => { c with
       summaryOut := summaryByte c
       dataOut := clockOut [0x00#8, 0x00#8, BitVec.ofNat 8 c.overflow] n }))))

/-- A broadcast reaches every port: the filter, the coalescing of SCALE_STATE and PRINTER_STATE, and the room are tested in that
order; a full queue drops the notice and counts it (R185 to R187). The filter passes a broadcast when the kind mask has the bit of
its kind (R210), and for SCALE_STATE the scale mask that of its scale, whose code is the subject. An addressed notice enters the
queue of its port whatever the filter. The attention output of a port that takes events is asserted exactly while its queue holds
a notice or it is DONE (R190); without power it is not (R206). -/
def Obligations.BroadcastEntersQueues : Prop :=
  (∀ (s : State) (p : Port),
    s.attention p = true ↔ s.powered = true ∧ ((s.port p).queue ≠ [] ∨ (s.port p).state = .done)) ∧
  ∀ (n : Notice) (s : State) (p : Port),
    let c := s.port p
    let passes := (∀ x ∈ [(NoticeKind.ticketPayable, 0), (.receiptCommitted, 1), (.scaleState, 2), (.printerState, 3),
        (.journalLow, 4), (.modeChange, 5), (.fault, 6), (.printAbandoned, 7)],
        n.kind = x.1 → c.filter.kinds.getLsbD x.2 = true) ∧
      (n.kind = .scaleState → c.filter.scales.getLsbD (n.subject.getD 0 - 1) = true)
    let stands := (n.kind = .scaleState ∧ ∃ m ∈ c.queue, m.kind = .scaleState ∧ m.subject = n.subject) ∨
      (n.kind = .printerState ∧ ∃ m ∈ c.queue, m.kind = .printerState)
    let entered : PortCtx := if c.queue.length < 8 then { c with queue := c.queue ++ [n] }
      else { c with overflow := min 255 (c.overflow + 1) }
    (¬ passes → (broadcast n s).port p = c) ∧
    (passes → stands → (broadcast n s).port p = c) ∧
    (passes → ¬ stands → (broadcast n s).port p = entered) ∧
    (broadcast n s).port p = hear n c ∧ enqueue n c = entered ∧
    (offerTo p n s).port p = entered ∧ (∀ q, q ≠ p → (offerTo q n s).port p = c) ∧
    scaleCode .a = 1 ∧ scaleCode .b = 2 ∧ scaleCode .p = 3

/-- SET FILTER replaces the requesting port's filter and answers with the one before (R189); SET ROLE replaces the named port's
role, scale mask and notice default and answers with the values before (R203); SET HEADER replaces one header line (R204). Scale
mask bits above the three scales are ignored (log 44). -/
def Obligations.PortAndHeaderSettings : Prop :=
  (∀ (p : Port) (kinds scales : Byte) (s : State), Taking p s →
     exec (.setFilter p kinds scales) s = .next (
       if s.mode = .starting then answered p .mode [] s
       else reply p .ok ([(s.port p).filter.kinds] ++ be 1 (s.port p).filter.scales.toNat)
         ((taken p s).updPort p (fun c => { c with filter := ⟨kinds, scales.setWidth 3⟩ })))) ∧
  (∀ (p : Port) (port role scales kinds noticeScales : Byte) (s : State), Taking p s →
     exec (.setRole p port role scales kinds noticeScales) s = .next (
       if s.role p ≠ .office then answered p .role [] s
       else if s.mode ≠ .config then answered p .mode [] s
       else match portOf port, roleOf role with
         | some q, some r =>
           if q = p ∧ r ≠ .office then answered p .self [] s
           else
             let old := s.portSettings q
             reply p .ok (be 1 (roleCode old.role) ++ be 1 old.scaleMask.toNat ++ [old.noticeDefault.kinds] ++
                 be 1 old.noticeDefault.scales.toNat)
               { taken p s with
                 dirty := true
                 settings := { s.settings with
                   ports := s.settings.ports.set q ⟨r, scales.setWidth 3, ⟨kinds, noticeScales.setWidth 3⟩⟩ } }
         | _, _ => answered p .range [] s)) ∧
  (∀ (p : Port) (line : Byte) (text : List Byte) (s : State), Taking p s →
     exec (.setHeader p line text) s = .next (
       if s.role p ≠ .office then answered p .role [] s
       else if s.mode ≠ .config then answered p .mode [] s
       else if line.toNat = 0 ∨ 3 < line.toNat ∨ text.length ≠ 32 ∨ ∃ b ∈ text, b.toNat < 0x20 ∨ 0x7E < b.toNat then
         answered p .range [] s
       else reply p .ok [] { taken p s with
         dirty := true, settings := { s.settings with headers := s.settings.headers.set (line.toNat - 1) text } }))

/-- R183: PORT ENABLE enables the port named and answers with the flag it had; and every start enables every port. -/
def Obligations.PortEnableAnswers : Prop :=
  (∀ (p : Port) (port : Byte) (s : State), Taking p s →
    exec (.portEnable p port) s = .next (
      if s.role p ≠ .office then answered p .role [] s
      else if s.mode = .starting then answered p .mode [] s
      else match portOf port with
        | none => answered p .range [] s
        | some q => reply p .ok [flag (s.port q).enabled] ((taken p s).updPort q (fun c => { c with enabled := true })))) ∧
  (∀ (q : Port) (retained sense : Bool) (decay : List (Nat × Byte)) (s : State),
    ∃ t, exec (.start retained sense decay) s = .next t ∧ (t.port q).enabled = true)

/-- PORT DISABLE refuses in the order of R182; of a port that is enabled it clears the flag, every claim of its own, every capture
it armed, with the capture field of that capture's ticket and a WEIGH_FAILED that enters its own queue (R77), and every DUPLICATE
job of its own that is QUEUED or in RETRY_WAIT (R162), the backlog walk being tested at each slot that is freed (R165); every other
claim, ticket field, port and job stays. Of a disabled one it changes nothing. The captures fail in the order A, B, P, and the
jobs leave in slot order (log 29, DESIGN CHOICE). `u` is the state before the engines take their next work. -/
def Obligations.PortDisableAnswers : Prop :=
  ∀ (p : Port) (port : Byte) (s : State), Taking p s →
    (s.role p ≠ .office → exec (.portDisable p port) s = .next (answered p .role [] s)) ∧
    (s.role p = .office → s.mode = .starting → exec (.portDisable p port) s = .next (answered p .mode [] s)) ∧
    (s.role p = .office → s.mode ≠ .starting → portOf port = none →
      exec (.portDisable p port) s = .next (answered p .range [] s)) ∧
    (s.role p = .office → s.mode ≠ .starting → portOf port = some p →
      exec (.portDisable p port) s = .next (answered p .self [] s)) ∧
    (∀ q, s.role p = .office → s.mode ≠ .starting → portOf port = some q → q ≠ p →
      ((s.port q).enabled = false → exec (.portDisable p port) s = .next (answered p .ok [0#8] s)) ∧
      ((s.port q).enabled = true →
        let armed (sc : Scale) := (s.chan sc).capture.filter (fun k => k.port = q)
        let failed (sc : Scale) (c : PortCtx) : PortCtx := match armed sc with
          | some k => enqueue (weighFailed sc k .portDisabled none s.clock) c
          | none => c
        let freed := (List.range 16).foldl (fun (x : State) slot =>
          if ∃ j ∈ x.job slot, j.kind = .duplicate ∧ j.port = some q ∧ (j.state = .queued ∨ j.state = .retryWait) then
            slotFreed slot x
          else x) (taken p s)
        ∃ u, exec (.portDisable p port) s = .next (settle u) ∧
          u.port q = failed .p (failed .b (failed .a { s.port q with enabled := false })) ∧
          u.port p = { (taken p s).port p with state := .done, result := some ⟨.ok, [1#8]⟩ } ∧
          (∀ r, r ≠ p → r ≠ q → u.port r = s.port r) ∧
          (∀ sc, u.chan sc = { s.chan sc with
            capture := if (armed sc).isSome then none else (s.chan sc).capture }) ∧
          u.tickets = s.tickets.map (fun t => { t with
            claim := t.claim.filter (fun c => c.port ≠ q)
            capture := if ∃ sc ∈ [Scale.a, .b, .p], ∃ k ∈ armed sc, k.ticket = some t.number then none else t.capture }) ∧
          (∀ slot j, slot < 16 → s.job slot = some j →
            if j.kind = .duplicate ∧ j.port = some q ∧ (j.state = .queued ∨ j.state = .retryWait) then SlotLeft slot u
            else u.job slot = some j) ∧
          u = { taken p s with
            channels := u.channels, tickets := u.tickets, ports := u.ports, jobs := freed.jobs, backlog := freed.backlog
            ageCounter := freed.ageCounter, free := freed.free }))

/-! ## The fault status -/

/-- R191: what a setting event does to the status, the notices and the first-fault record. The FAULT output of a part that takes
events is asserted exactly while some kind has its status bit set, is unmasked and has severity STOP (R192); that a clear mask bit
means unmasked is log 28, DEDUCED; without power it is not (R206). A notice carries the detail in 4 bytes (R212): the code of the
last bad cause or of the commit kind, the receipt number or the sector index, 0 for ERR and 1 for TIMEOUT, and 0xFF throughout for
a kind that has none; the code of a STORE_MEDIA detail is not stated (log 17, DESIGN CHOICE). -/
def Obligations.FaultSettingEvent : Prop :=
  (∀ (c : BadCause) (timeout : Bool) (k : EntryKind) (n : Nat) (sc : Scale),
    faultDetailBytes .none = List.replicate 4 0xFF#8 ∧ faultDetailBytes (.badCause c) = be 4 (badCauseCode c) ∧
    faultDetailBytes (.attempt timeout) = be 4 (if timeout = true then 1 else 0) ∧
    faultDetailBytes (.commitKind k) = be 4 (entryKindCode k) ∧ faultDetailBytes (.receipt n) = be 4 n ∧
    faultDetailBytes (.sector n) = be 4 n ∧
    ∀ d ∈ [FaultDetail.calArea sc, .calLock sc, .store, .storeInterrupted], (faultDetailBytes d).length = 4) ∧
  (∀ (k : FaultKind) (s : State), s.masked k = s.settings.faultMasks.getLsbD (faultIndex k)) ∧
  (∀ s : State, s.faultOutput = true ↔ s.powered = true ∧ ∃ k, (s.fault k).isSome = true ∧
    s.settings.faultMasks.getLsbD (faultIndex k) = false ∧ s.settings.faultStops.getLsbD (faultIndex k) = true) ∧
  ∀ (k : FaultKind) (d : FaultDetail) (s : State), s.faults.length = 11 →
    let t := setFault k d s
    t.fault k = some ⟨d, s.clock⟩ ∧ (∀ j, j ≠ k → t.fault j = s.fault j) ∧
    ((s.fault k).isSome = true ∨ s.masked k = true → t.firstFault = s.firstFault ∧ t.ports = s.ports) ∧
    (s.fault k = none → s.masked k = false →
      t.firstFault = (match s.firstFault with
        | none => some ⟨k, d, s.clock, false⟩
        | some r => some { r with more := true }) ∧
      ∀ p, t.port p = hear ⟨.fault, some (faultIndex k), faultDetailBytes d, s.clock⟩ (s.port p)) ∧
    t = { s with faults := t.faults, firstFault := t.firstFault, ports := t.ports }

/-- CLEAR FAULT clears the kinds named, and the first-fault record when its flag is set, and answers with the bits as they stood
(R194). A record flag other than 0 is set (log 45), and bits of the kinds operand above the eleven kinds are ignored (log 44, both
DESIGN CHOICE). -/
def Obligations.ClearFaultAnswers : Prop :=
  ∀ (p : Port) (kinds : Half) (record : Byte) (s : State), Taking p s →
    ∃ t, exec (.clearFault p kinds record) s = .next t ∧
      (s.role p ≠ .office → t = answered p .role [] s) ∧
      (s.role p = .office → s.mode = .starting → t = answered p .mode [] s) ∧
      (s.role p = .office → s.mode ≠ .starting →
        t = reply p .ok (be 2 s.faultBits) { taken p s with faults := t.faults, firstFault := t.firstFault } ∧
        s.faultBits < 2048 ∧ (∀ k, s.faultBits.testBit (faultIndex k) = (s.fault k).isSome) ∧
        t.firstFault = (if record = 0#8 then s.firstFault else none) ∧
        ∀ k, t.fault k = (if kinds.getLsbD (faultIndex k) then none else s.fault k))

/-! ## Modes, the settings and the settings store -/

/-- SET FIRST RECEIPT refuses in the order of R205, else replaces the part settings, sets the dirty flag and answers with the
receipt counter, which takes the new value exactly while no entry is retained (R120, R205); nothing else changes. With no entry
retained the counter is then not exhausted, and journal space, R133's sum, is evaluated in the same event: below 32 with the low
flag clear it sets the flag and offers JOURNAL_LOW, at 32 or more it clears it (log 25, DEDUCED). Bits of the mask and the severity
above the eleven kinds are ignored (log 44, DESIGN CHOICE). -/
def Obligations.SetFirstReceiptAnswers : Prop :=
  ∀ (p : Port) (first : Word) (timeout : Half) (validity : Byte) (masks severities : Half) (s : State), Taking p s →
    let answers (t : State) : Prop := exec (.setFirstReceipt p first timeout validity masks severities) s = .next t
    let inRange := first ≠ 0 ∧ 30 ≤ timeout.toNat ∧ timeout.toNat ≤ 600 ∧ 1 ≤ validity.toNat ∧ validity.toNat ≤ 90
    let replaced : State := { taken p s with
      dirty := true
      settings := { s.settings with
        firstReceipt := first.toNat, claimTimeout := timeout.toNat, tareValidity := validity.toNat
        faultMasks := masks.setWidth 11, faultStops := severities.setWidth 11 } }
    let counted : State := { replaced with counter := first.toNat, exhausted := false }
    let fillingFree : Nat := (s.sectors.find? (fun c => c.state == .filling)).elim 0 (fun c => 16 - c.used)
    let space : Int := fillingFree + 16 * (s.aheadRun.length : Int) - s.commitQueue.length
    (s.role p ≠ .office → answers (answered p .role [] s)) ∧
    (s.role p = .office → s.mode ≠ .config → answers (answered p .mode [] s)) ∧
    (s.role p = .office → s.mode = .config → ¬ inRange → answers (answered p .range [] s)) ∧
    (s.role p = .office → s.mode = .config → inRange →
      (s.newest ≠ none → answers (reply p .ok (be 4 s.counter) replaced)) ∧
      (s.newest = none → answers (reply p .ok (be 4 first.toNat) (
        if 32 ≤ space then { counted with lowFlag := false }
        else if s.lowFlag = true then counted
        else broadcast ⟨.journalLow, none, beInt 2 space, s.clock⟩ { counted with lowFlag := true }))))

/-- ENTER CONFIG enters CONFIG from a drained RUN with the entry effects of R198, CONFIG_PENDING from any other RUN, and leaves the
mode in CONFIG_PENDING and CONFIG; it is refused in STARTING and STORING (R197). The entry zeroes the fault count of every enabled
scale: one in FAULT leaves it EMPTY with no weight and no reference, one in any other state keeps its state, weight and motion (R13,
R25); the link becomes NORMAL (R163). Its notices are MODE_CHANGE, the SCALE_STATE of every scale that left FAULT or lost WARN, and
PRINTER_STATE if the link changed; the scales go in the order A, B, P (log 29), and the overflow counts are set to 0 after those
notices (log 59, both DESIGN CHOICE). The drain test of CONFIG_PENDING has the same effects. A part is drained when no capture is
armed, no commit is queued, in progress or unsettled, no job is PRINTING, no audit pass is open and no store write runs (R197). -/
def Obligations.EnterConfigAnswers : Prop :=
  let entered (s : State) : State :=
    let chan (sc : Scale) : Channel :=
      let c := s.chan sc
      if (s.scaleSettings sc).enabled = false then c
      else if c.state = .fault then
        { c with faultCount := 0, state := .empty, weight := none, w1 := none, reference := none, motion := 0 }
      else { c with faultCount := 0 }
    let told (x : State) (sc : Scale) : State :=
      if (s.scaleSettings sc).enabled = true ∧ ((s.chan sc).state = .fault ∨ 96 ≤ (s.chan sc).faultCount) then
        broadcast ⟨.scaleState, some (scaleCode sc), [BitVec.ofNat 8 (scaleStateCode (chan sc).state), 0#8], s.clock⟩ x
      else x
    let pe := { s.pe with linkErrors := 0, link := .normal }
    let scales := [Scale.a, .b, .p].foldl told
      (broadcast ⟨.modeChange, none, [BitVec.ofNat 8 (modeCode s.mode), 3#8], s.clock⟩ s)
    let heard := if s.pe.link = .normal then scales else offerPrinterState { scales with pe := pe }
    let port (q : Port) : PortCtx := { heard.port q with overflow := 0 }
    { s with
      mode := .config, pe := pe, channels := ⟨chan .a, chan .b, chan .p⟩
      ports := ⟨port .s0, port .s1, port .s2, port .s3⟩ }
  (∀ s : State, s.drained = true ↔ (∀ sc, (s.chan sc).capture = none) ∧ s.commitQueue = [] ∧ s.settlements = [] ∧
    (∀ j, some j ∈ s.jobs → j.state ≠ .printing) ∧ s.pass = none ∧ s.storeWrite = none) ∧
  (∀ s : State, s.mode = .configPending → s.drained = true → drainTest s = entered s) ∧
  ∀ (p : Port) (s : State), Taking p s →
    (s.role p ≠ .office → exec (.enterConfig p) s = .next (answered p .role [] s)) ∧
    (s.role p = .office → s.mode = .starting ∨ s.mode = .storing →
      exec (.enterConfig p) s = .next (answered p .mode [] s)) ∧
    (s.role p = .office → s.mode = .configPending ∨ s.mode = .config →
      exec (.enterConfig p) s = .next (answered p .ok [BitVec.ofNat 8 (modeCode s.mode)] s)) ∧
    (s.role p = .office → s.mode = .run → s.drained = false →
      exec (.enterConfig p) s = .next (reply p .ok [2#8]
        (broadcast ⟨.modeChange, none, [1#8, 2#8], s.clock⟩ { taken p s with mode := .configPending }))) ∧
    (s.role p = .office → s.mode = .run → s.drained = true →
      exec (.enterConfig p) s = .next (reply p .ok [3#8] (entered (taken p s))))

/-- LEAVE CONFIG returns to RUN from CONFIG_PENDING with no store write, goes from CONFIG to STORING with one, and does nothing in
RUN and STORING (R199), each change of mode with its MODE_CHANGE (R196); STORE SETTINGS begins a store write in RUN and is
answered at once (R202). A store write begins with every live price copied, and hands its erase to the program engine (R201). -/
def Obligations.StoreWritesBegin : Prop :=
  let begun (s : State) : State := { s with
    settings := copyPrices s.settings, dirty := false, storeRecord := true, storeWrite := some ⟨copyPrices s.settings, 1⟩
    engine := { s.engine with writes := s.engine.writes ++ [.storeErase] } }
  (∀ t : Settings, copyPrices t = { t with grades := t.grades.map (fun g => { g with stored := g.live }) }) ∧
  (∀ (p : Port) (s : State), Taking p s →
     (s.role p ≠ .office → exec (.leaveConfig p) s = .next (answered p .role [] s)) ∧
     (s.role p = .office → s.mode = .starting → exec (.leaveConfig p) s = .next (answered p .mode [] s)) ∧
     (s.role p = .office → s.mode ≠ .starting →
       ∃ t, exec (.leaveConfig p) s = .next t ∧
         t.mode = (match s.mode with | .configPending => .run | .config => .storing | m => m) ∧
         (t.port p).result = some ⟨.ok, [BitVec.ofNat 8 (modeCode t.mode)]⟩ ∧ (t.port p).state = .done ∧
         t.storeWrite = (if s.mode = .config then some ⟨copyPrices s.settings, 1⟩ else s.storeWrite) ∧
         t.settings = (if s.mode = .config then copyPrices s.settings else s.settings) ∧
         t.dirty = (if s.mode = .config then false else s.dirty) ∧
         t.storeRecord = (if s.mode = .config then true else s.storeRecord) ∧
         t.store = s.store ∧ t.journal = s.journal ∧ t.tickets = s.tickets ∧ t.clock = s.clock ∧
         t = settle (match s.mode with
           | .configPending => reply p .ok [1#8]
               (broadcast ⟨.modeChange, none, [2#8, 1#8], s.clock⟩ { taken p s with mode := .run })
           | .config => reply p .ok [4#8]
               (begun (broadcast ⟨.modeChange, none, [3#8, 4#8], s.clock⟩ { taken p s with mode := .storing }))
           | m => answered p .ok [BitVec.ofNat 8 (modeCode m)] s))) ∧
  (∀ (p : Port) (s : State), Taking p s →
     (s.role p ≠ .office → exec (.storeSettings p) s = .next (answered p .role [] s)) ∧
     (s.role p = .office → s.mode ≠ .run → exec (.storeSettings p) s = .next (answered p .mode [] s)) ∧
     (s.role p = .office → s.mode = .run → s.storeWrite.isSome = true →
       exec (.storeSettings p) s = .next (answered p .state [] s)) ∧
     (s.role p = .office → s.mode = .run → s.storeWrite = none →
       ∃ t, exec (.storeSettings p) s = .next t ∧ (t.port p).result = some ⟨.ok, []⟩ ∧ (t.port p).state = .done ∧
         t.settings = copyPrices s.settings ∧ t.dirty = false ∧ t.storeRecord = true ∧
         t.storeWrite = some ⟨copyPrices s.settings, 1⟩ ∧ t.mode = .run ∧ t.store = s.store ∧ t.journal = s.journal ∧
         t.tickets = s.tickets ∧ t.clock = s.clock ∧ t = settle (begun (answered p .ok [] s))))

/-- The three operations of a store write (R201): after a good one the next is handed to the engine, after all three the store is
valid and holds the staged image, the record is cleared and STORING becomes RUN, with its MODE_CHANGE (R196); a failed read-back
hands the erase to the engine once more, and the second failure ends the write. Between two operations the free engine takes one
waiting operation by R127, a PRINTED or an audit mark among them (R202); that it takes one, and that the next operation, and the
erase made once more, then begins to wait within the event that ends the one before, is log 57, DESIGN CHOICE. -/
def Obligations.StoreWriteSteps : Prop :=
  ∀ (good : Bool) (w : StoreWrite) (s : State), s.powered = true → s.storeWrite = some w → s.faults.length = 11 →
    ∀ x ∈ [(EngineOp.storeErase, Instr.storeErase good, (⟨none, false⟩ : Store), some WriteReq.storeImage),
        (.storeImage, .storeImageProgram good, ⟨if good then some w.staged else none, false⟩, some .storeMark),
        (.storeMark, .storeValidMark good, ⟨s.store.image, good⟩, none)],
      s.engine.current = some x.1 →
      let done : State := { s with store := x.2.2.1, engine := { s.engine with current := none } }
      let handed (q : WriteReq) (v : State) : State :=
        let u := settle v
        { u with engine := { u.engine with writes := u.engine.writes ++ [q] } }
      let ended (v : State) : State :=
        let v := { v with storeWrite := none, storeRecord := false }
        if s.mode = .storing then broadcast ⟨.modeChange, none, [4#8, 1#8], s.clock⟩ { v with mode := .run } else v
      exec x.2.1 s = .next (settle (
        if good then (match x.2.2.2 with
          | some q => handed q done
          | none => ended done)
        else if w.attempt = 1 then handed .storeErase { done with storeWrite := some { w with attempt := 2 } }
        else ended (setFault .storeMedia .store { done with dirty := true }))) ∧
      ∃ t, exec x.2.1 s = .next t ∧ t.store = x.2.2.1 ∧ t.journal = s.journal ∧ t.settings = s.settings ∧
        t.tickets = s.tickets ∧ t.clock = s.clock ∧
        (good = true → x.1 ≠ .storeMark →
          t.storeWrite = some w ∧ t.storeRecord = s.storeRecord ∧ t.dirty = s.dirty ∧ t.faults = s.faults) ∧
        (good = true → x.1 = .storeMark →
          t.storeWrite = none ∧ t.storeRecord = false ∧ t.dirty = s.dirty ∧ t.faults = s.faults ∧
          (s.mode = .storing ∨ s.mode = .run → t.mode = .run)) ∧
        (good = false → w.attempt = 1 → t.storeWrite = some { w with attempt := 2 } ∧ t.storeRecord = s.storeRecord) ∧
        (good = false → w.attempt ≠ 1 →
          t.storeWrite = none ∧ t.storeRecord = false ∧ t.dirty = true ∧ t.fault .storeMedia = some ⟨.store, s.clock⟩ ∧
          (s.mode = .storing ∨ s.mode = .run → t.mode = .run))

/-- A loss of the main supply and a low RESET_N complete in every state: they take the power away, and the part then takes no
event but the clock's, the power's and a start (R206). An array operation in hand ends as it stands in the array, by the reach the
command gives (`cut`; what is left is log 6, DESIGN CHOICE), and nothing else changes: a commit step in the bytes of its step, a
PRINTED mark in its entry's status byte and print time, an AUDITED mark in its status byte, an erase in its sector, a calibration
record in its slot, a lock in its byte, a store operation in the store; a read or a blank check changes no byte, and neither does
a suspended erase, nor a store write whose erase still waits (log 69, DESIGN CHOICE). -/
def Obligations.PowerLost : Prop :=
  (∀ (cut : Cells) (s : State),
     (s.powered = false ∨ s.engine.current = none →
       exec (.mainSupplyLoss cut) s = .next { s with supply := false, lostSupply := true } ∧
       exec (.resetNLow cut) s = .next { s with resetHigh := false }) ∧
     (s.powered = true →
       let leaves (u : State) : Prop :=
         exec (.mainSupplyLoss cut) s = .next { u with
           engine := { s.engine with current := none }, supply := false, lostSupply := true } ∧
         exec (.resetNLow cut) s = .next { u with engine := { s.engine with current := none }, resetHigh := false }
       let mark (m : Memory) (a : Nat) (b : Byte) : Memory := memProgram m a [b] cut.stuck cut.lost
       (∀ h, s.engine.current = some .commitStep → s.head = some h →
         let a := entryAddr h.sector h.slot + (stepBytes h).1
         let j := memProgram s.journal a (stepBytes h).2 cut.stuck cut.lost
         leaves { s with journal := j } ∧ (s.journal.wf = true →
           ∀ y, y < a ∨ a + (stepBytes h).2.length ≤ y → memRead j y = memRead s.journal y)) ∧
       (∀ again m ms i slot, s.engine.current = some (.printedMark again) → s.pendingMarks = m :: ms →
         s.lookup m.receipt = some (i, slot) →
         let a := entryAddr i slot
         let j := memProgram (mark s.journal a 0x1F#8) (a + 12) (be 4 m.time) (cut.stuck.drop 1) (cut.lost.drop 1)
         leaves { s with journal := j } ∧ (s.journal.wf = true →
           ∀ y, y ≠ a → y < a + 12 ∨ a + 16 ≤ y → memRead j y = memRead s.journal y)) ∧
       (∀ again q i slot, s.engine.current = some (.auditMark again) → s.pass = some q → s.unaudited q.next = some (i, slot) →
         let j := mark s.journal (entryAddr i slot) 0x77#8
         leaves { s with journal := j } ∧ (s.journal.wf = true →
           ∀ y, y ≠ entryAddr i slot → memRead j y = memRead s.journal y)) ∧
       (∀ e, s.engine.current = some .erase → s.engine.erase = some e →
         let a := 4096 * e.sector
         let j := cutErase a cut s.journal
         leaves { s with journal := j } ∧ (s.journal.wf = true → ∀ y, memRead j y =
           if a ≤ y ∧ y < a + 4096 then memRead s.journal y ||| cut.stuck.getD (y - a) 0#8 else memRead s.journal y)) ∧
       (∀ sc p r, s.engine.current = some (.calRecord sc) → s.calJobs.get sc = some (.record p r) →
         let area := s.cal.get sc
         let a := 32 * ((s.chan sc).nextSlot - 1)
         let slots := memProgram area.slots a (calBytes r) cut.stuck cut.lost
         leaves { s with cal := s.cal.set sc { area with slots := slots } } ∧ (area.slots.wf = true →
           ∀ y, y < a ∨ a + (calBytes r).length ≤ y → memRead slots y = memRead area.slots y)) ∧
       (∀ sc, s.engine.current = some (.calLock sc) →
         let area := s.cal.get sc
         leaves { s with cal := s.cal.set sc { area with
           lock := area.lock &&& cut.stuck.headD 0#8 &&& ~~~(cut.lost.headD 0#8) } }) ∧
       (s.engine.current = some .storeErase ∨ s.engine.current = some .storeImage →
         leaves { s with store := ⟨none, false⟩ }) ∧
       (s.engine.current = some .storeMark →
         leaves { s with store := ⟨s.store.image, decide (cut = Cells.good)⟩ }) ∧
       ((∀ again, s.engine.current ≠ some (.printedMark again) ∨
           s.pendingMarks.head?.bind (fun m => s.lookup m.receipt) = none) →
         (∀ again, s.engine.current ≠ some (.auditMark again) ∨ s.pass.bind (fun q => s.unaudited q.next) = none) →
         (s.engine.current ≠ some .commitStep ∨ s.head = none) → (s.engine.current ≠ some .erase ∨ s.engine.erase = none) →
         (∀ sc, s.engine.current ≠ some (.calRecord sc) ∨ ∀ p r, s.calJobs.get sc ≠ some (.record p r)) →
         (∀ sc, s.engine.current ≠ some (.calLock sc)) →
         (∀ x ∈ [EngineOp.storeErase, .storeImage, .storeMark], s.engine.current ≠ some x) → leaves s))) ∧
  (∀ (c : Instr) (s : State), s.powered = false → c ≠ .clockAdvance → (∀ cut, c ≠ .mainSupplyLoss cut) →
     (∀ cut, c ≠ .resetNLow cut) → (∀ r e d, c ≠ .start r e d) → exec c s = .next s)

/-- A start ends in RUN with every port IDLE and enabled, no stream, no commit and no audit pass; a warm one keeps the clock, the
settings and the tares, a cold one sets them to their cold-start values (R175, R206 to R208). It is warm exactly when the retained
check holds and, after a loss of the main supply, the sense line reads the backup supply (R207); a loss is remembered until the
next start, so the line counts also when the supply returned while RESET_N was low and the release of RESET_N begins the start
(log 54, DESIGN CHOICE). A cold start takes the image of a store whose valid mark stands, each live price from its stored price,
else the defaults of R200. Every channel reads its calibration area: the slots used are those not blank, the counter counts the
records whose check holds, the live calibration is the one of highest sequence, and the lock is set when its location is not blank
(R19); a slot's check value holds when bytes 20 and 21 are the sum of its bytes 0 to 19, and the record has R216's layout; the
zero offset is kept by a warm start and 0 after a cold one (R23, R24). Apart from TORN_FOUND, a warm start keeps the fault status
and adds STORE_MEDIA when a store write was interrupted, and a cold one leaves RETENTION_LOST, CLOCK_UNSET and, with an invalid
store, SETTINGS_LOST (R195, R201). -/
def Obligations.StartCompletes : Prop :=
  (∀ (retained sense : Bool) (s : State),
    warmStart retained sense s = true ↔ retained = true ∧ (s.lostSupply = true → sense = true)) ∧
  (∀ bs : List Byte, bs.length = 32 →
    let b (i : Nat) := (bs.getD i 0#8).toNat
    let sum := ((List.range 20).map b).sum
    let word (i : Nat) := 256 * b i + b (i + 1)
    let long (i : Nat) := 65536 * word i + word (i + 2)
    let zero : Int := if long 1 < 2 ^ 31 then long 1 else long 1 - 2 ^ 32
    (word 20 = sum % 65536 →
      calRecordOf bs = some ⟨b 0, zero, 256 * word 5 + b 7, [word 8, word 10, word 12, word 14], long 16⟩) ∧
    (word 20 ≠ sum % 65536 → calRecordOf bs = none)) ∧
  (∀ (st : Store) (t : Settings),
    st.valid = (if st.marked = true then st.image else none) ∧
    loadImage t = { t with grades := t.grades.map (fun g => { g with live := g.stored }) }) ∧
  (Settings.default.grades = List.replicate 64 ⟨false, List.replicate 8 0x20#8, false, false, 0, 0, 0⟩ ∧
    Settings.default.ports.s0.role = .office ∧ Settings.default.ports.s1.role = .scale ∧
    Settings.default.ports.s2.role = .window ∧ Settings.default.ports.s3.role = .view ∧
    Settings.default.ports.s1.scaleMask = 0b111#3 ∧
    (∀ p, (Settings.default.ports.get p).noticeDefault = ⟨0xFF#8, 0b111#3⟩) ∧
    (∀ sc, Settings.default.scales.get sc = ⟨true, 10, 45, 10, .manual⟩) ∧
    Settings.default.claimTimeout = 180 ∧ Settings.default.tareValidity = 30 ∧
    Settings.default.headers = List.replicate 3 (List.replicate 32 0x20#8) ∧ Settings.default.firstReceipt = 1 ∧
    (∀ k, Settings.default.faultMasks.getLsbD (faultIndex k) = false) ∧
    (∀ k, Settings.default.faultStops.getLsbD (faultIndex k) = true ↔
      k ∈ [FaultKind.printerOffline, .journalFull, .journalMedia, .settingsLost, .storeMedia])) ∧
  ∀ (retained sense : Bool) (decay : List (Nat × Byte)) (s : State),
    ∃ t, exec (.start retained sense decay) s = .next t ∧ t.mode = .run ∧ t.powered = true ∧ t.lostSupply = false ∧
      t.commitQueue = [] ∧
      t.head = none ∧ t.settlements = [] ∧ t.pass = none ∧ t.scanned = true ∧ t.storeWrite = none ∧
      t.pe.pauseStart = true ∧ t.pe.sent = [0x05#8] ∧
      (∀ p, (t.port p).state = .idle ∧ (t.port p).enabled = true ∧ (t.port p).result = none ∧
        (t.port p).overrun = false ∧ (t.port p).stream = none ∧ (t.port p).filter = (t.portSettings p).noticeDefault) ∧
      (∀ sc, (t.chan sc).weight = none ∧ (t.chan sc).capture = none ∧ (t.chan sc).faultCount = 0 ∧
        (t.chan sc).motion = 0 ∧ ((t.chan sc).state = .empty ∨ (t.chan sc).state = .disabled)) ∧
      (∀ u ∈ t.tickets, u.claim = none ∧ u.capture = none) ∧
      (warmStart retained sense s = true →
        t.clock = s.clock ∧ t.clockSet = s.clockSet ∧ t.settings = s.settings ∧ t.tares = s.tares ∧
        t.nextTicket = s.nextTicket) ∧
      (warmStart retained sense s = false →
        t.clock = 0 ∧ t.clockSet = false ∧ t.tares = List.replicate 32 none ∧ t.tickets = [] ∧ t.holds = [] ∧
        t.nextTicket = 1 ∧ t.snapshot = none ∧ t.dirty = false ∧
        t.settings = (match s.store.valid with | some i => loadImage i | none => Settings.default)) ∧
      (∀ sc,
        let area := s.cal.get sc
        let slot (i : Nat) := memBytes area.slots (32 * i) 32
        let used := (List.range 64).filter (fun i => (slot i).any (fun b => b != 0xFF#8))
        let valid := used.filterMap (fun i => calRecordOf (slot i))
        let c := t.chan sc
        c.slotsUsed = used.length ∧ c.calCounter = valid.length ∧ (c.calLocked = true ↔ area.lock ≠ 0xFF#8) ∧
        (valid = [] → c.live = none) ∧
        (valid ≠ [] → ∃ r ∈ valid, c.live = some r ∧ ∀ r' ∈ valid, r'.sequence ≤ r.sequence) ∧
        c.zeroOffset = (if warmStart retained sense s = true then (s.chan sc).zeroOffset else 0) ∧
        c.state = (if (t.scaleSettings sc).enabled then .empty else .disabled)) ∧
      t.cal = s.cal ∧ t.store = s.store ∧ t.storeRecord = false ∧
      (warmStart retained sense s = true →
        (∀ k, k ≠ .tornFound → k ≠ .storeMedia → t.fault k = s.fault k) ∧
        (s.faults.length = 11 → t.fault .storeMedia =
          if s.storeRecord then some ⟨.storeInterrupted, s.clock⟩ else s.fault .storeMedia)) ∧
      (warmStart retained sense s = false → ∀ k, k ≠ .tornFound → t.fault k =
        if k = .retentionLost ∨ k = .clockUnset ∨ (k = .settingsLost ∧ s.store.valid = none) then some ⟨.none, 0⟩ else none)

/-! ## Scale channels -/

/-- R6: the reported weight is the multiple of the division nearest to W1, half way up. With the constants of R1: A and B are of class
BRIDGE, P of class PLATFORM; the division is 200 units on a bridge and 2 on the platform, the capacity 600,000 and 15,000, and the
minimum load 20 divisions (R73). -/
def Obligations.ReportedWeightRounds : Prop :=
  (∀ (sc : Scale) (w : Int), (∃ k : Int, reported sc w = k * division sc) ∧
    2 * (reported sc w - w) ≤ division sc ∧ 2 * (w - reported sc w) < division sc) ∧
  division .a = 200 ∧ division .b = 200 ∧ division .p = 2 ∧
  capacity .a = 600000 ∧ capacity .b = 600000 ∧ capacity .p = 15000 ∧ (∀ sc, minimumLoad sc = 20 * division sc) ∧
  scaleClass .a = .bridge ∧ scaleClass .b = .bridge ∧ scaleClass .p = .platform ∧
  classDivision .bridge = 200 ∧ classDivision .platform = 2 ∧
  reported .a 328899 = 328800 ∧ reported .a 328900 = 329000 ∧ reported .a (-100) = 0

/-- A good frame on an enabled channel leaves the channel of `frameChannel`: the fault count falls by 1; a scale that stays in
FAULT takes no weight (R11, R13); without a live calibration the scale is EMPTY with no weight (R5); else the weight is the
rounded W1, which becomes the reference, motion and state follow (R6 to R8), and zero tracking moves the zero offset by W1 (R15;
that the W1 is then used up is log 13, DESIGN CHOICE). With no capture armed nothing else changes but for the SCALE_STATE notice
of R10; `u` is the state before the drain test of R198. The calibrated weight is R5's: the sum of each count times its trim, less
10,000 times the zero sum, times the span, divided by 655,360,000 with the fraction dropped toward minus infinity. -/
def Obligations.GoodFrameMakesAWeight : Prop :=
  (∀ (cal : CalRecord) (c1 c2 c3 c4 : Int) (t1 t2 t3 t4 : Nat),
    let floors (net w : Int) : Prop := 655360000 * w ≤ net * cal.span ∧ net * cal.span < 655360000 * (w + 1)
    (cal.trims = [t1, t2, t3, t4] →
      floors (c1 * t1 + c2 * t2 + c3 * t3 + c4 * t4 - 10000 * cal.zeroSum) (calibratedWeight cal [c1, c2, c3, c4])) ∧
    (cal.trims.head? = some t1 → floors (c1 * t1 - 10000 * cal.zeroSum) (calibratedWeight cal [c1]))) ∧
  ∀ (sc : Scale) (bytes : List RxByte) (s : State), GoodFrameArrives sc bytes s →
    ∃ u, exec (.digitizerFrame sc bytes) s = .next (drainTest u) ∧
      { u.chan sc with capture := none } = frameChannel sc bytes s ∧
      (∀ sc', sc' ≠ sc → u.chan sc' = s.chan sc') ∧
      u = { s with
        channels := u.channels, tickets := u.tickets, tares := u.tares, holds := u.holds, ports := u.ports, free := u.free } ∧
      ((s.chan sc).capture = none → u = { s with
        channels := s.channels.set sc (frameChannel sc bytes s), ports := scaleHeard sc (frameChannel sc bytes s) s })

/-- The faults of a digitizer frame in the order of the tests of R3 (a frame with a framing error and a cell count outside 1 to 4
records CELLS: log 53, DESIGN CHOICE): a frame that fails none is good; the sequence reference that a frame leaves, one above its
own number modulo 16 when it passed tests 1 and 2, and else absent (R3); and the motion count of R7, which rises by 1, at most to
255, when the reference is present and within one division, and else is 0. The fields of a whole frame are R213's: the sequence
number in bits 0 to 3 of the second byte, the cell count in the third, a signed 24-bit count for each cell, the flags over-range and
digitizer, and the check byte, the sum modulo 256 from the sequence byte to the flags byte. -/
def Obligations.FrameTestsAndMotion : Prop :=
  (∀ (frame : List RxByte),
     let b (i : Nat) := (frame.getD i ⟨0#8, false⟩).value
     let n := (b 2).toNat
     let f := parseFrame frame
     f.count = n ∧ (f.framing = true ↔ ∃ x ∈ frame, x.framingError = true) ∧ (frame.length = 5 + 3 * n →
       f.sequence = (b 1).toNat % 16 ∧ f.counts = (List.range n).map (fun i =>
         (b (3 + 3 * i) ++ b (4 + 3 * i) ++ b (5 + 3 * i)).toInt) ∧
       f.overRange = (b (3 + 3 * n)).getLsbD 0 ∧ f.digitizer = (b (3 + 3 * n)).getLsbD 1 ∧
       (f.sumHolds = true ↔
         (b (4 + 3 * n)).toNat = ((List.range (3 + 3 * n)).map (fun i => (b (1 + i)).toNat)).sum % 256))) ∧
  (∀ (sc : Scale) (ref : Option Nat) (f : DigitizerFrame),
     frameFault sc ref f =
       (if f.count = 0 ∨ 4 < f.count then some .cells
       else if f.framing = true ∨ f.sumHolds = false then some .check
       else if f.count ≠ cellCount sc then some .cells
       else if ref.isSome = true ∧ ref ≠ some f.sequence then some .sequence
       else if f.overRange = true then some .overRange
       else if f.digitizer = true then some .digitizer
       else none) ∧
     nextReference f = (if 1 ≤ f.count ∧ f.count ≤ 4 ∧ f.framing = false ∧ f.sumHolds = true then
       some ((f.sequence + 1) % 16) else none) ∧
     cellCount .a = 4 ∧ cellCount .b = 4 ∧ cellCount .p = 1) ∧
  (∀ (sc : Scale) (c : Channel) (w : Int),
     (∀ r, c.reference = some r → (w - r).natAbs ≤ division sc → nextMotion sc c w = min 255 (c.motion + 1)) ∧
     (∀ r, c.reference = some r → division sc < (w - r).natAbs → nextMotion sc c w = 0) ∧
     (c.reference = none → nextMotion sc c w = 0))

/-- A bad frame, whole or in pieces, and a silence event on an enabled channel: no weight, motion 0, no reference, STABLE becomes
MOVING, the fault count rises by 8 to at most 255, and the scale enters FAULT at 128 (R4, R9, R11, R12); the sequence reference is
one above the frame's number, modulo 16, when it passed tests 1 and 2 of R3, and else absent, as after a silence event. The event
offers SCALE_STATE if the state or WARN changed, then on the entry into FAULT sets the scale's fault bit, and then presents the
state to the capture (R10, R12, R71); nothing else changes but for the drain test of R198. A channel that is DISABLED discards the
bytes and has no silence event (R2, R17). A SILENCE_EVENT takes effect whatever the silence timer of an enabled channel holds (log
2, DESIGN CHOICE). -/
def Obligations.BadFrameEvents : Prop :=
  (∀ (sc : Scale) (bytes : List RxByte) (cause : BadCause) (s : State), s.powered = true → (s.chan sc).state ≠ .disabled →
    let f := parseFrame (wholeFrame sc bytes s)
    let next : Option Nat :=
      if 1 ≤ f.count ∧ f.count ≤ 4 ∧ f.framing = false ∧ f.sumHolds = true then some ((f.sequence + 1) % 16) else none
    ∀ x ∈ [(Instr.digitizerFrame sc bytes, next), (.silenceEvent sc, none)],
      (x.1 = .silenceEvent sc → cause = .silence) →
      (x.1 = .digitizerFrame sc bytes → BadFrameArrives sc bytes cause s) →
      let c := s.chan sc
      let n := min 255 (c.faultCount + 8)
      let enters := c.state ≠ .fault ∧ 128 ≤ n
      let bad : Channel := { c with
        lastBad := some cause, motion := 0, reference := none, faultCount := n, seqRef := x.2, silence := 0, rx := []
        weight := if enters then none else c.weight
        w1 := if enters then none else c.w1
        state := if enters then .fault else if c.state = .stable then .moving else c.state }
      let heard : State := { s with channels := s.channels.set sc bad, ports := scaleHeard sc bad s }
      exec x.1 s = .next (drainTest (presented sc (
        if enters then setFault (scaleFaultKind sc) (.badCause cause) heard else heard)))) ∧
  (∀ (sc : Scale) (bytes : List RxByte) (s : State), s.powered = true → (s.chan sc).state = .disabled →
    exec (.digitizerFrame sc bytes) s = .next (drainTest s) ∧ exec (.silenceEvent sc) s = .next s)

/-- RESTORE SCALE: the fault count becomes 0 and a scale in FAULT leaves it, its fault bit as it was (R13, R14), with SCALE_STATE
when the state or WARN changed, and the state is presented to the capture (R10). ZERO SCALE: its seven checks in order, the sixth
that the weight is not above the empty limit, the limit's divisions times the scale's division, and the motion count at least the
settle count, and the zero offset that makes the present reading 0 (R16; that the W1 is then used up is log 13, DESIGN CHOICE). -/
def Obligations.RestoreAndZeroScale : Prop :=
  (∀ (p : Port) (scale : Byte) (s : State), Taking p s →
     (s.maskAdmits p scale = false → exec (.restoreScale p scale) s = .next (answered p .role [] s)) ∧
     (s.maskAdmits p scale = true → s.mode = .starting →
       exec (.restoreScale p scale) s = .next (answered p .mode [] s)) ∧
     (s.maskAdmits p scale = true → s.mode ≠ .starting → scaleOf scale = none →
       exec (.restoreScale p scale) s = .next (answered p .range [] s)) ∧
     (∀ sc, s.maskAdmits p scale = true → s.mode ≠ .starting → scaleOf scale = some sc →
       ((s.chan sc).state = .disabled → exec (.restoreScale p scale) s = .next (answered p .scaleState [] s)) ∧
       ((s.chan sc).state ≠ .disabled →
         let c := s.chan sc
         let restored : Channel := if c.state = .fault then
             { c with faultCount := 0, state := .empty, weight := none, w1 := none, reference := none, motion := 0 }
           else { c with faultCount := 0 }
         exec (.restoreScale p scale) s = .next (drainTest (presented sc (reply p .ok [] { taken p s with
           channels := s.channels.set sc restored, ports := scaleHeard sc restored (taken p s) })))))) ∧
  (∀ (p : Port) (scale : Byte) (s : State), Taking p s →
     exec (.zeroScale p scale) s = .next (
       if s.maskAdmits p scale = false then answered p .role [] s
       else if s.mode = .starting then answered p .mode [] s
       else match scaleOf scale with
         | none => answered p .range [] s
         | some sc =>
           let c := s.chan sc
           if c.state = .disabled ∨ c.state = .fault ∨ c.weight = none then answered p .scaleState [] s
           else if c.capture ≠ none then answered p .scaleBusy [] s
           else if (∃ w ∈ c.weight, ((s.scaleSettings sc).empty * division sc : Int) < w) ∨
               c.motion < (s.scaleSettings sc).settle then answered p .scaleState [] s
           else if (capacity sc : Int) < 50 * (c.zeroOffset + c.w1.getD 0) ∨
               50 * (c.zeroOffset + c.w1.getD 0) < -(capacity sc : Int) then answered p .range [] s
           else reply p .ok [] ((taken p s).updChan sc (fun c =>
             { c with zeroOffset := c.zeroOffset + c.w1.getD 0, weight := some 0, w1 := some 0 }))))

/-- SCALE SETTINGS replaces all five settings; a scale that is switched off becomes DISABLED with its volatile state cleared, one
that is switched on EMPTY with no weight, and either offers SCALE_STATE; one that is not switched is left as it is (R17). The
state is presented to the capture (R10). -/
def Obligations.ScaleSettingsAnswers : Prop :=
  ∀ (p : Port) (scale enable settle timeout empty recovery : Byte) (s : State), Taking p s →
    let inRange := enable.toNat ≤ 1 ∧ (3 ≤ settle.toNat ∧ settle.toNat ≤ 20) ∧ (10 ≤ timeout.toNat ∧ timeout.toNat ≤ 120) ∧
      (1 ≤ empty.toNat ∧ empty.toNat ≤ 50) ∧ recovery.toNat ≤ 1
    let cfg : ScaleSettings :=
      ⟨enable == 1#8, settle.toNat, timeout.toNat, empty.toNat, if recovery = 0#8 then .manual else .auto⟩
    (s.role p ≠ .office →
      exec (.scaleSettings p scale enable settle timeout empty recovery) s = .next (answered p .role [] s)) ∧
    (s.role p = .office → s.mode ≠ .config →
      exec (.scaleSettings p scale enable settle timeout empty recovery) s = .next (answered p .mode [] s)) ∧
    (s.role p = .office → s.mode = .config → (scaleOf scale = none ∨ ¬ inRange) →
      exec (.scaleSettings p scale enable settle timeout empty recovery) s = .next (answered p .range [] s)) ∧
    (∀ sc, s.role p = .office → s.mode = .config → scaleOf scale = some sc → inRange →
      let c := s.chan sc
      let was := (s.scaleSettings sc).enabled
      let switched : Channel :=
        if was = true ∧ enable = 0#8 then
          { c with state := .disabled, weight := none, w1 := none, reference := none, motion := 0, faultCount := 0, seqRef := none
                   silence := 0, rx := [] }
        else if was = false ∧ enable = 1#8 then { c with state := .empty, weight := none, w1 := none, silence := 0, rx := [] }
        else c
      exec (.scaleSettings p scale enable settle timeout empty recovery) s =
        .next (presented sc (reply p .ok [] { taken p s with
          settings := { s.settings with scales := s.settings.scales.set sc cfg }, dirty := true
          channels := s.channels.set sc switched, ports := scaleHeard sc switched (taken p s) })))

/-- CALIBRATE and LOCK CALIBRATION refuse in the order of R20 and R22; accepted, they hand their write to the program engine and
keep the port BUSY. A write of the scale that is accepted and still waits for the engine counts as being programmed (log 67,
DESIGN CHOICE). -/
def Obligations.CalibrationRequests : Prop :=
  ∀ (p : Port) (scale : Byte) (zeroSum : Word) (span : Tri) (t1 t2 t3 t4 : Half) (s : State), Taking p s →
    let trims := [t1.toNat, t2.toNat, t3.toNat, t4.toNat]
    exec (.calibrate p scale zeroSum span t1 t2 t3 t4) s = .next (
      if s.role p ≠ .office then answered p .role [] s
      else if s.mode ≠ .config then answered p .mode [] s
      else match scaleOf scale with
        | none => answered p .range [] s
        | some sc =>
          if span = 0 ∨ ∃ t ∈ trims.take (cellCount sc), t < 9000 ∨ 11000 < t then answered p .range [] s
          else if (s.chan sc).calLocked then answered p .locked [] s
          else if 64 ≤ (s.chan sc).slotsUsed then answered p .counterSpent [] s
          else if s.clockSet = false then answered p .clockUnset [] s
          else if s.calJobs.get sc ≠ none then answered p .state [] s
          else settle ({ taken p s with
            calJobs := s.calJobs.set sc
              (some (.record p ⟨(s.chan sc).calCounter + 1, zeroSum.toInt, span.toNat, trims, s.clock⟩)) }.queueWrite
                (.calRecord sc))) ∧
    exec (.lockCalibration p scale) s = .next (
      if s.role p ≠ .office then answered p .role [] s
      else if s.mode ≠ .config then answered p .mode [] s
      else match scaleOf scale with
        | none => answered p .range [] s
        | some sc =>
          if (s.chan sc).calLocked then answered p .locked [] s
          else if (s.chan sc).calCounter = 0 then answered p .state [] s
          else if s.calJobs.get sc ≠ none then answered p .state [] s
          else settle ({ taken p s with calJobs := s.calJobs.set sc (some (.lock p)) }.queueWrite (.calLock sc)))

/-- The end of a calibration write: a slot that reads back as programmed makes its record live, zeroes the offset, takes the
weight, the reference and the motion away, offers SCALE_STATE if the state changed, presents the state to the capture and answers
OK with the counter (R10, R20); a lock location that reads non-blank sets the lock and answers OK; anything else answers MEDIA,
sets STORE_MEDIA and leaves the channel as it is, its slots used with it (R20 to R22). The slot in programming is the one before
the channel's next, which was the next blank one when the programming began (log 33, DEDUCED). Nothing else changes before the
engine takes its next work and the drain is tested. The 22 bytes of a record are R216's: the sequence, the zero sum in 4 bytes,
signed, the span in 3, four trims of 2, the yard time in 4, and as check the sum of those 20 bytes in 2. -/
def Obligations.CalibrationWritesEnd : Prop :=
  (∀ (r : CalRecord) (t1 t2 t3 t4 : Nat), r.trims = [t1, t2, t3, t4] →
    let fields := be 1 r.sequence ++ beInt 4 r.zeroSum ++ be 3 r.span ++ be 2 t1 ++ be 2 t2 ++ be 2 t3 ++ be 2 t4 ++ be 4 r.time
    calBytes r = fields ++ be 2 ((fields.map BitVec.toNat).sum % 65536) ∧ (calBytes r).length = 22) ∧
  ∀ (sc : Scale) (cells : Cells) (p : Port) (r : CalRecord) (s : State), s.powered = true →
    let area := s.cal.get sc
    let programmed (a : CalArea) : State := { s with
      cal := s.cal.set sc a, calJobs := s.calJobs.set sc none, engine := { s.engine with current := none } }
    (s.engine.current = some (.calRecord sc) → s.calJobs.get sc = some (.record p r) →
      let c := s.chan sc
      let after := memProgramVerify area.slots (32 * (c.nextSlot - 1)) (calBytes r) cells
      let u := programmed { area with slots := after.1 }
      let live : Channel := { c with
        calCounter := c.calCounter + 1, live := some r, zeroOffset := 0, weight := none, w1 := none, reference := none
        motion := 0, state := match c.state with | .fault => .fault | .disabled => .disabled | _ => .empty }
      (after.2 = true → exec (.calibrationRecordWritten sc cells) s = .next (settle (reply p .ok (be 1 (c.calCounter + 1))
        (presented sc { u with channels := s.channels.set sc live, ports := scaleHeard sc live s })))) ∧
      (after.2 = false → exec (.calibrationRecordWritten sc cells) s = .next (settle
        (reply p .media [] (setFault .storeMedia (.calArea sc) u))))) ∧
    (s.engine.current = some (.calLock sc) → s.calJobs.get sc = some (.lock p) →
      let b := area.lock &&& (cells.stuck.headD 0#8) &&& ~~~(cells.lost.headD 0#8)
      let u := programmed { area with lock := b }
      (b ≠ 0xFF#8 → exec (.calibrationLockWritten sc cells) s = .next (settle
        (reply p .ok [] (u.updChan sc (fun c => { c with calLocked := true }))))) ∧
      (b = 0xFF#8 → exec (.calibrationLockWritten sc cells) s = .next (settle
        (reply p .media [] (setFault .storeMedia (.calLock sc) u)))))

/-! ## Weighing a load -/

/-- WEIGH refuses in the order of R68, else arms the capture of R70 on the scale, names it in the ticket and answers ARMED; of kind
STORE_TARE it refuses in the order of R69, else arms a capture that names the vehicle and no ticket. With the operands: the codes
of scales, ports, roles and kinds (R209 to R211); an ID of printable characters; a scale in the mask of a SCALE port (R181); a claim
that names another port (R43); a line for the grade or room for one of eight; and a close that meets a restricted grade (R27). -/
def Obligations.WeighArmsACapture : Prop :=
  (∀ b : Byte,
    (∀ sc, scaleOf b = some sc ↔ b.toNat = scaleCode sc) ∧ (∀ p, portOf b = some p ↔ b.toNat = portCode p) ∧
    (∀ r, roleOf b = some r ↔ b.toNat = roleCode r) ∧
    (∀ k, weighKindOf b = some k ↔ b.toNat = captureCode k ∧ k ≠ .storeTare)) ∧
  (∀ (lo hi : Nat) (text : List Byte), idOk lo hi text = true ↔
    lo ≤ text.length ∧ text.length ≤ hi ∧ ∀ b ∈ text, 0x20 ≤ b.toNat ∧ b.toNat ≤ 0x7E) ∧
  (∀ (p : Port) (scale : Byte) (s : State), s.maskAdmits p scale = true ↔ s.role p = .office ∨
    (s.role p = .scale ∧ ∃ sc, scaleOf scale = some sc ∧ (s.portSettings p).scaleMask.getLsbD (scaleCode sc - 1) = true)) ∧
  (∀ (p : Port) (t : Ticket), claimedByOther p t = true ↔ ∃ c, t.claim = some c ∧ c.port ≠ p) ∧
  (∀ (t : Ticket) (g : Nat), lineFits t g = true ↔ (∃ l ∈ t.lines, l.grade = g) ∨ t.lines.length < 8) ∧
  (∀ (s : State) (t : Ticket) (g : Nat),
    (s.ticketRestricted t = true ↔ ∃ l ∈ t.lines, (s.grade l.grade).restricted = true) ∧
    (restrictedClose s t g = true ↔ (s.grade g).restricted = true ∨ ∃ l ∈ t.lines, (s.grade l.grade).restricted = true)) ∧
  (∀ (p : Port) (scale kind : Byte) (n : Half) (grade : Byte) (s : State), Taking p s →
     exec (.weigh p scale kind n grade) s = .next (
       if s.maskAdmits p scale = false then answered p .role [] s
       else if s.mode ≠ .run then answered p .mode [] s
       else match scaleOf scale, weighKindOf kind with
         | some sc, some k =>
           let g := grade.toNat
           let named := k = .drop ∨ k = .tare
           if named ∧ (g = 0 ∨ 64 < g) then answered p .range [] s
           else onTicket p n s (fun t =>
             if claimedByOther p t then answered p .claimed [] s
             else if (k = .gross ∧ t.state ≠ .opened) ∨ (k ≠ .gross ∧ t.state ≠ .onYard) then answered p .state [] s
             else if t.capture ≠ none then answered p .capturePending [] s
             else if scaleClass sc ≠ t.cls then answered p .cls [] s
             else if (s.chan sc).capture ≠ none then answered p .scaleBusy [] s
             else if (s.chan sc).state = .disabled ∨ (s.chan sc).state = .fault ∨ (s.chan sc).live = none then
               answered p .scaleState [] s
             else if (if k = .drop then 9 else 10) ≤ t.weighings.length then answered p .weighingsFull [] s
             else if named ∧ ¬ ((s.grade g).defined ∧ (s.grade g).active) then answered p .grade [] s
             else if named ∧ lineFits t g = false then answered p .linesFull [] s
             else if k = .tare ∧ restrictedClose s t g ∧ t.seller = none then answered p .sellerIdRequired [] s
             else if k = .tare ∧ restrictedClose s t g ∧ s.clockSet = false then answered p .clockUnset [] s
             else
               let capture : Capture := ⟨k, some t.number, none, if named then some g else none, p, s.clock,
                 (s.scaleSettings sc).timeout, (s.chan sc).state == .moving || (s.chan sc).state == .overload⟩
               reply p .armed [] (((taken p s).updChan sc (fun c => { c with capture := some capture })).updTicket t.number
                 (fun r => { r with capture := some sc })))
         | _, _ => answered p .range [] s)) ∧
  (∀ (p : Port) (scale : Byte) (vehicle : List Byte) (s : State), Taking p s →
     exec (.weighStoreTare p scale vehicle) s = .next (
       if s.maskAdmits p scale = false then answered p .role [] s
       else if s.mode ≠ .run then answered p .mode [] s
       else match scaleOf scale with
         | none => answered p .range [] s
         | some sc =>
           if idOk 1 10 vehicle = false then answered p .range [] s
           else if (s.chan sc).capture ≠ none then answered p .scaleBusy [] s
           else if (s.chan sc).state = .disabled ∨ (s.chan sc).state = .fault ∨ (s.chan sc).live = none then
             answered p .scaleState [] s
           else
             let capture : Capture := ⟨.storeTare, none, some vehicle, none, p, s.clock, (s.scaleSettings sc).timeout,
               (s.chan sc).state == .moving || (s.chan sc).state == .overload⟩
             reply p .armed [] ((taken p s).updChan sc (fun c => { c with capture := some capture }))))

/-- CANCEL WEIGH by the arming port or the office, and a capture timeout, end the capture: it is removed with its ticket's capture
field, and WEIGH_FAILED goes to the arming port (R75, R76, R78). CAPTURE_TIMEOUT does so whatever its remaining count is (log 2,
DESIGN CHOICE). In CONFIG_PENDING the end of the capture is an event that tests the drain (R198). The notice names the ticket or 0,
and carries the scale, the kind, the reason, 1 to 9 in R75's order, the weight or its absent marker, and the vehicle ID or its
absent marker (R212). -/
def Obligations.CapturesEnd : Prop :=
  (∀ (sc : Scale) (k : Capture) (r : CaptureFailure) (w : Option Int) (time : Nat),
    weighFailed sc k r w time = ⟨.weighFailed, some (k.ticket.getD 0),
      be 1 (scaleCode sc) ++ be 1 (captureCode k.kind) ++ be 1 (failureCode r) ++ beIntOpt 4 w ++ sizedOpt k.vehicle, time⟩) ∧
  [CaptureFailure.timeout, .vehicleLeft, .scaleFault, .cancelled, .order, .belowMin, .voided, .portDisabled,
    .tareTableFull].map failureCode = [1, 2, 3, 4, 5, 6, 7, 8, 9] ∧
  (∀ (p : Port) (scale : Byte) (s : State), Taking p s →
    (s.maskAdmits p scale = false → exec (.cancelWeigh p scale) s = .next (answered p .role [] s)) ∧
    (s.maskAdmits p scale = true → s.mode = .starting → exec (.cancelWeigh p scale) s = .next (answered p .mode [] s)) ∧
    (s.maskAdmits p scale = true → s.mode ≠ .starting → scaleOf scale = none →
      exec (.cancelWeigh p scale) s = .next (answered p .range [] s)) ∧
    (∀ sc, s.maskAdmits p scale = true → s.mode ≠ .starting → scaleOf scale = some sc →
      ((s.chan sc).capture = none → exec (.cancelWeigh p scale) s = .next (answered p .state [] s)) ∧
      (∀ k, (s.chan sc).capture = some k →
        (k.port ≠ p → s.role p ≠ .office → exec (.cancelWeigh p scale) s = .next (answered p .role [] s)) ∧
        (k.port = p ∨ s.role p = .office →
          exec (.cancelWeigh p scale) s = .next (drainTest (reply p .ok
            (be 1 (captureCode k.kind) ++ (match k.vehicle with | some v => sized v | none => beOpt 2 k.ticket))
            (offerTo k.port (weighFailed sc k .cancelled none s.clock) (removeCapture sc k (taken p s))))))))) ∧
  (∀ (sc : Scale) (s : State), s.powered = true →
    exec (.captureTimeout sc) s = .next (drainTest (match (s.chan sc).capture with
      | none => s
      | some k => offerTo k.port (weighFailed sc k .timeout none s.clock) (removeCapture sc k s)))) ∧
  (∀ (sc : Scale) (k : Capture) (s : State), ((removeCapture sc k s).chan sc).capture = none ∧
    (∀ n, k.ticket = some n → ∀ t, (removeCapture sc k s).ticket n = some t → t.capture = none) ∧
    removeCapture sc k s = { s with
      channels := s.channels.set sc { s.chan sc with capture := none }
      tickets := match k.ticket with
        | some n => s.tickets.map (fun t => if t.number = n then { t with capture := none } else t)
        | none => s.tickets })

/-! ## Tickets -/

/-- OPEN TICKET refuses in the order of R45, else opens a ticket with the next number and answers with it; that number is the first
from the counter on that no ticket carries, 9999 being followed by 1 (R40). -/
def Obligations.OpenTicketAnswers : Prop :=
  (∀ (p : Port) (cls : Byte) (vehicle : List Byte) (s : State), Taking p s →
     exec (.openTicket p cls vehicle) s = .next (
       if s.role p ≠ .scale ∧ s.role p ≠ .office then answered p .role [] s
       else if s.mode ≠ .run then answered p .mode [] s
       else if (cls ≠ 1#8 ∧ cls ≠ 2#8) ∨ idOk 0 10 vehicle = false then answered p .range [] s
       else if 48 ≤ s.tickets.length then answered p .tableFull [] s
       else
         let t : Ticket := ⟨s.openNumber, .opened, if cls = 1#8 then .bridge else .platform, p, s.clock,
           if vehicle = [] then none else some vehicle, none, [], [], none, none, none, none, none, none, none⟩
         reply p .ok (be 2 s.openNumber) { taken p s with
           tickets := s.tickets ++ [t], nextTicket := if s.openNumber = 9999 then 1 else s.openNumber + 1 })) ∧
  (∀ s : State, 1 ≤ s.nextTicket → s.nextTicket ≤ 9999 → s.tickets.length ≤ 47 →
     ∃ k, k ≤ 47 ∧ s.openNumber = (s.nextTicket - 1 + k) % 9999 + 1 ∧ s.ticket s.openNumber = none ∧
       ∀ j, j < k → s.ticket ((s.nextTicket - 1 + j) % 9999 + 1) ≠ none)

/-- SET VEHICLE, SET SELLER and DOCK LINE refuse in the order of R46, R47 and R50, else change that field or dock weight of the
ticket and nothing else; DOCK LINE answers with the line's payable weight. -/
def Obligations.TicketChanges : Prop :=
  ((∀ (p : Port) (n : Half) (vehicle : List Byte) (s : State), Taking p s →
     exec (.setVehicle p n vehicle) s = .next (
       if s.role p ≠ .scale ∧ s.role p ≠ .office then answered p .role [] s
       else if s.mode = .starting then answered p .mode [] s
       else if idOk 0 10 vehicle = false then answered p .range [] s
       else onTicket p n s (fun t =>
         if claimedByOther p t then answered p .claimed [] s
         else if t.state ≠ .opened ∧ t.state ≠ .onYard then answered p .state [] s
         else reply p .ok [] ((taken p s).updTicket t.number
           (fun r => { r with vehicle := if vehicle = [] then none else some vehicle }))))) ∧
   (∀ (p : Port) (n : Half) (seller : List Byte) (s : State), Taking p s →
     exec (.setSeller p n seller) s = .next (
       if s.role p = .view then answered p .role [] s
       else if s.mode = .starting then answered p .mode [] s
       else if idOk 1 16 seller = false then answered p .range [] s
       else onTicket p n s (fun t =>
         if claimedByOther p t then answered p .claimed [] s
         else if t.state = .committing then answered p .state [] s
         else reply p .ok [] ((taken p s).updTicket t.number (fun r => { r with seller := some seller })))))) ∧
  (∀ (p : Port) (n : Half) (grade : Byte) (dock : Word) (s : State), Taking p s →
     exec (.dockLine p n grade dock) s = .next (
       if s.role p ≠ .scale ∧ s.role p ≠ .office then answered p .role [] s
       else if s.mode = .starting then answered p .mode [] s
       else if grade.toNat = 0 ∨ 64 < grade.toNat then answered p .range [] s
       else onTicket p n s (fun t =>
         if claimedByOther p t then answered p .claimed [] s
         else if t.state ≠ .onYard then answered p .state [] s
         else match lineOf t grade.toNat with
           | none => answered p .grade [] s
           | some l =>
             if l.net < dock.toNat ∨ dock.toNat % classDivision t.cls ≠ 0 then answered p .range [] s
             else reply p .ok (be 4 (l.net - dock.toNat)) ((taken p s).updTicket t.number (fun r =>
               { r with lines := r.lines.map (fun x => if x.grade = grade.toNat then { x with dock := dock.toNat } else x) })))))

/-- CLOSE ON STORED TARE refuses in the order of R54; accepted, `closeStored` gives the whole next state: the ticket is closed on
the stored tare, HELD with its hold in the list when a restricted line brings hold hours, else PAYABLE with TICKET_PAYABLE (R44,
R51 to R53), and the port is DONE with the state, the total and the expiry (the presence flag is log 15; an expiry past 32 bits is
a free value, log 14, both DESIGN CHOICE). With what is attributed to a grade (R49), the amount of a line (R52), the weight of the
last weighing, and the hold hours, the largest among the restricted lines' grades and 0 without one (R53). -/
def Obligations.StoredTareClose : Prop :=
  (∀ (p : Port) (n : Half) (grade : Byte) (s : State), Taking p s →
     let g := grade.toNat
     exec (.closeOnStoredTare p n grade) s = .next (
       if s.role p ≠ .scale ∧ s.role p ≠ .office then answered p .role [] s
       else if s.mode ≠ .run then answered p .mode [] s
       else if g = 0 ∨ 64 < g then answered p .range [] s
       else onTicket p n s (fun t =>
         if claimedByOther p t then answered p .claimed [] s
         else if t.state ≠ .onYard then answered p .state [] s
         else if t.capture ≠ none then answered p .capturePending [] s
         else match t.vehicle with
           | none => answered p .noTare [] s
           | some v =>
             match (s.tareSlot v).bind s.tareAt with
             | none => answered p .noTare [] s
             | some e =>
               if e.cls ≠ t.cls then answered p .noTare [] s
               else if e.time + s.settings.tareValidity * 86400 ≤ s.clock then answered p .tareExpired [] s
               else if lastWeight t < e.weight + classDivision t.cls then answered p .order [] s
               else if ¬ ((s.grade g).defined ∧ (s.grade g).active) then answered p .grade [] s
               else if lineFits t g = false then answered p .linesFull [] s
               else if restrictedClose s t g ∧ t.seller = none then answered p .sellerIdRequired [] s
               else if restrictedClose s t g ∧ s.clockSet = false then answered p .clockUnset [] s
               else closeStored p t g e.weight (taken p s))) ∧
     (∀ (t : Ticket) (tare : Int), s.ticket n.toNat = some t →
       let net := attributeWeight g (lastWeight t - tare).toNat t.lines
       let lines := net.map (priceLine s)
       let total := (lines.map (fun l => l.amount.getD 0)).sum
       let hours := holdHours s net
       let closed : Ticket := { t with
         lines := lines, tareSource := some (.stored tare), closedTime := some s.clock, total := some total }
       let put (x : Ticket) := s.tickets.map (fun y => if y.number = t.number then x else y)
       (hours = 0 → closeStored p t g tare (taken p s) = reply p .ok
         ([flagByte [t.hold.isSome]] ++ [3#8] ++ be 4 total ++ beOpt 4 (t.hold.map (·.expiry)))
         (broadcast ⟨.ticketPayable, some t.number, [1#8], s.clock⟩
           { taken p s with tickets := put { closed with state := .payable } })) ∧
       (0 < hours → ∃ expiry free, (s.clock + hours * 3600 < 2 ^ 32 → expiry = s.clock + hours * 3600 ∧ free = s.free) ∧
         closeStored p t g tare (taken p s) = reply p .ok ([flagByte [true]] ++ [2#8] ++ be 4 total ++ be 4 expiry)
           { taken p s with
             tickets := put { closed with state := .held, hold := some ⟨expiry, false⟩ }
             holds := placeHold ⟨t.number, expiry⟩ s.holds, free := free }))) ∧
  ((∀ (g w : Nat) (ls : List Line), (∀ l ∈ ls, l.grade ≠ g) → attributeWeight g w ls = ls ++ [⟨g, w, 0, none, none⟩]) ∧
   (∀ (g w : Nat) (ls : List Line), (∃ l ∈ ls, l.grade = g) →
     attributeWeight g w ls = ls.map (fun l => if l.grade = g then { l with net := l.net + w } else l)) ∧
   (∀ (s : State) (l : Line), priceLine s l =
     { l with price := some (s.grade l.grade).live, amount := some ((l.net - l.dock) * (s.grade l.grade).live / 100) }) ∧
   (∀ t : Ticket, (t.weighings = [] → lastWeight t = 0) ∧ ∀ ws w, t.weighings = ws ++ [w] → lastWeight t = w.weight) ∧
   (∀ (s : State) (ls : List Line),
     (∀ l ∈ ls, (s.grade l.grade).restricted = true → (s.grade l.grade).holdHours ≤ holdHours s ls) ∧
     (holdHours s ls = 0 ∨ ∃ l ∈ ls, (s.grade l.grade).restricted = true ∧ holdHours s ls = (s.grade l.grade).holdHours)))

/-! ## Reads of one request: nothing changes but the port's own context -/

/-- READ TICKET, LIST TICKETS, READ CLOCK, READ JOURNAL STATE, LIST PRINT QUEUE, READ PRINTER, READ FAULT, READ SCALE and READ
TALLY answer in every mode but STARTING and change nothing else (R62, R63, R85, R140, R161, R193, R18, R172), but for the index of
the free values, which a weight outside 32 bits uses (log 14). LIST TICKETS lists in ascending order of ticket number. Their data
hold the fields of these rules in their order, each at R211's width, and take the lengths given here; a LIST TICKETS item is
packed as R211 has it. Where R211 leaves a place open: the presence flags and the absent markers are log 15, the shared flag byte
of READ JOURNAL STATE log 16, READ TALLY's widths and the code of its further read log 34, the four bytes of a fault's detail log
61, a blank check reported as the erase in progress log 65, the retry wait of a job outside RETRY_WAIT log 66, and LIST TICKETS
ignores the bits of its selection above the five states, log 44 (all DESIGN CHOICE). -/
def Obligations.ReadRequestsAnswer : Prop :=
  (∀ (s : State) (t : Ticket),
    let head := be 1 (ticketStateCode t.state) ++ be 1 (classCode t.cls) ++ be 2 t.number
    ticketPart0 s t = [flagByte [t.closedTime.isSome, t.hold.isSome]] ++ head ++ be 1 (portCode t.openedBy) ++ be 4 t.openedTime ++
      sizedOpt t.vehicle ++ sizedOpt t.seller ++ beOpt 1 (t.tareSource.map tareSourceCode) ++
      beIntOpt 4 (match t.tareSource with | some (.stored w) => some w | _ => none) ++ beOpt 4 t.closedTime ++ beOpt 4 t.total ++
      [flag (s.ticketRestricted t)] ++ beOpt 4 (t.hold.map (·.expiry)) ++ beOpt 1 (t.hold.map (fun h => h.endedEarly.toNat)) ++
      beOpt 1 (t.claim.map (fun c => portCode c.port)) ++ beOpt 2 (t.claim.map (·.remaining)) ++
      beOpt 1 (t.capture.map scaleCode) ++ beOpt 1 (t.commit.map (fun c => entryKindCode c.kind)) ++
      beOpt 1 (t.commit.bind (·.reason)) ++ beOpt 1 (t.commit.map (fun c => portCode c.port)) ++
      beOpt 1 (t.commit.map (fun c => ticketStateCode c.before)) ++ be 4 ((t.commit.bind (·.receipt)).getD 0) ++
      be 1 t.weighings.length ++ t.lines.flatMap (fun l =>
        be 1 l.grade ++ be 4 l.net ++ be 4 l.dock ++ beOpt 3 l.price ++ beOpt 4 l.amount) ∧
    (ticketPart0 s t).length =
      42 + (t.vehicle.elim 1 (·.length + 1)) + (t.seller.elim 1 (·.length + 1)) + 16 * t.lines.length ∧
    ticketPart1 t = head ++ t.weighings.flatMap (fun w => be 1 (scaleCode w.scale) ++ be 1 (captureCode w.kind) ++
      beInt 4 w.weight ++ be 4 w.time ++ beOpt 1 w.grade) ∧
    (ticketPart1 t).length = 4 + 11 * t.weighings.length ∧
    listItem s t = be 2 t.number ++
      be 1 (ticketStateCode t.state + 8 * (if t.cls = .platform then 1 else 0) + 16 * (s.ticketRestricted t).toNat) ++
      be 1 (t.claim.elim 7 (fun c => portCode c.port) + 16 * t.capture.elim 0 scaleCode) ∧
    (listItem s t).length = 4) ∧
  (∀ s : State, s.ticketsInOrder.Perm s.tickets ∧ s.ticketsInOrder.Pairwise (fun t u => t.number ≤ u.number)) ∧
  (∀ s : State,
    let first := s.holds.head?
    clockData s = [flagByte [first.isSome]] ++ be 4 s.clock ++ [flag s.clockSet] ++ be 1 s.holds.length ++
      beOpt 4 (first.map (·.expiry)) ++ beOpt 2 (first.map (·.ticket)) ++
      [Port.s0, .s1, .s2, .s3].flatMap (fun p => be 1 (s.claimsHeld p)) ++ be 2 s.settings.claimTimeout ∧
    (clockData s).length = 19 ∧
    (let step (h : Head) : Nat := match h.step with | .header => 3 | .body => 4 | .complete => 5 | _ => 2
     journalData s = be 4 s.counter ++ [flagByte [s.exhausted, s.lowFlag, s.engine.erase.any (·.suspended)]] ++
       be 4 s.auditMark ++ be 4 (s.oldest.getD 0) ++ be 4 (s.newest.getD 0) ++ beInt 2 s.space ++ be 1 s.commitQueue.length ++
       be 4 ((s.head.map (·.number)).getD 0) ++ beOpt 1 (s.head.map step) ++ beOpt 1 (s.head.map (·.attempt)) ++
       s.sectors.flatMap (fun c => be 1 (sectorStateCode c.state) ++ be 4 (c.first.getD 0) ++ be 1 c.used) ++
       beOpt 1 (s.engine.erase.map (·.sector)) ++ beOpt 1 (s.engine.erase.map (·.count)) ++
       be 4 ((s.pass.map (·.target)).getD 0) ++ be 4 ((s.pass.map (·.next)).getD 0) ++
       beOpt 1 (s.pass.map (fun q => portCode q.port)) ++ be 1 s.pendingMarks.length ++
       [Port.s0, .s1, .s2, .s3].flatMap (fun p => be 4 ((s.port p).stream.getD 0))) ∧
    (s.sectors.length = 32 → (journalData s).length = 246) ∧
    (let jobs := (List.range 16).filterMap (fun slot => (s.job slot).map (fun j => (slot, j)))
     queueData s = be 1 s.freeSlots ++ jobs.flatMap (fun x =>
       be 1 x.1 ++ be 1 (jobKindCode x.2.kind) ++ be 4 (x.2.receipt.getD 0) ++ beOpt 1 (x.2.port.map portCode) ++
       be 1 (jobStateCode x.2.state) ++ be 1 x.2.attempts ++ [flag x.2.restarted] ++ be 4 x.2.age ++
       (if x.2.state = .retryWait then be 1 x.2.wait else [0xFF#8])) ∧
     (queueData s).length = 1 + 15 * jobs.length) ∧
    (let count (st : JobState) := (s.jobs.filter (fun k => ∃ j ∈ k, j.state = st)).length
     printerData s = be 1 (activityCode s.pe.activity) ++ beOpt 1 s.pe.job ++
       [flag (s.pe.pausePaper || s.pe.pauseCover || s.pe.pauseStart)] ++
       [flagByte [s.pe.pausePaper, s.pe.pauseCover, s.pe.pauseStart]] ++ be 1 (paperCode s.pe.paper) ++
       be 1 (coverCode s.pe.cover) ++ be 1 s.pe.linkErrors ++ be 1 (linkCode s.pe.link) ++
       [JobState.reserved, .queued, .printing, .retryWait].flatMap (fun st => be 1 (count st)) ++
       be 4 ((s.backlog.map (·.next)).getD 0) ++ be 4 ((s.backlog.map (·.last)).getD 0)) ∧
    (printerData s).length = 20 ∧
    faultPresence s = [flagByte ((faultKinds.take 8).map (fun k => (s.fault k).isSome)),
      flagByte ((faultKinds.drop 8).map (fun k => (s.fault k).isSome) ++ [s.firstFault.isSome])] ∧
    (∀ k, faultData s k = [flag (s.fault k).isSome, flag (s.settings.faultMasks.getLsbD (faultIndex k)),
        flag (s.settings.faultStops.getLsbD (faultIndex k))] ++
        (match s.fault k with
          | some r => faultDetailBytes r.detail ++ be 4 r.time
          | none => List.replicate 8 0xFF#8) ∧
      (faultData s k).length = 11) ∧
    firstFaultData s.firstFault = (match s.firstFault with
      | some f => be 1 (faultIndex f.kind) ++ be 4 f.time ++ faultDetailBytes f.detail ++ [flag f.more]
      | none => List.replicate 10 0xFF#8) ∧
    (firstFaultData s.firstFault).length = 10) ∧
  (∀ (s : State) (sc : Scale) (weight : List Byte),
    let c := s.chan sc
    let cfg := s.scaleSettings sc
    scaleData s sc weight = [flagByte [c.live.isSome, c.capture.isSome]] ++ be 1 (scaleStateCode c.state) ++
      [flag (decide (96 ≤ c.faultCount))] ++ weight ++ be 1 c.motion ++ [flag (decide (cfg.settle ≤ c.motion))] ++
      be 1 c.faultCount ++ beOpt 1 (c.lastBad.map badCauseCode) ++ beInt 4 c.zeroOffset ++ [flag cfg.enabled] ++
      be 1 cfg.settle ++ be 1 cfg.timeout ++ be 1 cfg.empty ++ be 1 (recoveryCode cfg.recovery) ++ be 1 c.calCounter ++
      be 1 c.slotsUsed ++ [flag c.calLocked] ++ beOpt 1 (c.live.map (·.sequence)) ++ beOpt 4 (c.live.map (·.time)) ++
      (match c.capture with
        | none => 0x00#8 :: List.replicate 9 0xFF#8
        | some k => [0x01#8] ++ be 1 (captureCode k.kind) ++ be 1 (portCode k.port) ++
          (match k.vehicle with | some v => sized v | none => beOpt 2 k.ticket) ++ be 4 k.armedTime ++ be 1 k.remaining)) ∧
  (∀ (s : State) (source : Byte) (t : Tally) (receipt : Option Nat) (first : Nat),
    let gs := ((List.range 64).map (· + 1)).filter (fun g => 0 < (t.figures g).lines ∧ first ≤ g)
    tallyData s source t receipt first = [source] ++ be 4 t.shift ++ be 4 t.openTime ++ be 6 t.receipts ++ be 6 t.voids ++
      be 6 t.torn ++ be 6 t.total ++ [flag t.incomplete] ++ be 4 (receipt.getD 0) ++ [flag s.snapshot.isSome] ++
      (gs.take 8).flatMap (fun g => be 6 (t.figures g).net ++ be 6 (t.figures g).payable ++ be 6 (t.figures g).amount ++
        be 6 (t.figures g).lines) ++ (match gs[8]? with | some g => be 1 g | none => [0xFF#8]) ∧
    (tallyData s source t receipt first).length = 40 + 24 * min 8 gs.length) ∧
  (∀ (p : Port) (n : Half) (part selection : Byte) (s : State), Taking p s →
     exec (.readTicket p n part) s = .next (
       if s.mode = .starting then answered p .mode [] s
       else if 1 < part.toNat then answered p .range [] s
       else onTicket p n s (fun t => answered p .ok (if part = 0#8 then ticketPart0 s t else ticketPart1 t) s)) ∧
     exec (.listTickets p selection) s = .next (
       if s.mode = .starting then answered p .mode [] s
       else if selection.toNat % 32 = 0 then answered p .range [] s
       else
         let ts := s.ticketsInOrder.filter (fun t => selection.getLsbD (ticketStateCode t.state))
         answered p .ok (be 1 ts.length ++ ts.flatMap (listItem s)) s) ∧
     ∀ x ∈ [(Instr.readClock p, clockData s), (.readJournalState p, journalData s), (.listPrintQueue p, queueData s),
         (.readPrinter p, printerData s),
         (.readFault p, faultPresence s ++ faultKinds.flatMap (faultData s) ++ firstFaultData s.firstFault ++
           [flag s.faultOutput])],
       exec x.1 s = .next (if s.mode = .starting then answered p .mode [] s else answered p .ok x.2 s)) ∧
  (∀ (p : Port) (scale : Byte) (s : State), Taking p s →
     (s.mode = .starting → exec (.readScale p scale) s = .next (answered p .mode [] s)) ∧
     (s.mode ≠ .starting → scaleOf scale = none → exec (.readScale p scale) s = .next (answered p .range [] s)) ∧
     (∀ sc, s.mode ≠ .starting → scaleOf scale = some sc → (s.chan sc).weight = none →
       exec (.readScale p scale) s = .next (answered p .ok (scaleData s sc (absent 4)) s)) ∧
     (∀ sc w, s.mode ≠ .starting → scaleOf scale = some sc → (s.chan sc).weight = some w → -(2 ^ 31) ≤ w → w < 2 ^ 31 →
       exec (.readScale p scale) s = .next (answered p .ok (scaleData s sc (beInt 4 w)) s)) ∧
     (∀ sc w, s.mode ≠ .starting → scaleOf scale = some sc → (s.chan sc).weight = some w → (w < -(2 ^ 31) ∨ 2 ^ 31 ≤ w) →
       ∃ bytes : List Byte, bytes.length = 4 ∧
         exec (.readScale p scale) s = .next (reply p .ok (scaleData s sc bytes) { taken p s with free := s.free + 1 }))) ∧
  (∀ (p : Port) (source first : Byte) (s : State), Taking p s →
     exec (.readTally p source first) s = .next (
       if s.mode = .starting then answered p .mode [] s
       else if 1 < source.toNat ∨ first.toNat = 0 ∨ 64 < first.toNat then answered p .range [] s
       else if source = 0#8 then answered p .ok (tallyData s source s.tally none first.toNat) s
       else match s.snapshot with
         | some x => answered p .ok (tallyData s source x.tally (some x.receipt) first.toNat) s
         | none => answered p .state [] s))

/-! ## Claims, holds and the yard clock -/

/-- CLAIM TICKET sets or renews the port's claim with the claim timeout, RELEASE TICKET removes it, and a port holds at most two
(R88, R89); the expiry of a claim whose seconds have run down removes it and tells its holder, and one that finds no claim, or a
claim renewed or newly set, does nothing (R90, R92). -/
def Obligations.ClaimsAreHeld : Prop :=
  (∀ (p : Port) (s : State), s.claimsHeld p = (s.tickets.filter (fun t => ∃ c ∈ t.claim, c.port = p)).length) ∧
  (∀ (p : Port) (n : Half) (s : State), Taking p s →
     exec (.claimTicket p n) s = .next (
       if s.role p = .view then answered p .role [] s
       else if s.mode = .starting then answered p .mode [] s
       else onTicket p n s (fun t =>
         if claimedByOther p t then answered p .claimed [] s
         else if t.state = .committing then answered p .state [] s
         else if t.claim = none ∧ 2 ≤ s.claimsHeld p then answered p .claimsFull [] s
         else reply p .ok (be 2 s.settings.claimTimeout)
           ((taken p s).updTicket t.number (fun r => { r with claim := some ⟨p, s.settings.claimTimeout⟩ })))) ∧
     exec (.releaseTicket p n) s = .next (
       if s.role p = .view then answered p .role [] s
       else if s.mode = .starting then answered p .mode [] s
       else onTicket p n s (fun t =>
         if claimedByOther p t then answered p .claimed [] s
         else if t.state = .committing then answered p .state [] s
         else if t.claim = none then answered p .notClaimed [] s
         else reply p .ok [] ((taken p s).updTicket t.number (fun r => { r with claim := none }))))) ∧
  (∀ (n : Half) (s : State), s.powered = true →
     exec (.claimExpiry n) s = .next (match (s.ticket n.toNat).bind (·.claim) with
       | none => s
       | some c =>
         if c.remaining = 0 then offerTo c.port ⟨.claimExpired, some n.toNat, [], s.clock⟩
           (s.updTicket n.toNat (fun t => { t with claim := none }))
         else s))

/-- END HOLD makes a HELD ticket PAYABLE with its ended-early flag set; EXTEND HOLD moves its expiry and its place in the hold
list; both refuse in the order of their rules (R95, R96). A placement keeps the list in order of expiry, after every equal or
earlier entry (R93). -/
def Obligations.HoldsEndAndMove : Prop :=
  (∀ (p : Port) (n : Half) (expiry : Word) (s : State), Taking p s →
     exec (.endHold p n) s = .next (
       if s.role p ≠ .office then answered p .role [] s
       else if s.mode = .starting then answered p .mode [] s
       else onTicket p n s (fun t =>
         if claimedByOther p t then answered p .claimed [] s
         else if t.state ≠ .held then answered p .state [] s
         else reply p .ok (be 4 ((t.hold.map (·.expiry)).getD 0))
           (broadcast ⟨.ticketPayable, some t.number, [3#8], s.clock⟩
             { (taken p s).updTicket t.number (fun r =>
                 { r with state := .payable, hold := t.hold.map (fun h => { h with endedEarly := true }) }) with
               holds := s.holds.filter (fun h => h.ticket != t.number) }))) ∧
     exec (.extendHold p n expiry) s = .next (
       if s.role p ≠ .office then answered p .role [] s
       else if s.mode = .starting then answered p .mode [] s
       else onTicket p n s (fun t =>
         if claimedByOther p t then answered p .claimed [] s
         else if t.state ≠ .held then answered p .state [] s
         else if expiry.toNat ≤ (t.hold.map (·.expiry)).getD 0 ∨ t.closedTime.getD 0 + 259200 < expiry.toNat then
           answered p .range [] s
         else reply p .ok (be 4 ((t.hold.map (·.expiry)).getD 0) ++ be 4 expiry.toNat)
           { (taken p s).updTicket t.number (fun r =>
               { r with hold := t.hold.map (fun h => { h with expiry := expiry.toNat }) }) with
             holds := placeHold ⟨t.number, expiry.toNat⟩ (s.holds.filter (fun h => h.ticket != t.number)) }))) ∧
  (∀ (e : HoldEntry) (hs : List HoldEntry), hs.Pairwise (fun a b => a.expiry ≤ b.expiry) →
     (placeHold e hs).Pairwise (fun a b => a.expiry ≤ b.expiry) ∧
     placeHold e hs = hs.filter (fun h => h.expiry ≤ e.expiry) ++ e :: hs.filter (fun h => e.expiry < h.expiry))

/-- SET CLOCK sets the count and its flag; CLOCK ADVANCE raises the count by one, to its last value at most; and both expire the
holds then due, in list order: each such ticket becomes PAYABLE and offers TICKET_PAYABLE with HOLD_EXPIRED, and nothing else
changes (R44, R83, R84, R93, R94). A clock advance in STARTING or without power expires none, and one at the last value does
nothing at all (log 43, DEDUCED). -/
def Obligations.YardClock : Prop :=
  let payable (due : List HoldEntry) (s : State) : List Ticket :=
    s.tickets.map (fun u => if due.any (fun h => h.ticket == u.number) then { u with state := .payable } else u)
  let heard (due : List HoldEntry) (time : Nat) (s : State) : PerPort PortCtx :=
    (due.foldl (fun x h => broadcast ⟨.ticketPayable, some h.ticket, [2#8], time⟩ x) s).ports
  (∀ (p : Port) (time : Word) (s : State), Taking p s →
     (s.role p ≠ .office → exec (.setClock p time) s = .next (answered p .role [] s)) ∧
     (s.role p = .office → s.mode = .starting → exec (.setClock p time) s = .next (answered p .mode [] s)) ∧
     (s.role p = .office → s.mode ≠ .starting →
       let due := s.holds.takeWhile (fun h => h.expiry ≤ time.toNat)
       exec (.setClock p time) s = .next (reply p .ok (be 4 s.clock ++ be 4 time.toNat ++ be 1 due.length) { taken p s with
         clock := time.toNat, clockSet := true, holds := s.holds.dropWhile (fun h => h.expiry ≤ time.toNat)
         tickets := payable due s, ports := heard due time.toNat (taken p s) }))) ∧
  (∀ s : State,
     (4294967295 ≤ s.clock → exec .clockAdvance s = .next s) ∧
     (s.clock < 4294967295 → s.powered = false ∨ s.mode = .starting →
       exec .clockAdvance s = .next { s with clock := s.clock + 1 }) ∧
     (s.clock < 4294967295 → s.powered = true → s.mode ≠ .starting →
       let due := s.holds.takeWhile (fun h => h.expiry ≤ s.clock + 1)
       exec .clockAdvance s = .next { s with
         clock := s.clock + 1, holds := s.holds.dropWhile (fun h => h.expiry ≤ s.clock + 1)
         tickets := payable due s, ports := heard due (s.clock + 1) s }))

/-! ## Settlement and the journal -/

/-- SETTLE TICKET, VOID TICKET and CLOSE SHIFT refuse in the order of R101, R55 and R169; a void fails the capture armed for its
ticket (`captureVoided`: R75), a ticket with no weighings is then freed at once (R56) and a HELD one leaves the hold list (R57); a
refusal for journal space sets JOURNAL_FULL (R102). Journal space is the free slots of the FILLING sector, and 16 for each sector of
the ahead run, less the commit requests in the queue; 0 with the counter exhausted; an evaluation that finds it below 32 with the
low flag clear sets the flag and offers JOURNAL_LOW, one that finds 32 or more clears the flag (R133). A shift close reserves its
SHIFT_REPORT job before its TALLY job (log 73, DEDUCED). -/
def Obligations.CommitRequestsRefuse : Prop :=
  (∀ s : State,
    (∀ c, s.sectors.find? (fun c => c.state == .filling) = some c → s.exhausted = false →
      s.space = (16 - c.used : Nat) + 16 * (s.aheadRun.length : Int) - s.commitQueue.length) ∧
    ((∀ c ∈ s.sectors, c.state ≠ .filling) → s.exhausted = false →
      s.space = 16 * (s.aheadRun.length : Int) - s.commitQueue.length) ∧
    (s.exhausted = true → s.space = 0) ∧
    (s.space < 32 → s.lowFlag = false →
      evalSpace s = broadcast ⟨.journalLow, none, beInt 2 s.space, s.clock⟩ { s with lowFlag := true }) ∧
    (s.noTallyJob = true ↔ ∀ j, some j ∈ s.jobs → j.kind ≠ .tally) ∧ s.freeSlots = s.jobs.count none ∧
    (s.space < 32 → s.lowFlag = true → evalSpace s = s) ∧ (32 ≤ s.space → evalSpace s = { s with lowFlag := false })) ∧
  ∀ (p : Port) (n : Half) (reason : Byte) (s : State), Taking p s →
    let voided (t : Ticket) : State := captureVoided t (taken p s)
    let spaceAndSlots (kind : EntryKind) (slots : Nat) (go : State) : State :=
      if s.space < 1 then reply p .journalFull [] (setFault .journalFull (.commitKind kind) (taken p s))
      else if s.freeSlots < slots then answered p .queueFull [] s
      else go
    exec (.settleTicket p n) s = .next (
      if s.role p ≠ .window ∧ s.role p ≠ .office then answered p .role [] s
      else if s.mode ≠ .run then answered p .mode [] s
      else onTicket p n s (fun t =>
        if t.state = .held then answered p .held [] s
        else if t.state ≠ .payable then answered p .state [] s
        else if claimedByOther p t then answered p .claimed [] s
        else spaceAndSlots .payout 1
          (acceptCommit p .payout (some t.number) [.original] { taken p s with
            tickets := s.tickets.map (fun r => if r.number = t.number then
              { r with state := .committing, claim := none, commit := some ⟨.payout, none, p, t.state, none⟩ } else r) }))) ∧
    exec (.voidTicket p n reason) s = .next (
      if s.role p ≠ .scale ∧ s.role p ≠ .office then answered p .role [] s
      else if s.mode ≠ .run then answered p .mode [] s
      else if reason.toNat = 0 ∨ 15 < reason.toNat then answered p .range [] s
      else onTicket p n s (fun t =>
        if claimedByOther p t then answered p .claimed [] s
        else if t.state = .committing then answered p .state [] s
        else if s.role p ≠ .office ∧ t.state ≠ .opened ∧ t.state ≠ .onYard then answered p .role [] s
        else if t.weighings = [] then
          reply p .ok [] { voided t with tickets := (voided t).tickets.filter (fun r => r.number != t.number) }
        else spaceAndSlots .void 1 (acceptCommit p .void (some t.number) [.voidSlip] { voided t with
          tickets := (voided t).tickets.map (fun r => if r.number = t.number then
            { r with state := .committing, claim := none, commit := some ⟨.void, some reason.toNat, p, t.state, none⟩ } else r)
          holds := if t.state = .held then s.holds.filter (fun h => h.ticket != t.number) else s.holds }))) ∧
    exec (.closeShift p) s = .next (
      if s.role p ≠ .office then answered p .role [] s
      else if s.mode ≠ .run then answered p .mode [] s
      else if s.noTallyJob = false then answered p .tallyPending [] s
      else spaceAndSlots .shift 2 (acceptCommit p .shift none [.shiftReport, .tally] (taken p s)))

/-- An accepted SETTLE TICKET, VOID TICKET of a weighed ticket and CLOSE SHIFT: the ticket is COMMITTING, the request is queued
behind the others with its settlement record, which names its kind, ticket, port and print slots, the slots hold RESERVED jobs of
the kinds of R103, a SHIFT_REPORT standing before its TALLY in the record (log 73, DEDUCED), and the port stays BUSY (R57, R59,
R100, R103 to R106, R110, R113). A void takes the capture armed for its ticket from its scale and from the ticket (R57, R75). With
no commit before it, its entry is built with the counter's number within the event (R118, R123; also while the engine is busy: log
68, DESIGN CHOICE). `v` is the state before the engines take their next work. -/
def Obligations.CommitsAreAccepted : Prop :=
  ∀ (p : Port) (n : Half) (reason : Byte) (s : State), Taking p s → s.mode = .run → 1 ≤ s.space →
    let accepted (kind : EntryKind) (ticket : Option Nat) (kinds : List JobKind) (u : State) : Prop :=
      u.commitQueue = s.commitQueue ++ [⟨kind, ticket, p⟩] ∧ u.settlements.length = s.settlements.length + 1 ∧
      (u.port p).state = .busy ∧ (u.port p).result = none ∧ u.head.isSome = true ∧
      u.journal = s.journal ∧ u.settings = s.settings ∧ u.clock = s.clock ∧ u.tares = s.tares ∧ u.tally = s.tally ∧
      u.mode = .run ∧
      ∃ v r, u = settle v ∧ u.settlements.getLast? = some r ∧ r.kind = kind ∧ r.ticket = ticket ∧ r.port = p ∧ r.torn = [] ∧
        (s.head.isSome = true → u.settlements = s.settlements ++ [r] ∧ r.receipt = none) ∧
        (s.head = none → s.settlements = [] → r.receipt = some s.counter) ∧
        (s.head = none → s.commitQueue = [] →
          u.head.map (fun h => (h.attempt, h.number, h.entry)) = some (1, s.counter, buildEntry v ⟨kind, ticket, p⟩ s.counter)) ∧
        r.jobs.length = kinds.length ∧
        (∀ x ∈ r.jobs.zip kinds, s.job x.1 = none ∧
          ∃ age, v.job x.1 = some ⟨x.2, none, some p, .reserved, 0, false, age, 0⟩) ∧
        (∀ slot, slot ∉ r.jobs → v.job slot = s.job slot)
    (∀ t, (s.role p = .window ∨ s.role p = .office) → s.namedTicket n = .ok t → t.state = .payable →
      claimedByOther p t = false → 1 ≤ s.freeSlots →
      ∃ u, exec (.settleTicket p n) s = .next u ∧ accepted .payout (some t.number) [.original] u ∧
        ∃ v c, u.ticket t.number = some v ∧ v.state = .committing ∧ v.claim = none ∧ v.commit = some c ∧
          c.kind = .payout ∧ c.port = p ∧ c.before = .payable ∧ v.lines = t.lines ∧ v.total = t.total) ∧
    (∀ t, s.role p = .office ∨ (s.role p = .scale ∧ (t.state = .opened ∨ t.state = .onYard)) → 1 ≤ reason.toNat →
      reason.toNat ≤ 15 → s.namedTicket n = .ok t → t.state ≠ .committing → claimedByOther p t = false →
      t.weighings ≠ [] → 1 ≤ s.freeSlots →
      ∃ u, exec (.voidTicket p n reason) s = .next u ∧ accepted .void (some t.number) [.voidSlip] u ∧
        (t.state = .held → ∀ h ∈ u.holds, h.ticket ≠ t.number) ∧
        (∀ sc k, t.capture = some sc → (s.chan sc).capture = some k → k.ticket = some t.number →
          (u.chan sc).capture = none ∧ ∀ r, u.ticket t.number = some r → r.capture = none) ∧
        ∃ v c, u.ticket t.number = some v ∧ v.state = .committing ∧ v.claim = none ∧ v.commit = some c ∧
          c.kind = .void ∧ c.reason = some reason.toNat ∧ c.port = p ∧ c.before = t.state ∧ v.lines = t.lines) ∧
    (s.role p = .office → s.noTallyJob = true → 2 ≤ s.freeSlots →
      ∃ u, exec (.closeShift p) s = .next u ∧ accepted .shift none [.shiftReport, .tally] u ∧
        u.tickets.length = s.tickets.length)

/-- The steps of a commit (R123): each programs its bytes in the entry's 256 and nowhere else. A good read-back of the header or
the body hands the next step to the program engine; that of the header enters the mark STARTED in the map. The entry that a commit
builds is laid out by R215: for PAYOUT and VOID from the ticket as it stands (R118), for SHIFT from the tally (R170), the
committed time and the time-unset flag from the clock, the calibration counters from the scales, and both checks hold. How an entry
is read (R119, R215): a status byte with every bit set is blank and one with none the BAD pattern; else it reads as the most advanced
mark all of whose bits are cleared in it, of STARTED (7), COMPLETE (7, 6), PRINTED (7, 6, 5), TORN (7, 4) and AUDITED (7, 3), and as
STARTED when it carries none; it carries the bits of TORN when 7 and 4 are cleared. The header check holds when bytes 10 and 11 are
the sum of bytes 1 to 9, the body check when bytes 252 to 255 are the sum of bytes 16 to 251; the kind is that of byte 5 (a byte
that spells none gives a free kind: log 19), and the lines are those that byte 68 counts, at most eight, priced by the closed flag
(log 52, both DESIGN CHOICE). -/
def Obligations.CommitStepsProgram : Prop :=
  (∀ b : Byte,
    let clear (i : Nat) : Bool := !b.getLsbD i
    readMark b = if b = 0xFF#8 then .blank
      else if b = 0x00#8 then .badPattern
      else if clear 7 && clear 3 then .audited
      else if clear 7 && clear 4 then .torn
      else if clear 7 && clear 6 && clear 5 then .printed
      else if clear 7 && clear 6 then .complete
      else .started) ∧
  (∀ e : List Byte, e.length = 256 →
    let b (i : Nat) := (e.getD i 0#8).toNat
    let sum (off len : Nat) := ((List.range len).map (fun k => b (off + k))).sum
    markOf e = readMark (e.getD 0 0#8) ∧
    (carriesTorn e = true ↔ (e.getD 0 0#8).getLsbD 7 = false ∧ (e.getD 0 0#8).getLsbD 4 = false) ∧
    (headerHolds e = true ↔ 256 * b 10 + b 11 = sum 1 9 % 65536) ∧
    (bodyHolds e = true ↔ 16777216 * b 252 + 65536 * b 253 + 256 * b 254 + b 255 = sum 16 236 % 4294967296) ∧
    (∀ off n, off + n ≤ 256 → entryField e off n = (List.range n).map (fun k => e.getD (off + k) 0#8)) ∧
    (∀ off n, off + n < 256 →
      entryNat e off 0 = 0 ∧ entryNat e off (n + 1) = 256 * entryNat e off n + b (off + n)) ∧
    (∀ i, entryFlag e i = (e.getD 16 0#8).getLsbD i) ∧
    (∀ off width, off + width < 256 → entryText e off width =
      if b off = 0 then none else some (entryField e (off + 1) (min (b off) width))) ∧
    (b 5 = 1 → entryKind e = .payout) ∧ (b 5 = 2 → entryKind e = .void) ∧ (b 5 = 3 → entryKind e = .shift) ∧
    entryLines e = (List.range (min 8 (b 68))).map (fun i =>
      let num (off n : Nat) := entryNat e (72 + 16 * i + off) n
      ⟨num 0 1, num 1 4, num 5 4, if entryFlag e 1 = true then some (num 9 3) else none,
        if entryFlag e 1 = true then some (num 12 4) else none⟩)) ∧
  (∀ (h : Head) (i slot : Nat), entryAddr i slot = 4096 * i + 256 * slot ∧
    (h.step = .header → stepBytes h = (0, 0x7F#8 :: (h.entry.drop 1).take 11)) ∧
    (h.step = .body → stepBytes h = (16, h.entry.drop 16)) ∧ (h.step = .complete → stepBytes h = (0, [0x3F#8]))) ∧
  (∀ (w : State) (q : CommitReq) (n : Nat),
    let e := buildEntry w q n
    let bytes (off len : Nat) := entryField e off len
    let zeros (off len : Nat) : Prop := bytes off len = List.replicate len 0#8
    let text (off width : Nat) (x : Option (List Byte)) : Prop :=
      (x = none → zeros off (width + 1)) ∧
      ∀ v, x = some v → v.length ≤ width → bytes off (width + 1) = be 1 v.length ++ v ++ List.replicate (width - v.length) 0#8
    e.length = 256 ∧ headerHolds e = true ∧ bodyHolds e = true ∧ bytes 0 1 = [0xFF#8] ∧ bytes 12 4 = List.replicate 4 0xFF#8 ∧
    bytes 1 4 = be 4 n ∧ bytes 5 1 = be 1 (entryKindCode q.kind) ∧ bytes 6 4 = be 4 w.clock ∧
    (∀ t, q.kind ≠ .shift → q.ticket.bind w.ticket = some t →
      entryFlag e 0 = !w.clockSet ∧ entryFlag e 1 = t.closedTime.isSome ∧
      (entryFlag e 2 = true ↔ ∃ x, t.tareSource = some (.stored x)) ∧ entryFlag e 3 = t.hold.isSome ∧
      (entryFlag e 4 = true ↔ ∃ x, t.hold = some ⟨x, true⟩) ∧ bytes 17 1 = be 1 (portCode q.port) ∧
      bytes 18 2 = be 2 t.number ∧ bytes 20 4 = be 4 t.openedTime ∧ bytes 24 4 = be 4 (t.closedTime.getD 0) ∧
      text 28 10 t.vehicle ∧ text 39 16 t.seller ∧ (∀ x : Nat, t.tareSource = some (.stored x) → bytes 56 4 = be 4 x) ∧
      ((∀ x, t.tareSource ≠ some (.stored x)) → zeros 56 4) ∧
      bytes 60 3 = [Scale.a, .b, .p].map (fun sc => BitVec.ofNat 8 (w.chan sc).calCounter) ∧
      bytes 63 1 = be 1 ((t.commit.bind (·.reason)).getD 0) ∧ bytes 64 4 = be 4 ((t.hold.map (·.expiry)).getD 0) ∧
      bytes 68 1 = be 1 t.lines.length ∧ zeros 69 3 ∧
      (∀ i l, i < 8 → t.lines[i]? = some l →
        bytes (72 + 16 * i) 16 = be 1 l.grade ++ be 4 l.net ++ be 4 l.dock ++ beOpt 3 l.price ++ beOpt 4 l.amount) ∧
      (∀ i, i < 8 → t.lines.length ≤ i → zeros (72 + 16 * i) 16) ∧ bytes 200 4 = be 4 (t.total.getD 0) ∧ zeros 204 48) ∧
    (q.kind = .shift →
      bytes 16 1 = [flag (!w.clockSet)] ∧ bytes 17 1 = be 1 (portCode q.port) ∧ zeros 18 42 ∧
      bytes 60 3 = [Scale.a, .b, .p].map (fun sc => BitVec.ofNat 8 (w.chan sc).calCounter) ∧ zeros 63 141 ∧
      bytes 204 4 = be 4 w.tally.shift ∧ bytes 208 4 = be 4 w.tally.openTime ∧ bytes 212 4 = be 4 w.tally.receipts ∧
      bytes 216 4 = be 4 w.tally.voids ∧ bytes 220 4 = be 4 w.tally.torn ∧ bytes 224 6 = be 6 w.tally.total ∧
      bytes 230 1 = [flag w.tally.incomplete] ∧ zeros 231 21)) ∧
  ∀ (h : Head) (r : CommitReq) (rest : List CommitReq) (cells torn check : Cells) (s : State), s.powered = true →
    s.engine.current = some .commitStep → s.head = some h → s.commitQueue = r :: rest →
    ∀ x ∈ [(HeadStep.header, Instr.commitHeader cells torn check), (.body, .commitBody cells torn check),
        (.complete, .commitComplete cells torn check)],
      h.step = x.1 →
      let a := entryAddr h.sector h.slot
      let after := memProgramVerify s.journal (a + (stepBytes h).1) (stepBytes h).2 cells
      (∀ k, h.entry.length = 256 → (stepBytes h).2[k]? ≠ none → (stepBytes h).1 + k < 256) ∧
      ∃ t, exec x.2 s = .next t ∧ t.settings = s.settings ∧ t.clock = s.clock ∧ t.cal = s.cal ∧ t.tares = s.tares ∧
        (h.entry.length = 256 → ∀ y, y < a ∨ a + 256 ≤ y → memRead t.journal y = memRead s.journal y) ∧
        (after.2 = true → t.journal = after.1) ∧
        (let next (step : HeadStep) : State := { s with
            journal := after.1, head := some { h with step := step }
            engine := { s.engine with current := none, writes := s.engine.writes ++ [.commitStep] } }
         (after.2 = true → x.1 = .header → t = settle (evalSpace { next .body with
           sectors := s.sectors.set h.sector { s.sector h.sector with
             marks := (s.sector h.sector).marks.set h.slot .started } })) ∧
         (after.2 = true → x.1 = .body → t = settle (evalSpace (next .complete))))

/-- How an attempt of the head commit ends (R123 to R126). The COMPLETE mark reads back: the entry is COMPLETE and its slot used,
the ticket is freed, the reserved jobs are QUEUED with the number, the tally has the receipt, RECEIPT_COMMITTED is offered, the port
has its result and the record is gone (R107, R108). A step reads back wrong: TORN is programmed, and the body check zeroed when the
byte does not take it; the slot is used and TORN in the map; the record and the tally count it. A first torn attempt is followed by
a second with the next number, its entry selected by R124. A second one, or a first with the counter exhausted, fails the commit:
JOURNAL_MEDIA or JOURNAL_FULL is set, the ticket returns by R61, the reserved jobs leave their slots with the backlog walk tested at
each (R165), the two of a SHIFT commit in the order of the record (log 29, DESIGN CHOICE), and the port has MEDIA with the torn
numbers (R109). The next commit is then taken (R126): it begins its first attempt with the counter's number, or with the counter
exhausted fails at once with JOURNAL_FULL, and the one behind it is taken (R120); a commit with no settlement record, which no run
reaches, leaves the queue (log 48, DESIGN CHOICE). Journal space is evaluated once, after the event's other notices (log 11, DESIGN
CHOICE). The figures of the tally each stop at their maximum, 32 bits for a count and 48 for a total or a weight, which sets the
incomplete flag (R166 to R168); a line with grade byte 0, which only a damaged entry holds, adds to grade 1, one with a grade above
64 to none, and one whose dock weight exceeds its net weight adds a payable weight of 0 (log 52, DESIGN CHOICE); a SHIFT close
leaves the shift number at its last value with the incomplete flag clear (log 51, DESIGN CHOICE); and the data of a completed commit
is R106's (its presence flag is log 15, DESIGN CHOICE). `u`, `v` are the states before the next commit is taken, the space is
evaluated and the engines go on. -/
def Obligations.CommitAttemptsEnd : Prop :=
  (∀ (t : Tally) (ls : List Line) (l : Line) (total clock : Nat),
    let most32 := 4294967295
    let most48 := 281474976710655
    t.addTorn = { t with torn := min most32 (t.torn + 1), incomplete := t.incomplete || decide (most32 < t.torn + 1) } ∧
    t.addVoid = { t with
      receipts := min most32 (t.receipts + 1), voids := min most32 (t.voids + 1)
      incomplete := t.incomplete || decide (most32 < t.receipts + 1) || decide (most32 < t.voids + 1) } ∧
    t.addPayout [] total = { t with
      receipts := min most32 (t.receipts + 1), total := min most48 (t.total + total)
      incomplete := t.incomplete || decide (most32 < t.receipts + 1) || decide (most48 < t.total + total) } ∧
    (let u := t.addPayout ls total
     let f := u.grades.getD (l.grade - 1) ⟨0, 0, 0, 0⟩
     let net := f.net + l.net
     let payable := f.payable + (l.net - l.dock)
     let amount := f.amount + l.amount.getD 0
     let lines := f.lines + 1
     t.addPayout (ls ++ [l]) total = { u with
       grades := u.grades.set (l.grade - 1) ⟨min most48 net, min most48 payable, min most48 amount, min most32 lines⟩
       incomplete := u.incomplete ||
         decide (most48 < net ∨ most48 < payable ∨ most48 < amount ∨ most32 < lines) }) ∧
    Tally.first clock = ⟨1, clock, 0, 0, 0, 0, false, List.replicate 64 ⟨0, 0, 0, 0⟩⟩) ∧
  (∀ (receipt total shift : Nat) (t : Option Nat),
    completionData .payout receipt (some total) shift = be 4 receipt ++ be 4 total ∧
    completionData .void receipt t shift = [flagByte [t.isSome]] ++ be 4 receipt ++ beOpt 4 t ∧
    completionData .shift receipt t shift = be 4 receipt ++ be 4 shift) ∧
  (∀ s : State, s.head ≠ none ∨ s.commitQueue = [] → nextHead s = s) ∧
  (∀ (q : CommitReq) (rest : List CommitReq) (s : State), s.head = none → s.commitQueue = q :: rest →
    let full := setFault .journalFull (.commitKind q.kind) s
    (s.exhausted = false → nextHead s = numbered q 1 s) ∧
    (s.exhausted = true → s.settlements = [] → nextHead s = nextHead { full with commitQueue := rest }) ∧
    (∀ r rs, s.exhausted = true → s.settlements = r :: rs → ∃ v, nextHead s = nextHead v ∧ CommitFails r full v)) ∧
  ∀ (h : Head) (q : CommitReq) (rest : List CommitReq) (r : Settlement) (rs : List Settlement) (cells torn check : Cells)
    (s : State), s.powered = true → s.engine.current = some .commitStep → s.head = some h → s.commitQueue = q :: rest →
    s.settlements = r :: rs →
    let a := entryAddr h.sector h.slot
    let used (m : Mark) : List Sector := s.sectors.set h.sector { s.sector h.sector with
      used := (s.sector h.sector).used + 1, marks := (s.sector h.sector).marks.set h.slot m
      state := if (s.sector h.sector).used + 1 = 16 then .full else (s.sector h.sector).state }
    let mark := memProgramVerify s.journal a [0x3F#8] cells
    (h.step = .complete → mark.2 = true →
      let b := s.books.completed s.clock h.number r
      ∃ u, exec (.commitComplete cells torn check) s = .next (settle (evalSpace (nextHead u))) ∧
        (∀ slot, u.job slot = if slot ∈ r.jobs then (s.job slot).map (fun j =>
          { j with state := .queued, receipt := if j.kind = .tally then none else some h.number }) else s.job slot) ∧
        u = { s with
          engine := { s.engine with current := none }
          journal := mark.1, sectors := used .complete, head := none, commitQueue := rest, settlements := rs
          tickets := b.tickets, tally := b.tally, snapshot := b.snapshot, jobs := u.jobs
          ports := (reply r.port .ok
            (completionData r.kind h.number ((s.books.ticket r).bind (·.total)) s.tally.shift)
            (broadcast ⟨.receiptCommitted, some h.number, be 1 (entryKindCode r.kind), s.clock⟩ s)).ports }) ∧
    ∀ x ∈ [(HeadStep.header, Instr.commitHeader cells torn check, 0, 0x7F#8 :: (h.entry.drop 1).take 11),
        (.body, .commitBody cells torn check, 16, h.entry.drop 16), (.complete, .commitComplete cells torn check, 0, [0x3F#8])],
      let step := memProgramVerify s.journal (a + x.2.2.1) x.2.2.2 cells
      h.step = x.1 → step.2 = false →
      let marked := memProgram step.1 a [0x6F#8] torn.stuck torn.lost
      let lost := { r with torn := r.torn ++ [h.number] }
      let w := { s with
        engine := { s.engine with current := none }
        journal := if memRead marked a ||| 0x6F#8 = 0x6F#8 then marked
          else memProgram marked (a + 252) [0#8, 0#8, 0#8, 0#8] check.stuck check.lost
        sectors := used .torn, head := none, settlements := lost :: rs, tally := s.tally.addTorn }
      (h.attempt = 1 → s.exhausted = false → exec x.2.1 s = .next (settle (evalSpace (numbered q 2 w)))) ∧
      (h.attempt ≠ 1 ∨ s.exhausted = true →
        let f := if h.attempt = 1 then setFault .journalFull (.commitKind q.kind) w
          else setFault .journalMedia (.receipt h.number) w
        ∃ v, exec x.2.1 s = .next (settle (evalSpace (nextHead v))) ∧ CommitFails lost f v)

/-- What a start does to the journal and what hangs on it. The scan classifies each sector, marks TORN what it finds STARTED or with
a failing body check, and sets TORN_FOUND with the lowest such number (R141); the map, the newest sector and the counter follow
(R142). A warm start counts the torn entries, resolves the settlement list in order, its tickets and jobs with it, and examines the
holds (R65, R99, R114, R164), and tests the backlog walk at the end of the scan and at each slot that a returned ticket frees
(R165); a cold one rebuilds the tally from the retained entries (R174) and sets up the backlog walk (R165). A sector in which no
header holds has its first number by R141 case 4, not stated here. Where the spec leaves it open: a first number counted down from a
later slot stops at 0 (log 24, DESIGN CHOICE), a newest number at the last value leaves the counter exhausted (log 25, DEDUCED), a
slot is blank when its status byte is (log 39, DEDUCED), the scan's TORN always takes (log 41, DESIGN CHOICE), a shift number stays
at its last value (log 51, DESIGN CHOICE), bytes that read otherwise at the scan stay so in the array (log 7, DESIGN CHOICE), the
rebuild takes a damaged entry as its bytes read (logs 19 and 52, DESIGN CHOICE), of several sectors with the newest number the one
of lowest index is FILLING (log 62, DESIGN CHOICE), a torn entry is reported by its sector's first number and its slot (log 64,
DESIGN CHOICE), the two reserved jobs of a returned SHIFT commit leave in the order of the record (log 29, DESIGN CHOICE), and a
sector that the erase record names is erased with no blank check, also when its blank check had not ended (log 72, DESIGN CHOICE).
-/
def Obligations.StartReadsTheJournal : Prop :=
  ∀ (retained sense : Bool) (decay : List (Nat × Byte)) (s : State), s.journal.wf = true → s.faults.length = 11 →
    let warm := warmStart retained sense s = true
    let m := memDecay s.journal 0 131072 decay
    let erasing := if warm then s.eraseRecord else none
    let entry (i k : Nat) := memBytes m (entryAddr i k) 256
    let blank (i k : Nat) := markOf (entry i k) = .blank
    let torn := tornPlaces erasing m
    ∃ t, exec (.start retained sense decay) s = .next t ∧
      (∀ y, memRead t.journal y =
        if ∃ x ∈ torn, y = entryAddr x.1 x.2 then memRead m y &&& 0x6F#8 else memRead m y) ∧
      (∀ i, i < 32 →
        let c := t.sector i
        let bad := ∃ k ∈ List.range 16, (entry i k).headD 0xFF#8 = 0x00#8
        c.kinds = (List.range 16).map (fun k => (entry i k).getD 5 0#8) ∧
        (erasing = some i → c.state = .erasing ∧ t.engine.current = some .erase ∧
          t.engine.erase = some ⟨i, false, false, 0, false⟩) ∧
        (erasing ≠ some i → bad → c.state = .bad) ∧
        (erasing ≠ some i → ¬ bad → (∀ k, k < 16 → blank i k) → c.state = .blankUnchecked) ∧
        (∀ k, erasing ≠ some i → ¬ bad → k < 16 → ¬ blank i k → (∀ l, k < l → l < 16 → blank i l) →
          c.used = k + 1 ∧
          c.state = (if k < 15 ∧ (t.newest.bind t.lookup).map Prod.fst = some i then .filling else .full) ∧
          (∀ l, l < 16 → headerHolds (entry i l) = true → (∀ d, d < l → headerHolds (entry i d) = false) →
            c.first = some (entryNat (entry i l) 1 4 - l)) ∧
          (∀ l, l < 16 →
            let mark := if (i, l) ∈ torn then .torn else markOf (entry i l)
            (t.slotMark i l = mark ∨ t.slotMark i l = .audited) ∧
            ((∀ n n', (i, l) ∈ t.places n → n < n' → ∀ y ∈ t.places n', t.slotMark y.1 y.2 ≠ .audited) →
              t.slotMark i l = mark)))) ∧
      (∀ n n', ∀ x ∈ t.places n, ∀ y ∈ t.places n', n < n' → t.slotMark y.1 y.2 = .audited → t.slotMark x.1 x.2 = .audited) ∧
      (match t.newest with
        | some n => if n < 4294967295 then t.counter = n + 1 ∧ t.exhausted = false
            else t.counter = 4294967295 ∧ t.exhausted = true
        | none => t.counter = t.settings.firstReceipt ∧ t.exhausted = false) ∧
      (let number (x : Nat × Nat) := (t.sector x.1).first.getD 0 + x.2
       (torn = [] → t.fault .tornFound = if warm then s.fault .tornFound else none) ∧
       (∀ x ∈ torn, (∀ y ∈ torn, number x ≤ number y) → t.fault .tornFound = some ⟨.receipt (number x), t.clock⟩)) ∧
      (warm →
        let stands (n : Nat) : Bool := t.entryMark n = some .complete ∨ t.entryMark n = some .printed ∨
          (t.entryMark n = some .audited ∧ (t.retainedBytes n).all (fun e => !carriesTorn e))
        let b := s.settlements.foldl (Books.resolved s.clock stands) ⟨
          s.tickets.map (fun u => { u with claim := none, capture := none }), s.holds,
          torn.foldl (fun x _ => x.addTorn) s.tally, s.snapshot⟩
        let due := b.holds.takeWhile (fun e => e.expiry ≤ s.clock)
        let queue := s.settlements.foldl (fun (x : State) r => match r.receipt.filter stands with
            | some n => r.jobs.foldl (fun (y : State) slot => { y with jobs := y.jobs.set slot ((y.job slot).map (fun j =>
                { j with state := .queued, receipt := if j.kind = .tally then none else some n })) }) x
            | none => r.jobs.foldl (fun y slot => slotFreed slot y) x)
          (testBacklog { t with
            backlog := s.backlog, ageCounter := s.ageCounter, free := s.free
            jobs := s.jobs.map (Option.map (fun j => match j.state with
              | .printing => { j with state := .queued, restarted := true }
              | .retryWait => { j with state := .queued, wait := 0 }
              | _ => j)) })
        t.jobs = queue.jobs ∧ t.backlog = queue.backlog ∧ t.ageCounter = queue.ageCounter ∧ t.free = queue.free ∧
        (∀ n, t.retainedBytes n = (t.lookup n).map (fun x => t.entryBytes x.1 x.2)) ∧
        t.holds = b.holds.dropWhile (fun e => e.expiry ≤ s.clock) ∧ t.tally = b.tally ∧ t.snapshot = b.snapshot ∧
        t.tickets = b.tickets.map (fun u =>
          if due.any (fun e => e.ticket == u.number) then { u with state := .payable } else u) ∧
        (∀ slot j, s.job slot = some j → (∀ r ∈ s.settlements, slot ∉ r.jobs) →
          t.job slot = some (match j.state with
            | .printing => { j with state := .queued, restarted := true }
            | .retryWait => { j with state := .queued, wait := 0 }
            | _ => j)) ∧
        ∀ r ∈ s.settlements, ∀ slot ∈ r.jobs,
          (r.receipt.filter stands = none → SlotLeft slot t) ∧
          (∀ n j, r.receipt.filter stands = some n → (∀ r' ∈ s.settlements, slot ∈ r'.jobs → r' = r) →
            s.job slot = some j → j.state = .reserved →
            t.job slot = some { j with state := .queued, receipt := if j.kind = .tally then none else some n })) ∧
      (¬ warm →
        let es := t.retainedEntries.map (fun x => (x.1, t.entryBytes x.2.1 x.2.2))
        let add (x : Tally) (y : Nat × List Byte) : Tally :=
          if carriesTorn y.2 then x.addTorn
          else match entryKind y.2 with
            | .payout => x.addPayout (entryLines y.2) (entryNat y.2 200 4)
            | .void => x.addVoid
            | .shift => x
        let closes (y : Nat × List Byte) : Prop := carriesTorn y.2 = false ∧ entryKind y.2 = .shift
        t.snapshot = none ∧
        (es = [] → t.tally = Tally.first 0) ∧
        (∀ n e rest, es = (n, e) :: rest → (∀ x ∈ es, ¬ closes x) →
          t.tally = es.foldl add { Tally.first (entryNat e 6 4) with incomplete := true }) ∧
        (∀ before n e rest, es = before ++ (n, e) :: rest → closes (n, e) → (∀ x ∈ rest, ¬ closes x) →
          t.tally = (es.filter (fun x => n < x.1)).foldl add
            { Tally.first (entryNat e 6 4) with shift := min 4294967295 (entryNat e 204 4 + 1) }) ∧
        (t.newest = none → t.jobs = List.replicate 16 none ∧ t.backlog = none) ∧
        (∀ o n, t.oldest = some o → t.newest = some n →
          let unprinted := t.retainedNumbers.filter (fun k => t.entryMark k == some .complete)
          (∀ slot, slot < 16 → t.job slot = if slot < 8 then unprinted[slot]?.map (fun k =>
            ⟨printKind (entryKind ((t.lookup k).elim [] (fun x => entry x.1 x.2))), some k, none, .queued, 0, false, slot, 0⟩)
            else none) ∧
          t.backlog = (match unprinted[7]? with
            | some k => if k < n then some ⟨k + 1, n⟩ else none
            | none => none)))

/-- AUDIT THROUGH refuses in the order of R135, else opens a pass over the entries above the audit mark. The audit mark (R121) is
one below the oldest retained entry that is not AUDITED; with every retained entry AUDITED it is the newest number (log 12,
DEDUCED), and with none retained it is one below the counter. That the number of entries to be marked counts the retained ones
alone, a number in a gap of the arc for none, is log 56, and that every entry of a number that several carry is tested and counted
log 62 (both DESIGN CHOICE). A number is retained in slot n - f of a FILLING or FULL sector whose first number f satisfies f ≤ n ≤ f
+ 15, when that slot is below its entries used or the commit in progress has it (R116, R117); of several such sectors the one of
lowest index answers a lookup (log 62). -/
def Obligations.AuditThroughAnswers : Prop :=
  (∀ s : State,
    let holds (i : Nat) : Prop := i < 32 ∧ ((s.sector i).state = .filling ∨ (s.sector i).state = .full)
    let writing (i : Nat) : Prop := ∃ h, s.head = some h ∧ h.sector = i ∧ (h.step = .body ∨ h.step = .complete)
    let entry (i slot n : Nat) : Prop := holds i ∧ (s.sector i).first.map (· + slot) = some n ∧
      (slot < (s.sector i).used ∨ (slot = (s.sector i).used ∧ writing i))
    (∀ n i slot, (i, slot) ∈ s.places n ↔ entry i slot n ∧ slot ≤ 15) ∧
    (∀ n, (s.places n).Pairwise (fun x y => x.1 < y.1) ∧ s.lookup n = (s.places n).head? ∧
      s.entryMark n = (s.lookup n).map (fun x => (s.sector x.1).marks.getD x.2 .blank)) ∧
    (∀ i slot, s.slotMark i slot = (s.sector i).marks.getD slot .blank) ∧
    ((∀ i slot n, ¬ entry i slot n) → s.newest = none ∧ s.oldest = none) ∧
    (∀ m, (∃ i slot, entry i slot m) → (∀ i slot n, entry i slot n → n ≤ m) → s.newest = some m) ∧
    (∀ m, (∃ i slot, entry i slot m) → (∀ i slot n, entry i slot n → m ≤ n) → s.oldest = some m) ∧
    (∀ m, (∃ i slot, holds i ∧ slot < (s.sector i).used ∧ (s.sector i).first.map (· + slot) = some m) →
      (∀ i slot n, holds i → slot < (s.sector i).used → (s.sector i).first.map (· + slot) = some n → n ≤ m) →
      s.newestDone = some m) ∧
    ((∀ i, holds i → (s.sector i).used = 0 ∨ (s.sector i).first = none) → s.newestDone = none)) ∧
  (∀ s : State,
    let unaudited (k : Nat) := ∃ x ∈ s.places k, s.slotMark x.1 x.2 ≠ .audited
    (s.newest = none → s.auditMark = s.counter - 1) ∧
    (∀ k, unaudited k → (∀ k', unaudited k' → k ≤ k') → s.auditMark = k - 1) ∧
    (∀ m, s.newest = some m → (∀ k, ¬ unaudited k) → s.auditMark = m)) ∧
  ∀ (p : Port) (receipt : Word) (s : State), Taking p s →
    let n := receipt.toNat
    (s.role p ≠ .office → exec (.auditThrough p receipt) s = .next (answered p .role [] s)) ∧
    (s.role p = .office → s.mode ≠ .run → exec (.auditThrough p receipt) s = .next (answered p .mode [] s)) ∧
    (s.role p = .office → s.mode = .run → s.pass.isSome = true →
      exec (.auditThrough p receipt) s = .next (answered p .state [] s)) ∧
    (s.role p = .office → s.mode = .run → s.pass = none →
      (n ≤ s.auditMark → exec (.auditThrough p receipt) s = .next (answered p .ok (be 4 s.auditMark) s)) ∧
      (s.auditMark < n → s.newest.getD 0 < n → exec (.auditThrough p receipt) s = .next (answered p .range [] s)) ∧
      let unprinted (k : Nat) := s.auditMark < k ∧ k ≤ n ∧
        ∃ x ∈ s.places k, s.slotMark x.1 x.2 ≠ .printed ∧ s.slotMark x.1 x.2 ≠ .torn
      (∀ k, s.auditMark < n → n ≤ s.newest.getD 0 → unprinted k → (∀ k', unprinted k' → k ≤ k') →
        exec (.auditThrough p receipt) s = .next (answered p .auditUnprinted (be 4 k) s)) ∧
      (s.auditMark < n → n ≤ s.newest.getD 0 → (∀ k, ¬ unprinted k) →
        let count := ((List.range (n - s.auditMark)).flatMap (fun k => s.places (s.auditMark + 1 + k))).length
        ∃ t, exec (.auditThrough p receipt) s = .next t ∧ t.pass = some ⟨n, s.auditMark + 1, p⟩ ∧
          (t.port p).result = some ⟨.ok, be 4 s.auditMark ++ be 2 count⟩ ∧ (t.port p).state = .done ∧
          t.journal = s.journal ∧ t.sectors = s.sectors ∧ t.tickets = s.tickets ∧ t.clock = s.clock ∧
          t.settings = s.settings))

/-- The ends of a PRINTED and an AUDITED mark's programming (R129, R136): only the entry's status byte and print time change; a
good read-back enters the mark in the map and goes on; a bad one is programmed once more, then sets JOURNAL_MEDIA. At the end of a
PRINTED mark its request has left the pending-mark list; at the end of a pass AUDIT_DONE goes to its port with the outcome, the
number that failed or 0, and the audit mark (R136, R212). A pass passes over a number that no retained entry carries (log 56) and
marks every entry of one that several carry (log 62, both DESIGN CHOICE). The second programming stays in the same operation (log
9), and the test of a good mark is log 42 (both DEDUCED). -/
def Obligations.MarksAreProgrammed : Prop :=
  ∀ (cells time : Cells) (again : Bool) (i slot : Nat) (s : State), s.powered = true → s.faults.length = 11 → i < 32 →
    slot < 16 → (s.sector i).marks.length = 16 → s.sectors.length = 32 →
    let a := entryAddr i slot
    (∀ m ms, s.engine.current = some (.printedMark again) → s.pendingMarks = m :: ms → s.lookup m.receipt = some (i, slot) →
      let first := memProgramVerify s.journal a [0x1F#8] cells
      let both := memProgramVerify first.1 (a + 12) (be 4 m.time) time
      ∃ t, exec (.printedMark cells time) s = .next t ∧ t.journal = both.1 ∧ t.settings = s.settings ∧
        t.tickets = s.tickets ∧ t.clock = s.clock ∧ t.tally = s.tally ∧
        (first.2 = true → both.2 = true → t.slotMark i slot = .printed ∧ t.faults = s.faults ∧
          ∃ u, t = settle u ∧ u.pendingMarks = ms ∧ u.engine.current = none) ∧
        (first.2 = false ∨ both.2 = false → again = false → t.engine.current = some (.printedMark true) ∧
          t.pendingMarks = s.pendingMarks) ∧
        (first.2 = false ∨ both.2 = false → again = true →
          t.fault .journalMedia = some ⟨.receipt m.receipt, s.clock⟩ ∧
          ∃ u, t = settle u ∧ u.pendingMarks = ms ∧ u.engine.current = none)) ∧
    (∀ q, s.engine.current = some (.auditMark again) → s.pass = some q → s.unaudited q.next = some (i, slot) →
      let j := memProgram s.journal a [0x77#8] cells.stuck cells.lost
      let good := memRead j a = memRead s.journal a &&& 0x77#8 ∧ readMark (memRead j a) = .audited
      let done (outcome failed mark : Nat) : Notice :=
        ⟨.auditDone, some q.target, be 1 outcome ++ be 4 failed ++ be 4 mark, s.clock⟩
      ∃ t, exec (.auditMark cells) s = .next t ∧ t.journal = j ∧ t.settings = s.settings ∧ t.tickets = s.tickets ∧
        t.clock = s.clock ∧ t.tally = s.tally ∧
        (good → t.slotMark i slot = .audited ∧ t.faults = s.faults ∧
          let left (k : Nat) := q.next ≤ k ∧ k ≤ q.target ∧
            ∃ x ∈ s.places k, x ≠ (i, slot) ∧ s.slotMark x.1 x.2 ≠ .audited
          ∃ u, t = settle u ∧ u.engine.current = none ∧ u.auditMark = t.auditMark ∧
            (∀ k, left k → (∀ k', left k' → k ≤ k') → t.pass = some { q with next := k } ∧ u.ports = s.ports) ∧
            ((∀ k, ¬ left k) → t.pass = none ∧ u.ports = (offerTo q.port (done 0 0 t.auditMark) s).ports)) ∧
        (¬ good → again = false → t.engine.current = some (.auditMark true) ∧ t.pass = s.pass) ∧
        (¬ good → again = true → t.pass = none ∧ t.fault .journalMedia = some ⟨.receipt q.next, s.clock⟩ ∧
          ∃ u, t = settle u ∧ u.engine.current = none ∧
            u.ports = (offerTo q.port (done 1 q.next t.auditMark) (setFault .journalMedia (.receipt q.next) s)).ports))

/-- Erase-ahead (R131, R132), each command with its whole next state. ERASE_AHEAD_START: the candidate is the first sector after
the ahead run, walking the ring from the current sector (R117), the ahead run holds fewer than two sectors, the candidate is FULL
or BLANK_UNCHECKED, every non-blank entry in it is AUDITED, no open stream's position lies in it (R139), and the engine is free
with nothing of higher preference waiting: the sector becomes ERASING and is recorded, with a blank check when it was
BLANK_UNCHECKED and an erase else, and its count is 0; when a condition fails nothing happens. A suspended erase resumes when the
engine is free with no read and no write waiting, and else nothing happens (R127, R128). A blank check or an erase that finds
every byte of its sector blank makes it ERASED; a check that does not goes on with the erase; an erase that does not is run once
more with its count at 0 and then makes the sector BAD: every status byte of the sector takes the BAD pattern (that it always does
is log 41, DESIGN CHOICE), JOURNAL_MEDIA is set with the sector, and no byte outside the sector changes. The erase record is
cleared after a good blank check (log 38) and a waiting commit selects its entry again at each end (`waitingSelects`: R124; log
32, both DEDUCED). Bytes that read otherwise at a check or a verify stay so in the array (log 7, DESIGN CHOICE). Four more of what
these clauses say is the model's choice, each DESIGN CHOICE: a sector that becomes ERASING keeps its entries used and its marks in
the map, and a BAD one has 0 entries used and the BAD marks (log 46); a print fetch that is held back does not keep a suspended
erase from resuming (log 10); journal space is evaluated, and JOURNAL_LOW offered, after the event's FAULT notices (log 11); and an
operation that waited through a failed blank check suspends the erase as it begins, within the `settle` of that clause (log 50). -/
def Obligations.EraseAheadRuns : Prop :=
  (∀ s : State, s.sectors.length = 32 → s.aheadRun = aheadOf s) ∧
  (∀ s : State, s.powered = true → s.sectors.length = 32 →
    let state (i : Nat) := (s.sector i).state
    let candidate (i : Nat) : Prop := ∃ before after, ringOf s = before ++ i :: after ∧ before.length < 2 ∧
      (∀ x ∈ before, state x = .erased ∨ state x = .erasing) ∧ (state i = .full ∨ state i = .blankUnchecked)
    let starts (i : Nat) : Prop := candidate i ∧ (∀ m ∈ (s.sector i).marks, m = .blank ∨ m = .audited) ∧
      (∀ p n slot, (s.port p).stream = some n → s.lookup n ≠ some (i, slot)) ∧
      s.engine.current = none ∧ s.engine.reads = [] ∧ s.engine.writes = [] ∧ s.engine.erase = none ∧ s.pendingMarks = [] ∧
      s.pass = none
    (∀ i, starts i →
      let checking := decide (state i = .blankUnchecked)
      exec .eraseAheadStart s = .next (settle (evalSpace { s with
        sectors := s.sectors.set i { s.sector i with state := .erasing, first := none }, eraseRecord := some i
        engine := { s.engine with
          erase := some ⟨i, checking, false, 0, false⟩, current := some (if checking then .blankCheck else .erase) } }))) ∧
    ((∀ i, ¬ starts i) → exec .eraseAheadStart s = .next s)) ∧
  (∀ s : State, s.powered = true →
    let resumes (e : EraseJob) : Prop := s.engine.erase = some e ∧ e.suspended = true ∧ s.engine.current = none ∧
      (∀ r ∈ s.engine.reads, r = .fetch ∧ 16 ≤ s.pendingMarks.length) ∧ s.engine.writes = []
    (∀ e, resumes e → exec .eraseResume s = .next { s with engine := { s.engine with
      current := some .erase, erase := some { e with suspended := false } } }) ∧
    ((∀ e, ¬ resumes e) → exec .eraseResume s = .next s)) ∧
  ∀ (bytes : List (Nat × Byte)) (e : EraseJob) (s : State), s.powered = true → s.sectors.length = 32 →
    s.journal.wf = true → s.engine.erase = some e →
    let a := 4096 * e.sector
    let blank (j : Memory) : Prop := ∀ k, k < 4096 → memRead j (a + k) = 0xFF#8
    let works (j : Memory) (op : EngineOp) (d : EraseJob) : State :=
      { s with journal := j, engine := { s.engine with current := some op, erase := some d } }
    let ends (j : Memory) (state : SectorState) (mark : Mark) : State := { s with
      journal := j, eraseRecord := none
      sectors := s.sectors.set e.sector ⟨state, none, 0, List.replicate 16 mark, List.replicate 16 0xFF#8⟩
      engine := { s.engine with current := none, erase := none } }
    (s.engine.current = some .blankCheck →
      let j := memDecay s.journal a 4096 bytes
      (blank j → exec (.blankCheck bytes) s = .next (settle (evalSpace (waitingSelects (ends j .erased .blank))))) ∧
      (¬ blank j → exec (.blankCheck bytes) s = .next (settle (works j .erase { e with checking := false }))) ∧
      (∀ y, y < a ∨ a + 4096 ≤ y → memRead j y = memRead s.journal y)) ∧
    (s.engine.current = some .erase →
      let j := memDecay (memErase s.journal a 4096) a 4096 bytes
      (blank j → exec (.eraseDone bytes) s = .next (settle (evalSpace (waitingSelects (ends j .erased .blank))))) ∧
      (¬ blank j → e.retried = false →
        exec (.eraseDone bytes) s = .next (settle (works j .erase { e with retried := true, count := 0 }))) ∧
      (¬ blank j → e.retried = true → ∃ bad : Memory, bad.wf = true ∧
        (∀ y, memRead bad y = if ∃ slot ∈ List.range 16, y = a + 256 * slot then 0x00#8 else memRead j y) ∧
        exec (.eraseDone bytes) s = .next (settle (evalSpace (waitingSelects
          (setFault .journalMedia (.sector e.sector) (ends bad .bad .badPattern)))))) ∧
      (∀ y, y < a ∨ a + 4096 ≤ y → memRead j y = memRead s.journal y))

/-- READ JOURNAL opens a stream at the oldest entry retained, or at the one asked for when it is later; with no such entry written
it sends the end block LATEST; STREAM END closes it, withdraws the read the port had waiting, and leaves one in hand to run to its
end, its bytes discarded (R137, R138). At the end of a read the port sends the block and the position rises by 1; the boundary after
a block is at the port's next JOURNAL_STREAM_READ, where the read comes to wait and, when the free engine takes it, ends (log 70);
one on a port with no stream, or with its read already waiting, does nothing (log 8). A READ JOURNAL on a port that still streams
starts a new stream (log 35), a position that no retained entry carries sends no block and goes on with the next number (log 55),
and the recorded blocks carry no wait bytes (log 22); bytes that read otherwise stay so in the array (log 7, all DESIGN CHOICE). The
codes of the blocks are R211's. The last six clauses give the whole state before the engine takes its next work. -/
def Obligations.JournalStreams : Prop :=
  ∀ (p : Port) (receipt : Word) (decay : List (Nat × Byte)) (s : State), s.powered = true →
    let n := max receipt.toNat (s.oldest.getD 0)
    let last (code : Byte) (u : State) : State := u.updPort p (fun c => { c with
      stream := none, dataOut := c.dataOut ++ 0xB5#8 :: code :: List.replicate 255 0#8 })
    let boundary (k : Nat) (u : State) : State :=
      if ∃ m ∈ u.newestDone, k ≤ m then
        { u.updPort p (fun c => { c with stream := some k }) with
          engine := { u.engine with reads := u.engine.reads ++ [.stream p] } }
      else last 0x01#8 u
    let sent (k : Nat) (u : State) : State :=
      if ∃ m ∈ u.newestDone, k ≤ m then u.updPort p (fun c => { c with stream := some k }) else last 0x01#8 u
    let inHand (u : State) : Prop := ∃ live, u.engine.current = some (.stream p live)
    let closed (u : State) : State := { u.updPort p (fun c => { c with stream := none }) with
      engine := { u.engine with
        current := if ∃ live, u.engine.current = some (.stream p live) then some (.stream p false) else u.engine.current
        reads := u.engine.reads.filter (fun r => r != .stream p) } }
    let done : State := { s with engine := { s.engine with current := none } }
    (s.scanned = true → (∃ m, s.newestDone = some m ∧ n ≤ m) →
      ∃ t, exec (.readJournal p receipt) s = .next t ∧ (t.port p).stream = some n ∧ (t.port p).dataOut = [] ∧
        (t.port p).state = (s.port p).state ∧ t.journal = s.journal ∧ t.tickets = s.tickets ∧ t.clock = s.clock) ∧
    (s.scanned = true → (∀ m, s.newestDone = some m → m < n) →
      ∃ t, exec (.readJournal p receipt) s = .next t ∧ (t.port p).stream = none ∧
        (t.port p).dataOut = 0xB5#8 :: 0x01#8 :: List.replicate 255 0#8 ∧ t.journal = s.journal) ∧
    (s.scanned = false →
      ∃ t, exec (.readJournal p receipt) s = .next t ∧ (t.port p).stream = none ∧
        (t.port p).dataOut = 0xB5#8 :: 0x02#8 :: List.replicate 255 0#8 ∧ t.journal = s.journal) ∧
    (∃ t, exec (.streamEnd p) s = .next t ∧ (t.port p).stream = none ∧ (t.port p).state = (s.port p).state ∧
      (t.port p).result = (s.port p).result ∧ (∀ q, q ≠ p → (t.port q).stream = (s.port q).stream) ∧
      t.journal = s.journal ∧ t.tickets = s.tickets ∧ t.clock = s.clock) ∧
    (∀ k i slot, s.engine.current = some (.stream p true) → (s.port p).stream = some k → s.lookup k = some (i, slot) →
      let j := memDecay s.journal (entryAddr i slot) 256 decay
      ∃ t, exec (.journalStreamRead p decay) s = .next t ∧ t.journal = j ∧
        ((∃ m, s.newestDone = some m ∧ k + 1 ≤ m) → (t.port p).stream = some (k + 1) ∧
          (t.port p).dataOut = (s.port p).dataOut ++ 0xB5#8 :: memBytes j (entryAddr i slot) 256) ∧
        ((∀ m, s.newestDone = some m → m < k + 1) → (t.port p).stream = none ∧
          (t.port p).dataOut = (s.port p).dataOut ++ 0xB5#8 :: memBytes j (entryAddr i slot) 256 ++
            0xB5#8 :: 0x01#8 :: List.replicate 255 0#8) ∧
        t.tickets = s.tickets ∧ t.clock = s.clock ∧ t.settings = s.settings) ∧
    (let opened := closed (s.updPort p (fun c => { c with summaryOut := summaryByte c, dataOut := [] }))
     exec (.readJournal p receipt) s = .next (settle (if s.scanned then boundary n opened else last 0x02#8 opened))) ∧
    exec (.streamEnd p) s = .next (settle (closed s)) ∧
    (s.engine.current = some (.stream p false) → exec (.journalStreamRead p decay) s = .next (settle done)) ∧
    (∀ k, s.engine.current = some (.stream p true) → (s.port p).stream = some k →
      exec (.journalStreamRead p decay) s = .next (settle (match s.lookup k with
        | none => boundary (k + 1) done
        | some (i, slot) =>
          let j := memDecay s.journal (entryAddr i slot) 256 decay
          sent (k + 1) (({ done with journal := j } : State).updPort p (fun c => { c with
            dataOut := c.dataOut ++ 0xB5#8 :: memBytes j (entryAddr i slot) 256 }))))) ∧
    (¬ inHand s → (s.port p).stream = none ∨ .stream p ∈ s.engine.reads → exec (.journalStreamRead p decay) s = .next s) ∧
    (∀ k, ¬ inHand s → .stream p ∉ s.engine.reads → (s.port p).stream = some k →
      let u := settle (boundary k s)
      (inHand u → exec (.journalStreamRead p decay) s = exec (.journalStreamRead p decay) u) ∧
      (¬ inHand u → exec (.journalStreamRead p decay) s = .next u))

/-- An end event that names no operation in hand does nothing (log 8), but for a JOURNAL_STREAM_READ on a stream between two
blocks, which brings its read to wait (log 70, both DESIGN CHOICE). -/
def Obligations.EndsOfNothing : Prop :=
  ∀ (s : State), s.engine.current = none → s.pe.activity = .idle → s.pe.queryTimer = none →
    (∀ a b c, exec (.commitHeader a b c) s = .next s ∧ exec (.commitBody a b c) s = .next s ∧
      exec (.commitComplete a b c) s = .next s) ∧
    (∀ sc a, exec (.calibrationRecordWritten sc a) s = .next s ∧ exec (.calibrationLockWritten sc a) s = .next s) ∧
    (∀ a b, exec (.printedMark a b) s = .next s ∧ exec (.auditMark a) s = .next s) ∧
    (∀ d, exec (.blankCheck d) s = .next s ∧ exec (.eraseDone d) s = .next s ∧ exec (.printFetch d) s = .next s) ∧
    (∀ p d, (s.port p).stream = none ∨ .stream p ∈ s.engine.reads → exec (.journalStreamRead p d) s = .next s) ∧
    (∀ good, exec (.storeErase good) s = .next s ∧ exec (.storeImageProgram good) s = .next s ∧
      exec (.storeValidMark good) s = .next s) ∧
    exec .endOfJobSent s = .next s ∧ exec .responseTimeout s = .next s ∧ exec .statusQueryTimeout s = .next s

/-- The end of an event lets the print engine and the program engine take what waits, one thing after another, and then tests the
drain: it changes no ticket, no money, no setting, no clock, no byte of the array and no result. In CONFIG_PENDING with the five
conditions of R197 met it enters CONFIG (R198). What is taken, in this order: the QUEUED job of lowest age, when R148's conditions
hold, of two of one age the one in the lower slot (log 14, DESIGN CHOICE); the suspension of a running erase-ahead erase whose count
is below 16, when a read or a write waits (R128); and for a free engine, by R127, the read that waits longest, the write that waits
longest (a calibration record's with its slot), then, with no erase suspended, the oldest PRINTED mark, whose request is dropped
when its entry is not COMPLETE in the map, and the next audit mark. The resumption and the start of an erase are commands of their
own. A print fetch is held back while 16 marks are pending (R129), and then does not count as waiting (log 10, DESIGN CHOICE). R128
speaks of an operation that comes to wait while the erase runs; that one which waited before the erase began suspends it too is log
50, DESIGN CHOICE. The slot that a calibration record takes and its count in the slots used are log 33, DEDUCED; that 128 passes are
enough is log 48, DESIGN CHOICE. The next blank slot of a calibration area is the first from one on, or when none follows the first
of all. -/
def Obligations.EventEndsQuietly : Prop :=
  (∀ (area : CalArea) (n : Nat),
    let blank (i : Nat) : Prop := i < 64 ∧ ∀ k, k < 32 → memRead area.slots (32 * i + k) = 0xFF#8
    (∀ i, blank i → n ≤ i → (∀ k, n ≤ k → k < i → ¬ blank k) → calBlank area n = i) ∧
    (∀ i, blank i → (∀ k, n ≤ k → ¬ blank k) → (∀ k, k < i → ¬ blank k) → calBlank area n = i)) ∧
  (∀ s : State, settle s = drainTest (pump 128 s) ∧ pump 0 s = s) ∧
  (∀ (n : Nat) (s t : State), (pumpOnce s = some t → pump (n + 1) s = pump n t) ∧ (pumpOnce s = none → pump (n + 1) s = s)) ∧
  (∀ s : State,
    let drained := (∀ sc, (s.chan sc).capture = none) ∧ s.commitQueue = [] ∧ s.settlements = [] ∧
      (∀ slot j, s.job slot = some j → j.state ≠ .printing) ∧ s.pass = none ∧ s.storeWrite = none
    (s.mode = .configPending → drained → drainTest s = enterConfigMode s) ∧
    (s.mode ≠ .configPending ∨ ¬ drained → drainTest s = s)) ∧
  (∀ s : State,
    let queued (slot : Nat) (j : Job) : Prop := slot < 16 ∧ s.job slot = some j ∧ j.state = .queued
    let prints := s.pe.activity = .idle ∧ paused s.pe = false ∧ s.pe.link ≠ .offline ∧ s.mode = .run ∧ ∃ slot j, queued slot j
    let held (r : ReadReq) : Prop := r = .fetch ∧ 16 ≤ s.pendingMarks.length
    let noRead := ∀ r ∈ s.engine.reads, held r
    let suspends (e : EraseJob) : Prop := s.engine.current = some .erase ∧ s.engine.erase = some e ∧ e.count < 16 ∧
      ¬ (noRead ∧ s.engine.writes = [])
    let free := ¬ prints ∧ s.engine.current = none
    let takes (op : EngineOp) (e : Engine) : State := { s with engine := { e with current := some op } }
    (∀ slot j, prints → queued slot j →
      (∀ i k, queued i k → j.age < k.age ∨ (j.age = k.age ∧ slot ≤ i)) →
      let w : State := { s with jobs := s.jobs.set slot (some { j with state := .printing }) }
      pumpOnce s = some (if j.kind = .tally then { w with pe := { s.pe with
          activity := .sending, job := some slot, tx := jobText s j false (s.snapshot.elim [] (tallyBody s)) } }
        else { w with
          pe := { s.pe with activity := .fetching, job := some slot }
          engine := { s.engine with reads := s.engine.reads ++ [.fetch] } })) ∧
    (∀ e, ¬ prints → suspends e → pumpOnce s = some { s with engine := { s.engine with
      current := none, erase := some { e with suspended := true, count := e.count + 1 } } }) ∧
    (¬ prints → s.engine.current ≠ none → (∀ e, ¬ suspends e) → pumpOnce s = none) ∧
    (∀ before r after, free → s.engine.reads = before ++ r :: after → (∀ x ∈ before, held x) → ¬ held r →
      let e := { s.engine with reads := before ++ after }
      let n := ((s.pe.job.bind s.job).bind (·.receipt)).getD 0
      (∀ p, r = .stream p → pumpOnce s = some (takes (.stream p true) e)) ∧
      (r = .fetch → s.lookup n ≠ none → pumpOnce s = some (takes (.fetch n true) e)) ∧
      (r = .fetch → s.lookup n = none → pumpOnce s = some (abandonFetch 2 { s with engine := e }))) ∧
    (∀ w ws, free → noRead → s.engine.writes = w :: ws →
      let e := { s.engine with writes := ws }
      (∀ x ∈ [(WriteReq.commitStep, EngineOp.commitStep), (.storeErase, .storeErase), (.storeImage, .storeImage),
        (.storeMark, .storeMark)], w = x.1 → pumpOnce s = some (takes x.2 e)) ∧
      (∀ sc, w = .calLock sc → pumpOnce s = some (takes (.calLock sc) e)) ∧
      (∀ sc, w = .calRecord sc → pumpOnce s = some ((takes (.calRecord sc) e).updChan sc (fun c => { c with
        slotsUsed := c.slotsUsed + 1, nextSlot := calBlank (s.cal.get sc) c.nextSlot + 1 })))) ∧
    (free → noRead → s.engine.writes = [] →
      (s.engine.erase ≠ none → pumpOnce s = none) ∧
      (∀ m ms, s.engine.erase = none → s.pendingMarks = m :: ms → pumpOnce s =
        if s.entryMark m.receipt = some .complete then some (takes (.printedMark false) s.engine)
        else some { s with pendingMarks := ms }) ∧
      (s.engine.erase = none → s.pendingMarks = [] → pumpOnce s =
        if s.pass = none then none else some (takes (.auditMark false) s.engine)))) ∧
  ∀ (s : State) (p : Port),
    (settle s).tickets = s.tickets ∧ (settle s).settings = s.settings ∧ (settle s).clock = s.clock ∧
    (settle s).clockSet = s.clockSet ∧ (settle s).journal = s.journal ∧ (settle s).cal = s.cal ∧
    (settle s).store = s.store ∧ (settle s).storeWrite = s.storeWrite ∧ (settle s).tares = s.tares ∧
    (settle s).holds = s.holds ∧ (settle s).tally = s.tally ∧ (settle s).snapshot = s.snapshot ∧
    (settle s).sectors = s.sectors ∧ (settle s).counter = s.counter ∧ (settle s).commitQueue = s.commitQueue ∧
    (settle s).head = s.head ∧ (settle s).settlements = s.settlements ∧ (settle s).calJobs = s.calJobs ∧
    (settle s).pass = s.pass ∧ (settle s).faults = s.faults ∧ (settle s).nextTicket = s.nextTicket ∧
    (settle s).dirty = s.dirty ∧ (settle s).pending = s.pending ∧
    ((settle s).port p).state = (s.port p).state ∧ ((settle s).port p).result = (s.port p).result ∧
    ((settle s).port p).enabled = (s.port p).enabled ∧ ((settle s).port p).filter = (s.port p).filter ∧
    ((settle s).port p).overrun = (s.port p).overrun ∧ ((settle s).port p).stream = (s.port p).stream ∧
    ((settle s).mode = s.mode ∨ (s.mode = .configPending ∧ (settle s).mode = .config))

/-! ## Printing -/

/-- What becomes of the print job in hand. Its fetch ends (R130, R148): a good entry is laid out and sent, the job becoming a
DUPLICATE when its entry was printed before; a failing body check sets JOURNAL_MEDIA and abandons the job with reason MEDIA (3), an
entry not retained with NOT_RETAINED (2), whether it is met at the end of the read or before it; a discarded fetch only reports its
check. The end-of-job byte starts the wait for the answer (R149), ACK in it ends the job in success (R150), ERR and a response
timeout, whatever its timer holds (log 2, DESIGN CHOICE), count an attempt, and the third abandons the job with ATTEMPTS (1) (R151,
R153, R154). At the slot that a job leaves the backlog walk is tested (R165). ACK and ERR end the wait after the query as any status
byte does, and with no job in hand, as in an engine that waits so, they do nothing else (R147, R157). The FAULT notice of a failing
body check comes before PRINT_ABANDONED (log 29, DESIGN CHOICE). The text sent is the header lines, the marker lines, the body by
the entry's kind and the closing line, each line ended by 0x0A, and the end-of-job byte (R149, R158, R214); each field of a body
stands on a line of its own, in R158's order, an absent one on none, and a TALLY's body is the snapshot's (R171); the words of the
labels are log 18, and a damaged entry whose body check holds is laid out as its bytes read, a grade byte 0 with grade 1's name (log
71). Bytes that read otherwise at a fetch stay so in the array (log 7), and PRINT_DONE has no reason byte (log 58, all DESIGN
CHOICE). `u` is the state before the engines take their next work. -/
def Obligations.PrintJobsProceed : Prop :=
  (∀ (s : State) (k : Job) (timeUnset : Bool) (body : List (List Byte)),
    let marker (on : Bool) (word : String) : List (List Byte) := if on then [padRight (ascii word)] else []
    jobText s k timeUnset body = (s.settings.headers ++ marker (k.kind == .duplicate) "DUPLICATE" ++
      marker k.restarted "RESTARTED" ++ marker timeUnset "TIME NOT SET" ++ body ++ [List.replicate 32 0x2D#8]).flatMap
        (fun l => l ++ [0x0A#8]) ++ [0x1D#8]) ∧
  (∀ (label : String) (value : List Byte),
    let l := ascii label
    let spaces (n : Nat) : List Byte := List.replicate n 0x20#8
    (l.length + value.length ≤ 32 → field label value = [l ++ spaces (32 - l.length - value.length) ++ value]) ∧
    (l.length ≤ 32 → 32 < l.length + value.length →
      field label value = [l ++ spaces (32 - l.length), spaces (32 - value.length) ++ value])) ∧
  fixedPoint 1 97220 = ascii "9722.0" ∧ fixedPoint 2 97220 = ascii "972.20" ∧ fixedPoint 3 97 = ascii "0.097" ∧
  decimal 4294967295 = ascii "4294967295" ∧ dateTime 5097600 = ascii "2000-02-29 00:00:00" ∧
  dateTime 36633599 = ascii "2001-02-27 23:59:59" ∧
  (∀ (s : State) (e : List Byte),
    let num (label : String) (off len : Nat) := field label (decimal (entryNat e off len))
    let time (label : String) (off : Nat) := field label (dateTime (entryNat e off 4))
    let kg (label : String) (w : Nat) := field label (fixedPoint 1 w)
    let word (w : String) : List (List Byte) := [padRight (ascii w)]
    let shown (on : Bool) (ls : List (List Byte)) : List (List Byte) := if on then ls else []
    let opt (label : String) (v : Option (List Byte)) : List (List Byte) := v.elim [] (field label)
    let closed := entryFlag e 1
    let ticket := num "TICKET NUMBER" 18 2 ++ time "OPENED TIME" 20
    let ids := opt "VEHICLE ID" (entryText e 28 10) ++ opt "SELLER ID" (entryText e 39 16)
    let grade (l : Line) : List (List Byte) := [padRight (decimal l.grade ++ [0x20#8] ++ (s.grade l.grade).name)]
    let counters := num "CALIBRATION COUNTER A" 60 1 ++ num "CALIBRATION COUNTER B" 61 1 ++ num "CALIBRATION COUNTER P" 62 1
    let total := field "TOTAL" (fixedPoint 2 (entryNat e 200 4))
    (entryKind e = .payout → entryBody s e =
      num "RECEIPT NUMBER" 1 4 ++ time "COMMITTED TIME" 6 ++ ticket ++ shown closed (time "CLOSED TIME" 24) ++ ids ++
      (entryLines e).flatMap (fun l => grade l ++ kg "NET WEIGHT" l.net ++ kg "DOCK WEIGHT" l.dock ++
        kg "PAYABLE WEIGHT" (l.net - l.dock) ++ opt "LATCHED PRICE" (l.price.map (fixedPoint 3)) ++
        opt "AMOUNT" (l.amount.map (fixedPoint 2))) ++
      shown closed ((if entryFlag e 2 then field "TARE SOURCE" (ascii "STORED") ++ kg "STORED TARE WEIGHT" (entryNat e 56 4)
        else field "TARE SOURCE" (ascii "WEIGHED")) ++ total) ++
      (if entryFlag e 4 then word "HOLD ENDED EARLY" else shown (entryFlag e 3) (time "HOLD EXPIRY" 64)) ++ counters) ∧
    (entryKind e = .void → entryBody s e =
      word "VOID" ++ num "RECEIPT NUMBER" 1 4 ++ time "COMMITTED TIME" 6 ++ num "VOID REASON" 63 1 ++ ticket ++ ids ++
      (entryLines e).flatMap (fun l => grade l ++ kg "NET WEIGHT" l.net ++ kg "DOCK WEIGHT" l.dock ++
        opt "PRICE" (l.price.map (fixedPoint 3)) ++ opt "AMOUNT" (l.amount.map (fixedPoint 2))) ++
      shown closed total ++ counters) ∧
    (entryKind e = .shift → entryBody s e =
      word "SHIFT CLOSE" ++ num "RECEIPT NUMBER" 1 4 ++ time "COMMITTED TIME" 6 ++ num "SHIFT NUMBER" 204 4 ++
      time "OPEN TIME" 208 ++ num "RECEIPTS COMMITTED" 212 4 ++ num "VOIDS" 216 4 ++ num "TORN ENTRIES FOUND" 220 4 ++
      field "TOTAL AMOUNT" (fixedPoint 2 (entryNat e 224 6)) ++ shown (entryNat e 230 1 != 0) (word "INCOMPLETE"))) ∧
  (∀ (s : State) (n : Snapshot),
    let num (label : String) (x : Nat) := field label (decimal x)
    tallyBody s n = [padRight (ascii "SHIFT TALLY")] ++ num "SHIFT NUMBER" n.tally.shift ++
      (if n.tally.incomplete then [padRight (ascii "INCOMPLETE")] else []) ++
      ((List.range 64).map (· + 1)).flatMap (fun g =>
        let f := n.tally.grades.getD (g - 1) ⟨0, 0, 0, 0⟩
        if f.lines = 0 then [] else
          [padRight (decimal g ++ [0x20#8] ++ (s.grade g).name)] ++ num "LINE COUNT" f.lines ++
          field "NET WEIGHT" (fixedPoint 1 f.net) ++ field "PAYABLE WEIGHT" (fixedPoint 1 f.payable) ++
          field "AMOUNT" (fixedPoint 2 f.amount)) ++
      field "TOTAL AMOUNT" (fixedPoint 2 n.tally.total) ++ num "RECEIPT NUMBER" n.receipt) ∧
  (∀ s : State, s.powered = true → s.inHand = none →
    exec .ack s = .next (settle (queryAnswered s)) ∧ exec .err s = .next (settle (queryAnswered s))) ∧
  ∀ (slot : Nat) (j : Job) (s : State), s.powered = true → s.pe.job = some slot → s.job slot = some j →
    let done : State := { s with engine := { s.engine with current := none } }
    let asked : State := { s with pe := { s.pe with pauseStart := false, queryTimer := none } }
    let answered := queryAnswered s
    (∀ n decay,
      let read (i place : Nat) : State := { done with journal := memDecay s.journal (entryAddr i place) 256 decay }
      let e (i place : Nat) := memBytes (read i place).journal (entryAddr i place) 256
      (∀ i place, s.engine.current = some (.fetch n true) → s.lookup n = some (i, place) → bodyHolds (e i place) = true →
        let first := j.kind = .original ∨ j.kind = .voidSlip ∨ j.kind = .shiftReport
        let printed := markOf (e i place) = .printed ∨ markOf (e i place) = .audited
        let k := { j with kind := if first ∧ printed then .duplicate else j.kind }
        exec (.printFetch decay) s = .next (settle { read i place with
          jobs := s.jobs.set slot (some k)
          pe := { s.pe with
            activity := .sending, tx := jobText s k (entryFlag (e i place) 0) (entryBody s (e i place)) } })) ∧
      (∀ i place, s.engine.current = some (.fetch n true) → s.lookup n = some (i, place) → bodyHolds (e i place) = false →
        ∃ u, exec (.printFetch decay) s = .next (settle u) ∧
          JobAbandoned slot j 3 (setFault .journalMedia (.receipt n) (read i place)) u) ∧
      (s.engine.current = some (.fetch n true) → s.lookup n = none →
        ∃ u, exec (.printFetch decay) s = .next (settle u) ∧ JobAbandoned slot j 2 done u) ∧
      (s.engine.current = some (.fetch n false) →
        exec (.printFetch decay) s = .next (settle (match s.lookup n with
          | none => done
          | some (i, place) => if bodyHolds (e i place) then read i place
              else setFault .journalMedia (.receipt n) (read i place))))) ∧
    (∀ reason, JobAbandoned slot j reason s (abandonFetch reason s)) ∧
    (s.lookup (j.receipt.getD 0) = none → JobAbandoned slot j 2
      { s with engine := { s.engine with reads := s.engine.reads.erase .fetch } } (takeRead .fetch s)) ∧
    (s.pe.activity = .sending → exec .endOfJobSent s = .next { s with
      pe := { s.pe with activity := .awaiting, responseTimer := some 5, sent := s.pe.tx, tx := [] } }) ∧
    (let n := s.pe.linkErrors - 4
     let link : Link := if s.pe.link = .offline ∨ 128 ≤ n then .offline else if 64 ≤ n then .warn else .normal
     let told : State := match j.port with
       | some p => offerTo p ⟨.printDone, some (j.receipt.getD 0), be 1 slot ++ be 1 (jobKindCode j.kind), s.clock⟩ answered
       | none => answered
     let counted : State := { told with pe := { asked.pe with linkErrors := n, link := link } }
     s.pe.activity = .awaiting → ∃ u, exec .ack s = .next (settle u) ∧
       JobLeaves slot { counted with
         pendingMarks := if j.kind = .original ∨ j.kind = .voidSlip ∨ j.kind = .shiftReport then
           s.pendingMarks ++ [⟨j.receipt.getD 0, s.clock⟩] else s.pendingMarks
         snapshot := if j.kind = .tally then none else s.snapshot
         ports := (if link = s.pe.link then counted else offerPrinterState counted).ports } u) ∧
    (s.pe.activity ≠ .awaiting → exec .ack s = .next (settle answered) ∧ exec .responseTimeout s = .next s) ∧
    (s.pe.activity ≠ .awaiting → s.pe.activity ≠ .sending → exec .err s = .next (settle answered)) ∧
    ∀ x ∈ [(Instr.err, false, answered), (.responseTimeout, true, s)],
      s.pe.activity = .awaiting ∨ (s.pe.activity = .sending ∧ x.1 = .err) →
      let n := min 255 (s.pe.linkErrors + 16)
      let link : Link := if s.pe.link = .offline ∨ 128 ≤ n then .offline else if 64 ≤ n then .warn else .normal
      let set : State := if s.pe.link ≠ .offline ∧ link = .offline then setFault .printerOffline (.attempt x.2.1) x.2.2 else x.2.2
      let counted : State := { set with pe := { set.pe with linkErrors := n, link := link } }
      let w : State := if link = s.pe.link then counted else offerPrinterState counted
      (j.attempts < 2 → exec x.1 s = .next (settle { w with
        jobs := s.jobs.set slot (some { j with attempts := j.attempts + 1, state := .retryWait, wait := 2 })
        pe := { w.pe with activity := .idle, job := none, responseTimer := none, tx := [] } })) ∧
      (2 ≤ j.attempts → ∃ u, exec x.1 s = .next (settle u) ∧
        JobAbandoned slot j 1 { w with snapshot := if j.kind = .tally then none else s.snapshot } u)

/-! ## Captures that meet a good frame -/

/-- A capture armed on the channel of a good frame, by the state that the frame leaves (R71): it waits and notes a load, fails
with VEHICLE_LEFT or SCALE_FAULT, or completes with the weight (R72). A GROSS below the minimum load fails with BELOW_MIN, a DROP
or TARE not below the last weighing by a division with ORDER (R73); else the weighing is appended (R48), a GROSS makes the ticket
ON_YARD, a DROP attributes the difference to its grade (R49), a TARE does so and closes the ticket, HELD when a restricted line
brings hold hours, else PAYABLE (R51 to R53), and WEIGHED goes to the arming port. An expiry past 32 bits is a free value, which
advances the model's own index `free` (log 14, DESIGN CHOICE). A STORE_TARE is placed by R35, over the
vehicle's own entry, in the lowest free slot, or over the oldest expired entry, or fails with TARE_TABLE_FULL (R74); the ticket
state of its WEIGHED is the absent marker 0xFF (log 63). A capture whose ticket is gone, which no run reaches, is removed with no
notice (log 48, both DESIGN CHOICE). The states given are those before the drain test. -/
def Obligations.CapturesComplete : Prop :=
  ∀ (sc : Scale) (bytes : List RxByte) (k : Capture) (s : State), GoodFrameArrives sc bytes s → (s.chan sc).capture = some k →
    let c := frameChannel sc bytes s
    let chans (capture : Option Capture) := s.channels.set sc { c with capture := capture }
    let heard : State := { s with ports := scaleHeard sc c s }
    let cleared := match k.ticket with
      | some n => s.tickets.map (fun t => if t.number = n then { t with capture := none } else t)
      | none => s.tickets
    let answers (u : State) : Prop := exec (.digitizerFrame sc bytes) s = .next (drainTest u)
    let waits (loadSeen : Bool) : Prop :=
      answers { heard with channels := chans (some { k with loadSeen := loadSeen }) }
    let fails (reason : CaptureFailure) (w : Option Int) : Prop := answers { heard with
      channels := chans none, tickets := cleared
      ports := (offerTo k.port ⟨.weighFailed, some (k.ticket.getD 0), be 1 (scaleCode sc) ++ be 1 (captureCode k.kind) ++
        be 1 (failureCode reason) ++ beIntOpt 4 w ++ sizedOpt k.vehicle, s.clock⟩ heard).ports }
    let weighed (subject state : Nat) (w : Int) (x : State) : PerPort PortCtx := (offerTo k.port ⟨.weighed, some subject,
      be 1 (scaleCode sc) ++ be 1 (captureCode k.kind) ++ beInt 4 w ++ be 1 state, s.clock⟩ x).ports
    let tablePlaces (w : Int) : Prop :=
      let v := k.vehicle.getD []
      let places (i : Nat) : Prop := answers { heard with
        channels := chans none, tickets := cleared, ports := weighed i 255 w heard
        tares := s.tares.set i (some ⟨v, scaleClass sc, w, s.clock⟩) }
      let expired (i : Nat) (e : Tare) := i < 32 ∧ s.tareAt i = some e ∧ e.time + s.settings.tareValidity * 86400 ≤ s.clock
      let free := s.tares.findIdx? Option.isNone
      (∀ i, s.tareSlot v = some i → places i) ∧
      (∀ i, s.tareSlot v = none → free = some i → places i) ∧
      (∀ i e, s.tareSlot v = none → free = none → expired i e →
        (∀ i' e', expired i' e' → e.time < e'.time ∨ (e.time = e'.time ∧ i ≤ i')) → places i) ∧
      (s.tareSlot v = none → free = none → (∀ i e, ¬ expired i e) → fails .tareTableFull none)
    let ticketTakes (w : Int) (t : Ticket) : Prop :=
      let t' : Ticket := { t with weighings := t.weighings ++ [⟨sc, k.kind, w, s.clock, k.grade⟩], capture := none }
      let put (x : Ticket) := s.tickets.map (fun y => if y.number = t.number then x else y)
      let net := attributeWeight (k.grade.getD 0) (lastWeight t - w).toNat t.lines
      let priced := net.map (priceLine s)
      let closed : Ticket := { t' with
        lines := priced, tareSource := some .weighed, closedTime := some s.clock
        total := some (priced.map (fun l => l.amount.getD 0)).sum }
      let hours := holdHours s net
      (k.kind = .gross → w < minimumLoad sc → fails .belowMin (some w)) ∧
      (k.kind = .gross → minimumLoad sc ≤ w → answers { heard with
        channels := chans none, tickets := put { t' with state := .onYard }, ports := weighed t.number 1 w heard }) ∧
      (k.kind ≠ .gross → lastWeight t - w < division sc → fails .order (some w)) ∧
      (k.kind = .drop → division sc ≤ lastWeight t - w → answers { heard with
        channels := chans none, tickets := put { t' with lines := net }
        ports := weighed t.number (ticketStateCode t.state) w heard }) ∧
      (k.kind = .tare → division sc ≤ lastWeight t - w → hours = 0 → answers { heard with
        channels := chans none, tickets := put { closed with state := .payable }
        ports := weighed t.number 3 w (broadcast ⟨.ticketPayable, some t.number, [1#8], s.clock⟩ heard) }) ∧
      (k.kind = .tare → division sc ≤ lastWeight t - w → 0 < hours → ∃ expiry free,
        (s.clock + hours * 3600 < 2 ^ 32 → expiry = s.clock + hours * 3600 ∧ free = s.free) ∧
        answers { heard with
          channels := chans none, tickets := put { closed with state := .held, hold := some ⟨expiry, false⟩ }
          holds := placeHold ⟨t.number, expiry⟩ s.holds, free := free, ports := weighed t.number 2 w heard })
    let completes (w : Int) : Prop :=
      (k.kind = .storeTare → tablePlaces w) ∧
      (k.kind ≠ .storeTare → ∀ t, k.ticket.bind s.ticket = some t → ticketTakes w t) ∧
      (k.kind ≠ .storeTare → k.ticket.bind s.ticket = none → answers { heard with channels := chans none, tickets := cleared })
    let weighsEmpty := sc = .p ∧ k.kind = .tare
    (c.state = .moving ∨ c.state = .overload → waits true) ∧
    (c.state = .fault → fails .scaleFault none) ∧
    (∀ w, c.state = .stable → c.weight = some w → completes w) ∧
    (c.state = .empty → ¬ weighsEmpty → k.loadSeen = true → fails .vehicleLeft none) ∧
    (c.state = .empty → ¬ weighsEmpty → k.loadSeen = false → waits false) ∧
    (∀ w, c.state = .empty → weighsEmpty → c.weight = some w → (s.scaleSettings sc).settle ≤ c.motion →
      completes (if w < 0 then 0 else w)) ∧
    (c.state = .empty → weighsEmpty → c.weight = none ∨ c.motion < (s.scaleSettings sc).settle → waits k.loadSeen)

/-! ## The printer's bytes and its queue -/

/-- The printer's status bytes (R147, R156, R157), each with the whole state before the engines take their next work: PAPER_LOW
notes the paper; PAPER_OUT and COVER_OPEN pause the engine, whose job returns to QUEUED as RESTARTED, its fetch withdrawn or, when
in hand, left to be discarded; READY and the end of the wait after the query take the pauses away. PRINTER_STATE is offered when
what it reports has changed (R146), and at every PAPER_OUT and COVER_OPEN (log 20, DEDUCED). STATUS_QUERY_TIMEOUT ends that wait
whatever its timer holds (log 2, DESIGN CHOICE). -/
def Obligations.StatusBytes : Prop :=
  (∀ s : State, offerPrinterState s = { s with ports := printerHeard s.pe s }) ∧
  ∀ s : State, s.powered = true →
    exec .paperLow s = .next (settle (printerBecomes { s.pe with paper := .low, pauseStart := false, queryTimer := none } s)) ∧
    (∀ x ∈ [(Instr.paperOut, { s.pe with paper := .out, pausePaper := true, pauseStart := false, queryTimer := none }),
        (.coverOpen, { s.pe with cover := .opened, pauseCover := true, pauseStart := false, queryTimer := none })],
      (s.inHand = none → exec x.1 s = .next (settle { s with pe := x.2, ports := printerHeard x.2 s })) ∧
      (∀ slot j, s.inHand = some (slot, j) → exec x.1 s = .next (settle { s with
        jobs := s.jobs.set slot (some { j with state := .queued, restarted := true })
        pe := { x.2 with activity := .idle, job := none, responseTimer := none, tx := [] }
        engine := { s.engine with
          current := match s.engine.current with | some (.fetch n _) => some (.fetch n false) | op => op
          reads := s.engine.reads.filter (fun r => r != .fetch) }
        ports := printerHeard x.2 s }))) ∧
    (∀ x ∈ [Instr.ready, .statusQueryTimeout], (x = .statusQueryTimeout → s.pe.queryTimer ≠ none) →
      exec x s = .next (settle (printerBecomes { s.pe with
        paper := .ok, cover := .closed, pausePaper := false, pauseCover := false, pauseStart := false, queryTimer := none } s)))

/-- PRINT RECEIPT, CANCEL PRINT and RESTORE PRINTER refuse in the order of R159, R160 and R155, else queue a job in the lowest free
slot, remove one, and bring the link back to NORMAL. CANCEL PRINT names a slot from 0 to 15, and the kind and receipt number of the
job it holds, 0 for an absent number (check 3 of R160); the job leaves its slot, every other job stays, and a TALLY's snapshot is
emptied (R171). RESTORE PRINTER offers PRINTER_STATE when what it reports has changed (R146, R155). When its wait has run down a
RETRY_WAIT job returns to QUEUED with its age and attempts unchanged (R152; log 2). A job is created with the present age, and the
age counter rises (R144; past 32 bits to a free value, log 14); with no slot free, which the checks before each creation rule out,
no job is created (log 48). Each slot that is freed tests the backlog walk, which examines the entry at its next number while fewer
than 8 jobs without a port stand in the queue, a slot is free and the number is not past the end: an entry COMPLETE in the map with
no PRINTED mark pending and no first-print job for it is queued without a port, as ORIGINAL, VOID_SLIP or SHIFT_REPORT by the kind
its header had at the scan (a damaged kind byte gives one of the three: log 19); the next number then rises by 1, and the walk ends
when it passes the end number (R165). Logs 2, 14, 19 and 48 are DESIGN CHOICE. -/
def Obligations.PrintQueueRequests : Prop :=
  (∀ s : State,
    let firstPrint (j : Job) : Prop := j.kind = .original ∨ j.kind = .voidSlip ∨ j.kind = .shiftReport
    let stands : Prop := s.backlog = none ∨ ∃ b, s.backlog = some b ∧
      (8 ≤ s.jobs.countP (fun x => x.any (fun j => j.port.isNone)) ∨ none ∉ s.jobs ∨ b.last < b.next)
    (∀ n, s.markPending n = true ↔ ∃ m ∈ s.pendingMarks, m.receipt = n) ∧
    (∀ n, s.hasFirstPrint n = true ↔ ∃ j, some j ∈ s.jobs ∧ firstPrint j ∧ j.receipt = some n) ∧
    (∀ slot, removeJob slot s = slotFreed slot s ∧
      slotFreed slot s = testBacklog { s with jobs := s.jobs.set slot none }) ∧
    (stands → testBacklog s = s) ∧
    (∀ b, s.backlog = some b → ¬ stands →
      let n := b.next
      let goesOn (x : State) : State := testBacklog { x with backlog := if n = b.last then none else some ⟨n + 1, b.last⟩ }
      let unprinted := s.entryMark n = some .complete ∧ (∀ m ∈ s.pendingMarks, m.receipt ≠ n) ∧
        ∀ j, some j ∈ s.jobs → firstPrint j → j.receipt ≠ some n
      (¬ unprinted → testBacklog s = goesOn s) ∧
      (∀ i slot, unprinted → s.lookup n = some (i, slot) →
        let byte := (s.sector i).kinds.getD slot 0#8
        ∃ kind, testBacklog s = goesOn (createJob kind (some n) none .queued s) ∧
          (kind = .original ∨ kind = .voidSlip ∨ kind = .shiftReport) ∧ (byte = 1#8 → kind = .original) ∧
          (byte = 2#8 → kind = .voidSlip) ∧ (byte = 3#8 → kind = .shiftReport))) ∧
    (∃ jobs backlog ageCounter free, testBacklog s = { s with
      jobs := jobs, backlog := backlog, ageCounter := ageCounter, free := free })) ∧
  [EntryKind.payout, .void, .shift].map printKind = [JobKind.original, .voidSlip, .shiftReport] ∧
  (∀ (p : Port) (receipt : Word) (slot kind : Byte) (s : State), Taking p s →
     let n := receipt.toNat
     let mark := s.entryMark n
     let first := mark = some .complete ∧ s.markPending n = false
     exec (.printReceipt p receipt) s = .next (
       if s.role p ≠ .window ∧ s.role p ≠ .office then answered p .role [] s
       else if s.mode ≠ .run then answered p .mode [] s
       else if mark ≠ some .complete ∧ mark ≠ some .printed ∧ mark ≠ some .audited then answered p .range [] s
       else if first ∧ s.hasFirstPrint n = true then answered p .state [] s
       else if s.freeSlots = 0 then answered p .queueFull [] s
       else
         let k := if first then JobKind.original else .duplicate
         settle (reply p .ok (be 1 ((s.jobs.findIdx? Option.isNone).getD 16) ++ be 1 (jobKindCode k))
           (createJob k (some n) (some p) .queued (taken p s)))) ∧
     (let refused (code : ResultCode) : Prop := exec (.cancelPrint p slot kind receipt) s = .next (answered p code [] s)
      let named (j : Job) : Prop := slot.toNat ≤ 15 ∧ s.job slot.toNat = some j ∧ kind.toNat = jobKindCode j.kind ∧
        receipt.toNat = j.receipt.getD 0
      let admitted := s.role p = .window ∨ s.role p = .office
      (¬ admitted → refused .role) ∧
      (admitted → s.mode = .starting → refused .mode) ∧
      (admitted → s.mode ≠ .starting → (∀ j, ¬ named j) → refused .range) ∧
      (∀ j, admitted → s.mode ≠ .starting → named j →
        let own := s.role p = .office ∨ (j.kind = .duplicate ∧ j.port = some p)
        (¬ own → refused .role) ∧
        (own → j.state = .reserved → refused .state) ∧
        (own → j.state = .printing → refused .tooLate) ∧
        (own → j.state ≠ .reserved → j.state ≠ .printing →
          let freed := slotFreed slot.toNat (taken p s)
          let u : State := { taken p s with
            jobs := freed.jobs, backlog := freed.backlog, ageCounter := freed.ageCounter, free := freed.free
            snapshot := if j.kind = .tally then none else s.snapshot }
          exec (.cancelPrint p slot kind receipt) s =
            .next (settle (reply p .ok (be 1 (jobKindCode j.kind) ++ be 4 (j.receipt.getD 0)) u)) ∧
          SlotLeft slot.toNat u ∧ ∀ i k, i ≠ slot.toNat → s.job i = some k → u.job i = some k))) ∧
     exec (.restorePrinter p) s = .next (
       if s.role p ≠ .window ∧ s.role p ≠ .office then answered p .role [] s
       else if s.mode = .starting then answered p .mode [] s
       else settle (reply p .ok (be 1 s.pe.linkErrors)
         (printerBecomes { s.pe with linkErrors := 0, link := .normal } (taken p s))))) ∧
  (∀ (slot : Nat) (s : State), s.powered = true →
     (∀ j, s.job slot = some j → j.state = .retryWait →
       exec (.retryWait slot) s = .next (settle (s.setJob slot (some { j with state := .queued, wait := 0 })))) ∧
     ((∀ j, s.job slot = some j → j.state ≠ .retryWait) → exec (.retryWait slot) s = .next s)) ∧
  (∀ (kind : JobKind) (receipt : Option Nat) (port : Option Port) (st : JobState) (s : State),
     (none ∉ s.jobs → createJob kind receipt port st s = s) ∧
     ∀ i, s.jobs.findIdx? Option.isNone = some i → ∃ age free,
       (s.ageCounter + 1 < 2 ^ 32 → age = s.ageCounter + 1 ∧ free = s.free) ∧
       createJob kind receipt port st s = { s with
         jobs := s.jobs.set i (some ⟨kind, receipt, port, st, 0, false, s.ageCounter, 0⟩), ageCounter := age, free := free })

/-! ## Shift totals, grades and stored tares -/

/-- R28: SET PRICE replaces the live price of an active grade in RUN and sets the dirty flag; the stored price is not changed. -/
def Obligations.SetPriceAnswers : Prop :=
  ∀ (p : Port) (grade : Byte) (price : Tri) (s : State), Taking p s →
    let g := grade.toNat
    exec (.setPrice p grade price) s = .next (
      if s.role p ≠ .office then answered p .role [] s
      else if s.mode ≠ .run then answered p .mode [] s
      else if g = 0 ∨ 64 < g ∨ 99999 < price.toNat then answered p .range [] s
      else if ¬ ((s.grade g).defined ∧ (s.grade g).active) then answered p .grade [] s
      else reply p .ok (be 3 (s.grade g).live ++ be 3 price.toNat) { taken p s with
        dirty := true
        settings := { s.settings with grades := s.settings.grades.set (g - 1) { s.grade g with live := price.toNat } } })

/-- DEFINE GRADE writes a whole entry in CONFIG (R29). Bits of the flags operand above the two named are ignored (log 44, DESIGN
CHOICE). -/
def Obligations.DefineGradeAnswers : Prop :=
  ∀ (p : Port) (grade : Byte) (name : List Byte) (flags holdHours : Byte) (price : Tri) (s : State), Taking p s →
    exec (.defineGrade p grade name flags holdHours price) s = .next (
      if s.role p ≠ .office then answered p .role [] s
      else if s.mode ≠ .config then answered p .mode [] s
      else if grade.toNat = 0 ∨ 64 < grade.toNat ∨ nameOk name = false ∨ 72 < holdHours.toNat ∨ 99999 < price.toNat then
        answered p .range [] s
      else
        let e : Grade := ⟨true, name, flags.getLsbD 0, flags.getLsbD 1, holdHours.toNat, price.toNat, price.toNat⟩
        reply p .ok [] { taken p s with
          dirty := true, settings := { s.settings with grades := s.settings.grades.set (grade.toNat - 1) e } })

/-- READ GRADE answers with the entry as it is held and the dirty flag, and changes nothing else (R31). -/
def Obligations.ReadGradeAnswers : Prop :=
  ∀ (p : Port) (grade : Byte) (s : State), Taking p s →
    let e := s.grade grade.toNat
    exec (.readGrade p grade) s = .next (
      if s.mode = .starting then answered p .mode [] s
      else if grade.toNat = 0 ∨ 64 < grade.toNat then answered p .range [] s
      else answered p .ok ([grade] ++ [flag e.defined, flag e.active, flag e.restricted] ++ e.name ++ be 1 e.holdHours ++
        be 3 e.live ++ be 3 e.stored ++ [flag s.dirty]) s)

/-- DELETE TARE frees the slot of the vehicle's entry, valid or expired (R36). READ TARE answers by slot and by vehicle ID, and in
STARTING with MODE (R37; the free marker is log 15, an expiry past 32 bits log 14). A vehicle's entry is found by its ID, and it is
valid while the yard clock is below its stored time plus the validity period (R33). -/
def Obligations.StoredTareRequests : Prop :=
  (∀ (vehicle : List Byte) (s : State),
     (∀ i, s.tareSlot vehicle = some i → (∃ e, s.tareAt i = some e ∧ e.vehicle = vehicle) ∧
       ∀ k e, k < i → s.tareAt k = some e → e.vehicle ≠ vehicle) ∧
     (s.tareSlot vehicle = none → ∀ k e, s.tareAt k = some e → e.vehicle ≠ vehicle) ∧
     ∀ e, s.tareValid e = true ↔ s.clock < e.time + s.settings.tareValidity * 86400) ∧
  (∀ (p : Port) (vehicle : List Byte) (s : State), Taking p s →
     exec (.deleteTare p vehicle) s = .next (
       if s.role p ≠ .office then answered p .role [] s
       else if s.mode = .starting then answered p .mode [] s
       else if vehicle.length = 0 ∨ 10 < vehicle.length ∨ ∃ b ∈ vehicle, b.toNat < 0x20 ∨ 0x7E < b.toNat then
         answered p .range [] s
       else match s.tareSlot vehicle with
         | none => answered p .noTare [] s
         | some slot => reply p .ok [] { taken p s with tares := s.tares.set slot none })) ∧
  (∀ (p : Port) (what : TareKey) (s : State), Taking p s → s.mode = .starting →
     exec (.readTare p what) s = .next (answered p .mode [] s)) ∧
  (∀ (p : Port) (slot selector : Byte) (vehicle : List Byte) (s : State), Taking p s → s.mode ≠ .starting →
     let data (i : Nat) (e : Tare) (expiry : Nat) : List Byte :=
       be 1 i ++ sized e.vehicle ++ be 1 (classCode e.cls) ++ beInt 4 e.weight ++ be 4 e.time ++ [flag (s.tareValid e)] ++
         be 4 expiry
     let holds (c : Instr) (i : Nat) (e : Tare) : Prop :=
       ∃ expiry, (e.time + s.settings.tareValidity * 86400 < 2 ^ 32 → expiry = e.time + s.settings.tareValidity * 86400 ∧
           exec c s = .next (answered p .ok (data i e expiry) s)) ∧
         (2 ^ 32 ≤ e.time + s.settings.tareValidity * 86400 →
           exec c s = .next (reply p .ok (data i e expiry) { taken p s with free := s.free + 1 }))
     (31 < slot.toNat → exec (.readTare p (.slot slot)) s = .next (answered p .range [] s)) ∧
     (slot.toNat ≤ 31 → s.tareAt slot.toNat = none →
       exec (.readTare p (.slot slot)) s = .next (answered p .ok [slot, 0xFF#8] s)) ∧
     (∀ e, slot.toNat ≤ 31 → s.tareAt slot.toNat = some e → holds (.readTare p (.slot slot)) slot.toNat e) ∧
     (selector ≠ 1#8 ∨ idOk 1 10 vehicle = false →
       exec (.readTare p (.id selector vehicle)) s = .next (answered p .range [] s)) ∧
     (idOk 1 10 vehicle = true → s.tareSlot vehicle = none →
       exec (.readTare p (.id 1#8 vehicle)) s = .next (answered p .noTare [] s)) ∧
     (∀ i e, idOk 1 10 vehicle = true → s.tareSlot vehicle = some i → s.tareAt i = some e →
       holds (.readTare p (.id 1#8 vehicle)) i e))
end

