-- ==== Sys2Proof/Laws/Ring.lean ====
section
/-! SUPPORT. What the sector map shows: which numbers are retained, and where the audit mark stands (R117, R121). -/

namespace Sys2Proof.Machine

/-- A number of a list is at least the lowest. -/
theorem minOf_le {l : List Nat} {x : Nat} (h : x ∈ l) : ∃ m, minOf l = some m ∧ m ≤ x := by
  have fold : ∀ (l : List Nat) (a : Nat), l.foldl min a ≤ a ∧ ∀ x ∈ l, l.foldl min a ≤ x := by
    intro l
    induction l with
    | nil => intro a; simp
    | cons b l ih =>
      intro a
      obtain ⟨h1, h2⟩ := ih (min a b)
      refine ⟨by rw [List.foldl_cons]; omega, fun x hx => ?_⟩
      rw [List.foldl_cons]
      rcases List.mem_cons.mp hx with rfl | hx
      · omega
      · exact h2 x hx
  cases l with
  | nil => cases h
  | cons a l =>
    refine ⟨_, rfl, ?_⟩
    rcases List.mem_cons.mp h with rfl | h
    · exact (fold l _).1
    · exact (fold l a).2 x h

/-- A number of a list is at most the highest. -/
theorem le_maxOf {l : List Nat} {x : Nat} (h : x ∈ l) : ∃ m, maxOf l = some m ∧ x ≤ m := by
  have fold : ∀ (l : List Nat) (a : Nat), a ≤ l.foldl max a ∧ ∀ x ∈ l, x ≤ l.foldl max a := by
    intro l
    induction l with
    | nil => intro a; simp
    | cons b l ih =>
      intro a
      obtain ⟨h1, h2⟩ := ih (max a b)
      refine ⟨by rw [List.foldl_cons]; omega, fun x hx => ?_⟩
      rw [List.foldl_cons]
      rcases List.mem_cons.mp hx with rfl | hx
      · omega
      · exact h2 x hx
  cases l with
  | nil => cases h
  | cons a l =>
    refine ⟨_, rfl, ?_⟩
    rcases List.mem_cons.mp h with rfl | h
    · exact (fold l _).1
    · exact (fold l a).2 x h

/-- A place of a number is a slot of a sector whose range holds the number, below what that sector retains. -/
theorem mem_places {s : State} {k i slot : Nat} :
    (i, slot) ∈ s.places k ↔ i < 32 ∧ slot < s.extent i ∧ holdsEntries (s.sector i) = true ∧
      ∃ f, (s.sector i).first = some f ∧ f ≤ k ∧ k ≤ f + 15 ∧ slot = k - f := by
  unfold State.places State.slotIn inSector sectorIndexes
  rcases hf : (s.sector i).first with _ | f <;>
  simp only [List.mem_filterMap, List.mem_range, Option.map_eq_some_iff, Option.ite_none_right_eq_some, Bool.and_eq_true,
    decide_eq_true_eq, Option.some.injEq, Prod.mk.injEq]
  · constructor
    · rintro ⟨_, _, _, ⟨⟨⟨_, h⟩, _⟩, _⟩, rfl, _⟩
      simp [hf] at h
    · simp
  · constructor
    · rintro ⟨_, hi, _, ⟨⟨⟨h1, h2⟩, h3⟩, rfl⟩, rfl, rfl⟩
      simp only [hf, Bool.and_eq_true, decide_eq_true_eq, Option.getD_some] at h2 h3
      exact ⟨hi, by simpa [hf] using h3, h1, f, rfl, h2.1, h2.2, by simp [hf]⟩
    · rintro ⟨hi, h3, h1, _, rfl, h4, h5, rfl⟩
      exact ⟨i, hi, k - f, ⟨⟨⟨h1, by simp [hf, h4, h5]⟩, by simpa [hf] using h3⟩, by simp [hf]⟩, rfl, rfl⟩

/-- A number is looked up as one of its places, and is not retained when it has none. -/
theorem lookup_spec (s : State) (k : Nat) :
    (s.lookup k = none ↔ s.places k = []) ∧ ∀ x, s.lookup k = some x → x ∈ s.places k := by
  unfold State.lookup
  exact ⟨List.head?_eq_none_iff, fun x h => List.mem_of_mem_head? h⟩

/-- A number has an entry to audit exactly when one of its places does not carry AUDITED. -/
theorem unaudited_isSome {s : State} {k : Nat} :
    (s.unaudited k).isSome = true ↔ ∃ x ∈ s.places k, s.slotMark x.1 x.2 ≠ .audited := by
  simp [State.unaudited]

/-- The entry to audit is a place of its number that does not carry AUDITED. -/
theorem unaudited_spec {s : State} {k : Nat} {x : Nat × Nat} (h : s.unaudited k = some x) :
    x ∈ s.places k ∧ s.slotMark x.1 x.2 ≠ .audited := by
  refine ⟨List.mem_of_find?_eq_some h, ?_⟩
  simpa using List.find?_some h

/-- A retained number lies between the oldest and the newest. -/
theorem places_bounds {s : State} {k : Nat} {x : Nat × Nat} (h : x ∈ s.places k) :
    ∃ o n, s.oldest = some o ∧ s.newest = some n ∧ o ≤ k ∧ k ≤ n := by
  obtain ⟨j, slot⟩ := x
  obtain ⟨hm, hlt, _, f, hf, h1, _, rfl⟩ := mem_places.mp h
  have hm : j ∈ sectorIndexes := List.mem_range.mpr hm
  obtain ⟨m, hm1, hm2⟩ := minOf_le (l := sectorIndexes.filterMap fun i => if 0 < s.extent i then (s.sector i).first else none)
    (x := f) (List.mem_filterMap.mpr ⟨j, hm, by rw [if_pos (by omega), hf]⟩)
  obtain ⟨n, hn1, hn2⟩ := le_maxOf (l := sectorIndexes.filterMap fun i =>
      if 0 < s.extent i then (s.sector i).first.map (· + s.extent i - 1) else none) (x := f + s.extent j - 1)
    (List.mem_filterMap.mpr ⟨j, hm, by rw [if_pos (by omega), hf]; rfl⟩)
  exact ⟨m, n, hm1, hn1, by omega, by omega⟩

/-- A retained number lies between the oldest and the newest. -/
theorem lookup_bounds {s : State} {k i slot : Nat} (h : s.lookup k = some (i, slot)) :
    ∃ o n, s.oldest = some o ∧ s.newest = some n ∧ o ≤ k ∧ k ≤ n := places_bounds ((lookup_spec s k).2 _ h)

/-- The retained numbers are those that the map finds. -/
theorem mem_retainedNumbers {s : State} {k : Nat} : k ∈ s.retainedNumbers ↔ (s.lookup k).isSome = true := by
  constructor
  · intro h
    unfold State.retainedNumbers at h
    split at h
    · exact (List.mem_filter.mp h).2
    · cases h
  · intro h
    obtain ⟨⟨i, slot⟩, hl⟩ := Option.isSome_iff_exists.mp h
    obtain ⟨o, n, ho, hn, h1, h2⟩ := lookup_bounds hl
    unfold State.retainedNumbers
    rw [ho, hn]
    exact List.mem_filter.mpr ⟨List.mem_map.mpr ⟨k - o, List.mem_range.mpr (by omega), by omega⟩, h⟩

/-- The retained numbers rise. -/
theorem retainedNumbers_sorted (s : State) : s.retainedNumbers.Pairwise (· < ·) := by
  unfold State.retainedNumbers
  split
  · rename_i o n _ _
    refine List.Pairwise.filter _ (List.Pairwise.map (S := (· < ·)) (o + ·) (fun _ _ h => ?_) List.pairwise_lt_range)
    exact Nat.add_lt_add_left h o
  · exact .nil

/-- A search of a rising list finds the least number that satisfies a test. -/
theorem find?_least {l : List Nat} (h : l.Pairwise (· < ·)) (f : Nat → Bool) :
    (l.find? f = none → ∀ x ∈ l, f x = false) ∧
    ∀ k, l.find? f = some k ↔ k ∈ l ∧ f k = true ∧ ∀ x ∈ l, f x = true → k ≤ x := by
  induction l with
  | nil => simp
  | cons a l ih =>
    obtain ⟨ha, hl⟩ := List.pairwise_cons.mp h
    obtain ⟨h1, h2⟩ := ih hl
    rw [List.find?_cons]
    cases hfa : f a
    · refine ⟨fun hn x hx => ?_, fun k => ?_⟩
      · rcases List.mem_cons.mp hx with rfl | hx
        · exact hfa
        · exact h1 hn x hx
      · simp only [h2, List.mem_cons]
        constructor
        · rintro ⟨m, f1, lo⟩
          refine ⟨.inr m, f1, ?_⟩
          rintro x (rfl | hx) fx
          · simp [hfa] at fx
          · exact lo x hx fx
        · rintro ⟨rfl | m, f1, lo⟩
          · simp [hfa] at f1
          · exact ⟨m, f1, fun x hx => lo x (.inr hx)⟩
    · refine ⟨by simp, fun k => ?_⟩
      simp only [Option.some.injEq, List.mem_cons]
      constructor
      · rintro rfl
        refine ⟨.inl rfl, hfa, ?_⟩
        rintro x (rfl | hx) _
        · exact Nat.le_refl _
        · exact Nat.le_of_lt (ha x hx)
      · rintro ⟨rfl | m, _, lo⟩
        · rfl
        · have := lo a (.inl rfl) hfa
          have := ha k m
          omega
/-- Nothing is retained exactly when there is no newest entry. -/
theorem retainedNumbers_nil {s : State} (h : s.newest = none) : s.retainedNumbers = [] := by
  unfold State.retainedNumbers
  rw [h]
  split
  · rename_i h2
    cases h2
  · rfl

/-- A number with a place is retained. -/
theorem places_retained {s : State} {k : Nat} {x : Nat × Nat} (h : x ∈ s.places k) : k ∈ s.retainedNumbers :=
  mem_retainedNumbers.mpr (Option.isSome_iff_ne_none.mpr fun hn => by
    rw [(lookup_spec s k).1.mp hn] at h
    cases h)

/-- The retained entries, one for each place of a retained number. -/
theorem mem_retainedEntries {s : State} {k : Nat} {x : Nat × Nat} : (k, x) ∈ s.retainedEntries ↔ x ∈ s.places k := by
  unfold State.retainedEntries
  simp only [List.mem_flatMap, List.mem_map, Prod.mk.injEq]
  constructor
  · rintro ⟨n, _, y, hy, rfl, rfl⟩
    exact hy
  · intro h
    exact ⟨k, places_retained h, x, h, rfl, rfl⟩

/-- The audit mark (R121): one below the least number of a retained entry that is not AUDITED, the newest number when each is, and one
below the counter when nothing is retained. -/
theorem auditMark_spec (s : State) :
    let unaudited (k : Nat) := ∃ x ∈ s.places k, s.slotMark x.1 x.2 ≠ .audited
    (s.newest = none → s.auditMark = s.counter - 1) ∧
    (∀ k, unaudited k → (∀ k', unaudited k' → k ≤ k') → s.auditMark = k - 1) ∧
    (∀ m, s.newest = some m → (∀ k, ¬ unaudited k) → s.auditMark = m) := by
  have hs := find?_least (retainedNumbers_sorted s) (fun k => (s.unaudited k).isSome)
  refine ⟨fun h => by simp only [State.auditMark, h], fun k hk lo => ?_, fun m hm hk => ?_⟩
  · have ⟨x, hx, _⟩ := hk
    obtain ⟨_, n, _, hn, _, _⟩ := places_bounds hx
    have hf := (hs.2 k).mpr ⟨places_retained hx, unaudited_isSome.mpr hk, fun y _ fy => lo y (unaudited_isSome.mp fy)⟩
    simp only [State.auditMark, hn, hf, Option.map_some, Option.getD_some]
  · have hf : s.retainedNumbers.find? (fun k => (s.unaudited k).isSome) = none :=
      List.find?_eq_none.mpr fun x _ hx => hk x (unaudited_isSome.mp hx)
    simp only [State.auditMark, hm, hf, Option.map_none, Option.getD_none]

end Sys2Proof.Machine
end

