-- ==== Sys2Proof/Laws/State.lean ====
section
/-! SUPPORT. What each update of the state leaves as it was, field by field, and what it sets. -/

namespace Sys2Proof.Machine

/-! ## Collections of fixed shape -/

@[simp] theorem PerScale.get_set_same {α : Type} (v : PerScale α) (sc : Scale) (x : α) : (v.set sc x).get sc = x := by
  cases sc <;> rfl

theorem PerScale.get_set_other {α : Type} (v : PerScale α) {sc sc' : Scale} (h : sc' ≠ sc) (x : α) :
    (v.set sc x).get sc' = v.get sc' := by
  cases sc <;> cases sc' <;> first | rfl | exact absurd rfl h

@[simp] theorem PerPort.get_set_same {α : Type} (v : PerPort α) (p : Port) (x : α) : (v.set p x).get p = x := by
  cases p <;> rfl

theorem PerPort.get_set_other {α : Type} (v : PerPort α) {p q : Port} (h : q ≠ p) (x : α) :
    (v.set p x).get q = v.get q := by
  cases p <;> cases q <;> first | rfl | exact absurd rfl h

@[simp] theorem PerScale.set_set {α : Type} (v : PerScale α) (sc : Scale) (x y : α) : (v.set sc x).set sc y = v.set sc y := by
  cases sc <;> rfl

@[simp] theorem PerPort.set_set {α : Type} (v : PerPort α) (p : Port) (x y : α) : (v.set p x).set p y = v.set p y := by
  cases p <;> rfl

/-! ## What the updates set -/

@[simp] theorem updPort_port_same (s : State) (p : Port) (f : PortCtx → PortCtx) :
    (s.updPort p f).port p = f (s.port p) := PerPort.get_set_same ..

theorem updPort_port_other (s : State) {p q : Port} (h : q ≠ p) (f : PortCtx → PortCtx) :
    (s.updPort p f).port q = s.port q := PerPort.get_set_other _ h _

@[simp] theorem updChan_chan_same (s : State) (sc : Scale) (f : Channel → Channel) :
    (s.updChan sc f).chan sc = f (s.chan sc) := PerScale.get_set_same ..

theorem updChan_chan_other (s : State) {sc sc' : Scale} (h : sc' ≠ sc) (f : Channel → Channel) :
    (s.updChan sc f).chan sc' = s.chan sc' := PerScale.get_set_other _ h _

@[simp] theorem updPort_updPort (s : State) (p : Port) (f g : PortCtx → PortCtx) :
    (s.updPort p f).updPort p g = s.updPort p (fun c => g (f c)) := by
  simp [State.updPort]

@[simp] theorem updPort_powered (s : State) (p : Port) (f : PortCtx → PortCtx) : (s.updPort p f).powered = s.powered := rfl

@[simp] theorem updPort_chan (s : State) (p : Port) (f : PortCtx → PortCtx) (sc : Scale) :
    (s.updPort p f).chan sc = s.chan sc := rfl

@[simp] theorem updPort_role (s : State) (p q : Port) (f : PortCtx → PortCtx) : (s.updPort p f).role q = s.role q := rfl

@[simp] theorem updPort_ticket (s : State) (p : Port) (f : PortCtx → PortCtx) (n : Nat) :
    (s.updPort p f).ticket n = s.ticket n := rfl

@[simp] theorem updPort_namedTicket (s : State) (p : Port) (f : PortCtx → PortCtx) (n : Half) :
    (s.updPort p f).namedTicket n = s.namedTicket n := rfl

@[simp] theorem updPort_grade (s : State) (p : Port) (f : PortCtx → PortCtx) (g : Nat) :
    (s.updPort p f).grade g = s.grade g := rfl

/-! ## What `updPort` leaves as it was -/

@[simp] theorem updPort_pending (s : State) (p : Port) (f : PortCtx → PortCtx) : (s.updPort p f).pending = s.pending := rfl
@[simp] theorem updPort_supply (s : State) (p : Port) (f : PortCtx → PortCtx) : (s.updPort p f).supply = s.supply := rfl
@[simp] theorem updPort_resetHigh (s : State) (p : Port) (f : PortCtx → PortCtx) :
    (s.updPort p f).resetHigh = s.resetHigh := rfl
@[simp] theorem updPort_lostSupply (s : State) (p : Port) (f : PortCtx → PortCtx) :
    (s.updPort p f).lostSupply = s.lostSupply := rfl
@[simp] theorem updPort_mode (s : State) (p : Port) (f : PortCtx → PortCtx) : (s.updPort p f).mode = s.mode := rfl
@[simp] theorem updPort_settings (s : State) (p : Port) (f : PortCtx → PortCtx) :
    (s.updPort p f).settings = s.settings := rfl
@[simp] theorem updPort_dirty (s : State) (p : Port) (f : PortCtx → PortCtx) : (s.updPort p f).dirty = s.dirty := rfl
@[simp] theorem updPort_storeRecord (s : State) (p : Port) (f : PortCtx → PortCtx) :
    (s.updPort p f).storeRecord = s.storeRecord := rfl
@[simp] theorem updPort_storeWrite (s : State) (p : Port) (f : PortCtx → PortCtx) :
    (s.updPort p f).storeWrite = s.storeWrite := rfl
@[simp] theorem updPort_store (s : State) (p : Port) (f : PortCtx → PortCtx) : (s.updPort p f).store = s.store := rfl
@[simp] theorem updPort_channels (s : State) (p : Port) (f : PortCtx → PortCtx) :
    (s.updPort p f).channels = s.channels := rfl
@[simp] theorem updPort_cal (s : State) (p : Port) (f : PortCtx → PortCtx) : (s.updPort p f).cal = s.cal := rfl
@[simp] theorem updPort_calJobs (s : State) (p : Port) (f : PortCtx → PortCtx) : (s.updPort p f).calJobs = s.calJobs := rfl
@[simp] theorem updPort_tares (s : State) (p : Port) (f : PortCtx → PortCtx) : (s.updPort p f).tares = s.tares := rfl
@[simp] theorem updPort_tickets (s : State) (p : Port) (f : PortCtx → PortCtx) : (s.updPort p f).tickets = s.tickets := rfl
@[simp] theorem updPort_nextTicket (s : State) (p : Port) (f : PortCtx → PortCtx) :
    (s.updPort p f).nextTicket = s.nextTicket := rfl
@[simp] theorem updPort_clock (s : State) (p : Port) (f : PortCtx → PortCtx) : (s.updPort p f).clock = s.clock := rfl
@[simp] theorem updPort_clockSet (s : State) (p : Port) (f : PortCtx → PortCtx) :
    (s.updPort p f).clockSet = s.clockSet := rfl
@[simp] theorem updPort_holds (s : State) (p : Port) (f : PortCtx → PortCtx) : (s.updPort p f).holds = s.holds := rfl
@[simp] theorem updPort_settlements (s : State) (p : Port) (f : PortCtx → PortCtx) :
    (s.updPort p f).settlements = s.settlements := rfl
@[simp] theorem updPort_journal (s : State) (p : Port) (f : PortCtx → PortCtx) : (s.updPort p f).journal = s.journal := rfl
@[simp] theorem updPort_sectors (s : State) (p : Port) (f : PortCtx → PortCtx) : (s.updPort p f).sectors = s.sectors := rfl
@[simp] theorem updPort_scanned (s : State) (p : Port) (f : PortCtx → PortCtx) : (s.updPort p f).scanned = s.scanned := rfl
@[simp] theorem updPort_counter (s : State) (p : Port) (f : PortCtx → PortCtx) : (s.updPort p f).counter = s.counter := rfl
@[simp] theorem updPort_exhausted (s : State) (p : Port) (f : PortCtx → PortCtx) :
    (s.updPort p f).exhausted = s.exhausted := rfl
@[simp] theorem updPort_commitQueue (s : State) (p : Port) (f : PortCtx → PortCtx) :
    (s.updPort p f).commitQueue = s.commitQueue := rfl
@[simp] theorem updPort_head (s : State) (p : Port) (f : PortCtx → PortCtx) : (s.updPort p f).head = s.head := rfl
@[simp] theorem updPort_engine (s : State) (p : Port) (f : PortCtx → PortCtx) : (s.updPort p f).engine = s.engine := rfl
@[simp] theorem updPort_pass (s : State) (p : Port) (f : PortCtx → PortCtx) : (s.updPort p f).pass = s.pass := rfl
@[simp] theorem updPort_pendingMarks (s : State) (p : Port) (f : PortCtx → PortCtx) :
    (s.updPort p f).pendingMarks = s.pendingMarks := rfl
@[simp] theorem updPort_lowFlag (s : State) (p : Port) (f : PortCtx → PortCtx) : (s.updPort p f).lowFlag = s.lowFlag := rfl
@[simp] theorem updPort_eraseRecord (s : State) (p : Port) (f : PortCtx → PortCtx) :
    (s.updPort p f).eraseRecord = s.eraseRecord := rfl
@[simp] theorem updPort_jobs (s : State) (p : Port) (f : PortCtx → PortCtx) : (s.updPort p f).jobs = s.jobs := rfl
@[simp] theorem updPort_pe (s : State) (p : Port) (f : PortCtx → PortCtx) : (s.updPort p f).pe = s.pe := rfl
@[simp] theorem updPort_ageCounter (s : State) (p : Port) (f : PortCtx → PortCtx) :
    (s.updPort p f).ageCounter = s.ageCounter := rfl
@[simp] theorem updPort_backlog (s : State) (p : Port) (f : PortCtx → PortCtx) : (s.updPort p f).backlog = s.backlog := rfl
@[simp] theorem updPort_tally (s : State) (p : Port) (f : PortCtx → PortCtx) : (s.updPort p f).tally = s.tally := rfl
@[simp] theorem updPort_snapshot (s : State) (p : Port) (f : PortCtx → PortCtx) :
    (s.updPort p f).snapshot = s.snapshot := rfl
@[simp] theorem updPort_faults (s : State) (p : Port) (f : PortCtx → PortCtx) : (s.updPort p f).faults = s.faults := rfl
@[simp] theorem updPort_firstFault (s : State) (p : Port) (f : PortCtx → PortCtx) :
    (s.updPort p f).firstFault = s.firstFault := rfl
@[simp] theorem updPort_free (s : State) (p : Port) (f : PortCtx → PortCtx) : (s.updPort p f).free = s.free := rfl
@[simp] theorem updPort_msPhase (s : State) (p : Port) (f : PortCtx → PortCtx) : (s.updPort p f).msPhase = s.msPhase := rfl

/-! ## What `updChan` leaves as it was -/

@[simp] theorem updChan_pending (s : State) (sc : Scale) (f : Channel → Channel) :
    (s.updChan sc f).pending = s.pending := rfl
@[simp] theorem updChan_supply (s : State) (sc : Scale) (f : Channel → Channel) : (s.updChan sc f).supply = s.supply := rfl
@[simp] theorem updChan_resetHigh (s : State) (sc : Scale) (f : Channel → Channel) :
    (s.updChan sc f).resetHigh = s.resetHigh := rfl
@[simp] theorem updChan_lostSupply (s : State) (sc : Scale) (f : Channel → Channel) :
    (s.updChan sc f).lostSupply = s.lostSupply := rfl
@[simp] theorem updChan_mode (s : State) (sc : Scale) (f : Channel → Channel) : (s.updChan sc f).mode = s.mode := rfl
@[simp] theorem updChan_settings (s : State) (sc : Scale) (f : Channel → Channel) :
    (s.updChan sc f).settings = s.settings := rfl
@[simp] theorem updChan_dirty (s : State) (sc : Scale) (f : Channel → Channel) : (s.updChan sc f).dirty = s.dirty := rfl
@[simp] theorem updChan_storeRecord (s : State) (sc : Scale) (f : Channel → Channel) :
    (s.updChan sc f).storeRecord = s.storeRecord := rfl
@[simp] theorem updChan_storeWrite (s : State) (sc : Scale) (f : Channel → Channel) :
    (s.updChan sc f).storeWrite = s.storeWrite := rfl
@[simp] theorem updChan_store (s : State) (sc : Scale) (f : Channel → Channel) : (s.updChan sc f).store = s.store := rfl
@[simp] theorem updChan_cal (s : State) (sc : Scale) (f : Channel → Channel) : (s.updChan sc f).cal = s.cal := rfl
@[simp] theorem updChan_calJobs (s : State) (sc : Scale) (f : Channel → Channel) :
    (s.updChan sc f).calJobs = s.calJobs := rfl
@[simp] theorem updChan_tares (s : State) (sc : Scale) (f : Channel → Channel) : (s.updChan sc f).tares = s.tares := rfl
@[simp] theorem updChan_tickets (s : State) (sc : Scale) (f : Channel → Channel) :
    (s.updChan sc f).tickets = s.tickets := rfl
@[simp] theorem updChan_nextTicket (s : State) (sc : Scale) (f : Channel → Channel) :
    (s.updChan sc f).nextTicket = s.nextTicket := rfl
@[simp] theorem updChan_clock (s : State) (sc : Scale) (f : Channel → Channel) : (s.updChan sc f).clock = s.clock := rfl
@[simp] theorem updChan_clockSet (s : State) (sc : Scale) (f : Channel → Channel) :
    (s.updChan sc f).clockSet = s.clockSet := rfl
@[simp] theorem updChan_holds (s : State) (sc : Scale) (f : Channel → Channel) : (s.updChan sc f).holds = s.holds := rfl
@[simp] theorem updChan_settlements (s : State) (sc : Scale) (f : Channel → Channel) :
    (s.updChan sc f).settlements = s.settlements := rfl
@[simp] theorem updChan_journal (s : State) (sc : Scale) (f : Channel → Channel) :
    (s.updChan sc f).journal = s.journal := rfl
@[simp] theorem updChan_sectors (s : State) (sc : Scale) (f : Channel → Channel) :
    (s.updChan sc f).sectors = s.sectors := rfl
@[simp] theorem updChan_scanned (s : State) (sc : Scale) (f : Channel → Channel) :
    (s.updChan sc f).scanned = s.scanned := rfl
@[simp] theorem updChan_counter (s : State) (sc : Scale) (f : Channel → Channel) :
    (s.updChan sc f).counter = s.counter := rfl
@[simp] theorem updChan_exhausted (s : State) (sc : Scale) (f : Channel → Channel) :
    (s.updChan sc f).exhausted = s.exhausted := rfl
@[simp] theorem updChan_commitQueue (s : State) (sc : Scale) (f : Channel → Channel) :
    (s.updChan sc f).commitQueue = s.commitQueue := rfl
@[simp] theorem updChan_head (s : State) (sc : Scale) (f : Channel → Channel) : (s.updChan sc f).head = s.head := rfl
@[simp] theorem updChan_engine (s : State) (sc : Scale) (f : Channel → Channel) : (s.updChan sc f).engine = s.engine := rfl
@[simp] theorem updChan_pass (s : State) (sc : Scale) (f : Channel → Channel) : (s.updChan sc f).pass = s.pass := rfl
@[simp] theorem updChan_pendingMarks (s : State) (sc : Scale) (f : Channel → Channel) :
    (s.updChan sc f).pendingMarks = s.pendingMarks := rfl
@[simp] theorem updChan_lowFlag (s : State) (sc : Scale) (f : Channel → Channel) :
    (s.updChan sc f).lowFlag = s.lowFlag := rfl
@[simp] theorem updChan_eraseRecord (s : State) (sc : Scale) (f : Channel → Channel) :
    (s.updChan sc f).eraseRecord = s.eraseRecord := rfl
@[simp] theorem updChan_jobs (s : State) (sc : Scale) (f : Channel → Channel) : (s.updChan sc f).jobs = s.jobs := rfl
@[simp] theorem updChan_pe (s : State) (sc : Scale) (f : Channel → Channel) : (s.updChan sc f).pe = s.pe := rfl
@[simp] theorem updChan_ageCounter (s : State) (sc : Scale) (f : Channel → Channel) :
    (s.updChan sc f).ageCounter = s.ageCounter := rfl
@[simp] theorem updChan_backlog (s : State) (sc : Scale) (f : Channel → Channel) :
    (s.updChan sc f).backlog = s.backlog := rfl
@[simp] theorem updChan_tally (s : State) (sc : Scale) (f : Channel → Channel) : (s.updChan sc f).tally = s.tally := rfl
@[simp] theorem updChan_snapshot (s : State) (sc : Scale) (f : Channel → Channel) :
    (s.updChan sc f).snapshot = s.snapshot := rfl
@[simp] theorem updChan_ports (s : State) (sc : Scale) (f : Channel → Channel) : (s.updChan sc f).ports = s.ports := rfl
@[simp] theorem updChan_faults (s : State) (sc : Scale) (f : Channel → Channel) : (s.updChan sc f).faults = s.faults := rfl
@[simp] theorem updChan_firstFault (s : State) (sc : Scale) (f : Channel → Channel) :
    (s.updChan sc f).firstFault = s.firstFault := rfl
@[simp] theorem updChan_free (s : State) (sc : Scale) (f : Channel → Channel) : (s.updChan sc f).free = s.free := rfl
@[simp] theorem updChan_msPhase (s : State) (sc : Scale) (f : Channel → Channel) :
    (s.updChan sc f).msPhase = s.msPhase := rfl

/-! ## What `updTicket` leaves as it was -/

@[simp] theorem updTicket_pending (s : State) (n : Nat) (f : Ticket → Ticket) : (s.updTicket n f).pending = s.pending := rfl
@[simp] theorem updTicket_supply (s : State) (n : Nat) (f : Ticket → Ticket) : (s.updTicket n f).supply = s.supply := rfl
@[simp] theorem updTicket_resetHigh (s : State) (n : Nat) (f : Ticket → Ticket) :
    (s.updTicket n f).resetHigh = s.resetHigh := rfl
@[simp] theorem updTicket_lostSupply (s : State) (n : Nat) (f : Ticket → Ticket) :
    (s.updTicket n f).lostSupply = s.lostSupply := rfl
@[simp] theorem updTicket_mode (s : State) (n : Nat) (f : Ticket → Ticket) : (s.updTicket n f).mode = s.mode := rfl
@[simp] theorem updTicket_settings (s : State) (n : Nat) (f : Ticket → Ticket) :
    (s.updTicket n f).settings = s.settings := rfl
@[simp] theorem updTicket_dirty (s : State) (n : Nat) (f : Ticket → Ticket) : (s.updTicket n f).dirty = s.dirty := rfl
@[simp] theorem updTicket_storeRecord (s : State) (n : Nat) (f : Ticket → Ticket) :
    (s.updTicket n f).storeRecord = s.storeRecord := rfl
@[simp] theorem updTicket_storeWrite (s : State) (n : Nat) (f : Ticket → Ticket) :
    (s.updTicket n f).storeWrite = s.storeWrite := rfl
@[simp] theorem updTicket_store (s : State) (n : Nat) (f : Ticket → Ticket) : (s.updTicket n f).store = s.store := rfl
@[simp] theorem updTicket_channels (s : State) (n : Nat) (f : Ticket → Ticket) :
    (s.updTicket n f).channels = s.channels := rfl
@[simp] theorem updTicket_cal (s : State) (n : Nat) (f : Ticket → Ticket) : (s.updTicket n f).cal = s.cal := rfl
@[simp] theorem updTicket_calJobs (s : State) (n : Nat) (f : Ticket → Ticket) : (s.updTicket n f).calJobs = s.calJobs := rfl
@[simp] theorem updTicket_tares (s : State) (n : Nat) (f : Ticket → Ticket) : (s.updTicket n f).tares = s.tares := rfl
@[simp] theorem updTicket_nextTicket (s : State) (n : Nat) (f : Ticket → Ticket) :
    (s.updTicket n f).nextTicket = s.nextTicket := rfl
@[simp] theorem updTicket_clock (s : State) (n : Nat) (f : Ticket → Ticket) : (s.updTicket n f).clock = s.clock := rfl
@[simp] theorem updTicket_clockSet (s : State) (n : Nat) (f : Ticket → Ticket) :
    (s.updTicket n f).clockSet = s.clockSet := rfl
@[simp] theorem updTicket_holds (s : State) (n : Nat) (f : Ticket → Ticket) : (s.updTicket n f).holds = s.holds := rfl
@[simp] theorem updTicket_settlements (s : State) (n : Nat) (f : Ticket → Ticket) :
    (s.updTicket n f).settlements = s.settlements := rfl
@[simp] theorem updTicket_journal (s : State) (n : Nat) (f : Ticket → Ticket) : (s.updTicket n f).journal = s.journal := rfl
@[simp] theorem updTicket_sectors (s : State) (n : Nat) (f : Ticket → Ticket) : (s.updTicket n f).sectors = s.sectors := rfl
@[simp] theorem updTicket_scanned (s : State) (n : Nat) (f : Ticket → Ticket) : (s.updTicket n f).scanned = s.scanned := rfl
@[simp] theorem updTicket_counter (s : State) (n : Nat) (f : Ticket → Ticket) : (s.updTicket n f).counter = s.counter := rfl
@[simp] theorem updTicket_exhausted (s : State) (n : Nat) (f : Ticket → Ticket) :
    (s.updTicket n f).exhausted = s.exhausted := rfl
@[simp] theorem updTicket_commitQueue (s : State) (n : Nat) (f : Ticket → Ticket) :
    (s.updTicket n f).commitQueue = s.commitQueue := rfl
@[simp] theorem updTicket_head (s : State) (n : Nat) (f : Ticket → Ticket) : (s.updTicket n f).head = s.head := rfl
@[simp] theorem updTicket_engine (s : State) (n : Nat) (f : Ticket → Ticket) : (s.updTicket n f).engine = s.engine := rfl
@[simp] theorem updTicket_pass (s : State) (n : Nat) (f : Ticket → Ticket) : (s.updTicket n f).pass = s.pass := rfl
@[simp] theorem updTicket_pendingMarks (s : State) (n : Nat) (f : Ticket → Ticket) :
    (s.updTicket n f).pendingMarks = s.pendingMarks := rfl
@[simp] theorem updTicket_lowFlag (s : State) (n : Nat) (f : Ticket → Ticket) : (s.updTicket n f).lowFlag = s.lowFlag := rfl
@[simp] theorem updTicket_eraseRecord (s : State) (n : Nat) (f : Ticket → Ticket) :
    (s.updTicket n f).eraseRecord = s.eraseRecord := rfl
@[simp] theorem updTicket_jobs (s : State) (n : Nat) (f : Ticket → Ticket) : (s.updTicket n f).jobs = s.jobs := rfl
@[simp] theorem updTicket_pe (s : State) (n : Nat) (f : Ticket → Ticket) : (s.updTicket n f).pe = s.pe := rfl
@[simp] theorem updTicket_ageCounter (s : State) (n : Nat) (f : Ticket → Ticket) :
    (s.updTicket n f).ageCounter = s.ageCounter := rfl
@[simp] theorem updTicket_backlog (s : State) (n : Nat) (f : Ticket → Ticket) : (s.updTicket n f).backlog = s.backlog := rfl
@[simp] theorem updTicket_tally (s : State) (n : Nat) (f : Ticket → Ticket) : (s.updTicket n f).tally = s.tally := rfl
@[simp] theorem updTicket_snapshot (s : State) (n : Nat) (f : Ticket → Ticket) :
    (s.updTicket n f).snapshot = s.snapshot := rfl
@[simp] theorem updTicket_ports (s : State) (n : Nat) (f : Ticket → Ticket) : (s.updTicket n f).ports = s.ports := rfl
@[simp] theorem updTicket_faults (s : State) (n : Nat) (f : Ticket → Ticket) : (s.updTicket n f).faults = s.faults := rfl
@[simp] theorem updTicket_firstFault (s : State) (n : Nat) (f : Ticket → Ticket) :
    (s.updTicket n f).firstFault = s.firstFault := rfl
@[simp] theorem updTicket_free (s : State) (n : Nat) (f : Ticket → Ticket) : (s.updTicket n f).free = s.free := rfl
@[simp] theorem updTicket_msPhase (s : State) (n : Nat) (f : Ticket → Ticket) : (s.updTicket n f).msPhase = s.msPhase := rfl

/-! ## What `setJob` leaves as it was -/

@[simp] theorem setJob_pending (s : State) (slot : Nat) (j : Option Job) : (s.setJob slot j).pending = s.pending := rfl
@[simp] theorem setJob_supply (s : State) (slot : Nat) (j : Option Job) : (s.setJob slot j).supply = s.supply := rfl
@[simp] theorem setJob_resetHigh (s : State) (slot : Nat) (j : Option Job) : (s.setJob slot j).resetHigh = s.resetHigh := rfl
@[simp] theorem setJob_lostSupply (s : State) (slot : Nat) (j : Option Job) :
    (s.setJob slot j).lostSupply = s.lostSupply := rfl
@[simp] theorem setJob_mode (s : State) (slot : Nat) (j : Option Job) : (s.setJob slot j).mode = s.mode := rfl
@[simp] theorem setJob_settings (s : State) (slot : Nat) (j : Option Job) : (s.setJob slot j).settings = s.settings := rfl
@[simp] theorem setJob_dirty (s : State) (slot : Nat) (j : Option Job) : (s.setJob slot j).dirty = s.dirty := rfl
@[simp] theorem setJob_storeRecord (s : State) (slot : Nat) (j : Option Job) :
    (s.setJob slot j).storeRecord = s.storeRecord := rfl
@[simp] theorem setJob_storeWrite (s : State) (slot : Nat) (j : Option Job) :
    (s.setJob slot j).storeWrite = s.storeWrite := rfl
@[simp] theorem setJob_store (s : State) (slot : Nat) (j : Option Job) : (s.setJob slot j).store = s.store := rfl
@[simp] theorem setJob_channels (s : State) (slot : Nat) (j : Option Job) : (s.setJob slot j).channels = s.channels := rfl
@[simp] theorem setJob_cal (s : State) (slot : Nat) (j : Option Job) : (s.setJob slot j).cal = s.cal := rfl
@[simp] theorem setJob_calJobs (s : State) (slot : Nat) (j : Option Job) : (s.setJob slot j).calJobs = s.calJobs := rfl
@[simp] theorem setJob_tares (s : State) (slot : Nat) (j : Option Job) : (s.setJob slot j).tares = s.tares := rfl
@[simp] theorem setJob_tickets (s : State) (slot : Nat) (j : Option Job) : (s.setJob slot j).tickets = s.tickets := rfl
@[simp] theorem setJob_nextTicket (s : State) (slot : Nat) (j : Option Job) :
    (s.setJob slot j).nextTicket = s.nextTicket := rfl
@[simp] theorem setJob_clock (s : State) (slot : Nat) (j : Option Job) : (s.setJob slot j).clock = s.clock := rfl
@[simp] theorem setJob_clockSet (s : State) (slot : Nat) (j : Option Job) : (s.setJob slot j).clockSet = s.clockSet := rfl
@[simp] theorem setJob_holds (s : State) (slot : Nat) (j : Option Job) : (s.setJob slot j).holds = s.holds := rfl
@[simp] theorem setJob_settlements (s : State) (slot : Nat) (j : Option Job) :
    (s.setJob slot j).settlements = s.settlements := rfl
@[simp] theorem setJob_journal (s : State) (slot : Nat) (j : Option Job) : (s.setJob slot j).journal = s.journal := rfl
@[simp] theorem setJob_sectors (s : State) (slot : Nat) (j : Option Job) : (s.setJob slot j).sectors = s.sectors := rfl
@[simp] theorem setJob_scanned (s : State) (slot : Nat) (j : Option Job) : (s.setJob slot j).scanned = s.scanned := rfl
@[simp] theorem setJob_counter (s : State) (slot : Nat) (j : Option Job) : (s.setJob slot j).counter = s.counter := rfl
@[simp] theorem setJob_exhausted (s : State) (slot : Nat) (j : Option Job) : (s.setJob slot j).exhausted = s.exhausted := rfl
@[simp] theorem setJob_commitQueue (s : State) (slot : Nat) (j : Option Job) :
    (s.setJob slot j).commitQueue = s.commitQueue := rfl
@[simp] theorem setJob_head (s : State) (slot : Nat) (j : Option Job) : (s.setJob slot j).head = s.head := rfl
@[simp] theorem setJob_engine (s : State) (slot : Nat) (j : Option Job) : (s.setJob slot j).engine = s.engine := rfl
@[simp] theorem setJob_pass (s : State) (slot : Nat) (j : Option Job) : (s.setJob slot j).pass = s.pass := rfl
@[simp] theorem setJob_pendingMarks (s : State) (slot : Nat) (j : Option Job) :
    (s.setJob slot j).pendingMarks = s.pendingMarks := rfl
@[simp] theorem setJob_lowFlag (s : State) (slot : Nat) (j : Option Job) : (s.setJob slot j).lowFlag = s.lowFlag := rfl
@[simp] theorem setJob_eraseRecord (s : State) (slot : Nat) (j : Option Job) :
    (s.setJob slot j).eraseRecord = s.eraseRecord := rfl
@[simp] theorem setJob_pe (s : State) (slot : Nat) (j : Option Job) : (s.setJob slot j).pe = s.pe := rfl
@[simp] theorem setJob_ageCounter (s : State) (slot : Nat) (j : Option Job) :
    (s.setJob slot j).ageCounter = s.ageCounter := rfl
@[simp] theorem setJob_backlog (s : State) (slot : Nat) (j : Option Job) : (s.setJob slot j).backlog = s.backlog := rfl
@[simp] theorem setJob_tally (s : State) (slot : Nat) (j : Option Job) : (s.setJob slot j).tally = s.tally := rfl
@[simp] theorem setJob_snapshot (s : State) (slot : Nat) (j : Option Job) : (s.setJob slot j).snapshot = s.snapshot := rfl
@[simp] theorem setJob_ports (s : State) (slot : Nat) (j : Option Job) : (s.setJob slot j).ports = s.ports := rfl
@[simp] theorem setJob_faults (s : State) (slot : Nat) (j : Option Job) : (s.setJob slot j).faults = s.faults := rfl
@[simp] theorem setJob_firstFault (s : State) (slot : Nat) (j : Option Job) :
    (s.setJob slot j).firstFault = s.firstFault := rfl
@[simp] theorem setJob_free (s : State) (slot : Nat) (j : Option Job) : (s.setJob slot j).free = s.free := rfl
@[simp] theorem setJob_msPhase (s : State) (slot : Nat) (j : Option Job) : (s.setJob slot j).msPhase = s.msPhase := rfl

/-! ## What `updSector` leaves as it was -/

@[simp] theorem updSector_pending (s : State) (i : Nat) (f : Sector → Sector) : (s.updSector i f).pending = s.pending := rfl
@[simp] theorem updSector_supply (s : State) (i : Nat) (f : Sector → Sector) : (s.updSector i f).supply = s.supply := rfl
@[simp] theorem updSector_resetHigh (s : State) (i : Nat) (f : Sector → Sector) :
    (s.updSector i f).resetHigh = s.resetHigh := rfl
@[simp] theorem updSector_lostSupply (s : State) (i : Nat) (f : Sector → Sector) :
    (s.updSector i f).lostSupply = s.lostSupply := rfl
@[simp] theorem updSector_mode (s : State) (i : Nat) (f : Sector → Sector) : (s.updSector i f).mode = s.mode := rfl
@[simp] theorem updSector_settings (s : State) (i : Nat) (f : Sector → Sector) :
    (s.updSector i f).settings = s.settings := rfl
@[simp] theorem updSector_dirty (s : State) (i : Nat) (f : Sector → Sector) : (s.updSector i f).dirty = s.dirty := rfl
@[simp] theorem updSector_storeRecord (s : State) (i : Nat) (f : Sector → Sector) :
    (s.updSector i f).storeRecord = s.storeRecord := rfl
@[simp] theorem updSector_storeWrite (s : State) (i : Nat) (f : Sector → Sector) :
    (s.updSector i f).storeWrite = s.storeWrite := rfl
@[simp] theorem updSector_store (s : State) (i : Nat) (f : Sector → Sector) : (s.updSector i f).store = s.store := rfl
@[simp] theorem updSector_channels (s : State) (i : Nat) (f : Sector → Sector) :
    (s.updSector i f).channels = s.channels := rfl
@[simp] theorem updSector_cal (s : State) (i : Nat) (f : Sector → Sector) : (s.updSector i f).cal = s.cal := rfl
@[simp] theorem updSector_calJobs (s : State) (i : Nat) (f : Sector → Sector) : (s.updSector i f).calJobs = s.calJobs := rfl
@[simp] theorem updSector_tares (s : State) (i : Nat) (f : Sector → Sector) : (s.updSector i f).tares = s.tares := rfl
@[simp] theorem updSector_tickets (s : State) (i : Nat) (f : Sector → Sector) : (s.updSector i f).tickets = s.tickets := rfl
@[simp] theorem updSector_nextTicket (s : State) (i : Nat) (f : Sector → Sector) :
    (s.updSector i f).nextTicket = s.nextTicket := rfl
@[simp] theorem updSector_clock (s : State) (i : Nat) (f : Sector → Sector) : (s.updSector i f).clock = s.clock := rfl
@[simp] theorem updSector_clockSet (s : State) (i : Nat) (f : Sector → Sector) :
    (s.updSector i f).clockSet = s.clockSet := rfl
@[simp] theorem updSector_holds (s : State) (i : Nat) (f : Sector → Sector) : (s.updSector i f).holds = s.holds := rfl
@[simp] theorem updSector_settlements (s : State) (i : Nat) (f : Sector → Sector) :
    (s.updSector i f).settlements = s.settlements := rfl
@[simp] theorem updSector_journal (s : State) (i : Nat) (f : Sector → Sector) : (s.updSector i f).journal = s.journal := rfl
@[simp] theorem updSector_scanned (s : State) (i : Nat) (f : Sector → Sector) : (s.updSector i f).scanned = s.scanned := rfl
@[simp] theorem updSector_counter (s : State) (i : Nat) (f : Sector → Sector) : (s.updSector i f).counter = s.counter := rfl
@[simp] theorem updSector_exhausted (s : State) (i : Nat) (f : Sector → Sector) :
    (s.updSector i f).exhausted = s.exhausted := rfl
@[simp] theorem updSector_commitQueue (s : State) (i : Nat) (f : Sector → Sector) :
    (s.updSector i f).commitQueue = s.commitQueue := rfl
@[simp] theorem updSector_head (s : State) (i : Nat) (f : Sector → Sector) : (s.updSector i f).head = s.head := rfl
@[simp] theorem updSector_engine (s : State) (i : Nat) (f : Sector → Sector) : (s.updSector i f).engine = s.engine := rfl
@[simp] theorem updSector_pass (s : State) (i : Nat) (f : Sector → Sector) : (s.updSector i f).pass = s.pass := rfl
@[simp] theorem updSector_pendingMarks (s : State) (i : Nat) (f : Sector → Sector) :
    (s.updSector i f).pendingMarks = s.pendingMarks := rfl
@[simp] theorem updSector_lowFlag (s : State) (i : Nat) (f : Sector → Sector) : (s.updSector i f).lowFlag = s.lowFlag := rfl
@[simp] theorem updSector_eraseRecord (s : State) (i : Nat) (f : Sector → Sector) :
    (s.updSector i f).eraseRecord = s.eraseRecord := rfl
@[simp] theorem updSector_jobs (s : State) (i : Nat) (f : Sector → Sector) : (s.updSector i f).jobs = s.jobs := rfl
@[simp] theorem updSector_pe (s : State) (i : Nat) (f : Sector → Sector) : (s.updSector i f).pe = s.pe := rfl
@[simp] theorem updSector_ageCounter (s : State) (i : Nat) (f : Sector → Sector) :
    (s.updSector i f).ageCounter = s.ageCounter := rfl
@[simp] theorem updSector_backlog (s : State) (i : Nat) (f : Sector → Sector) : (s.updSector i f).backlog = s.backlog := rfl
@[simp] theorem updSector_tally (s : State) (i : Nat) (f : Sector → Sector) : (s.updSector i f).tally = s.tally := rfl
@[simp] theorem updSector_snapshot (s : State) (i : Nat) (f : Sector → Sector) :
    (s.updSector i f).snapshot = s.snapshot := rfl
@[simp] theorem updSector_ports (s : State) (i : Nat) (f : Sector → Sector) : (s.updSector i f).ports = s.ports := rfl
@[simp] theorem updSector_faults (s : State) (i : Nat) (f : Sector → Sector) : (s.updSector i f).faults = s.faults := rfl
@[simp] theorem updSector_firstFault (s : State) (i : Nat) (f : Sector → Sector) :
    (s.updSector i f).firstFault = s.firstFault := rfl
@[simp] theorem updSector_free (s : State) (i : Nat) (f : Sector → Sector) : (s.updSector i f).free = s.free := rfl
@[simp] theorem updSector_msPhase (s : State) (i : Nat) (f : Sector → Sector) : (s.updSector i f).msPhase = s.msPhase := rfl

/-! ## What `reply` leaves as it was -/

@[simp] theorem reply_pending (p : Port) (code : ResultCode) (data : List Byte) (s : State) :
    (reply p code data s).pending = s.pending := rfl
@[simp] theorem reply_supply (p : Port) (code : ResultCode) (data : List Byte) (s : State) :
    (reply p code data s).supply = s.supply := rfl
@[simp] theorem reply_resetHigh (p : Port) (code : ResultCode) (data : List Byte) (s : State) :
    (reply p code data s).resetHigh = s.resetHigh := rfl
@[simp] theorem reply_lostSupply (p : Port) (code : ResultCode) (data : List Byte) (s : State) :
    (reply p code data s).lostSupply = s.lostSupply := rfl
@[simp] theorem reply_mode (p : Port) (code : ResultCode) (data : List Byte) (s : State) :
    (reply p code data s).mode = s.mode := rfl
@[simp] theorem reply_settings (p : Port) (code : ResultCode) (data : List Byte) (s : State) :
    (reply p code data s).settings = s.settings := rfl
@[simp] theorem reply_dirty (p : Port) (code : ResultCode) (data : List Byte) (s : State) :
    (reply p code data s).dirty = s.dirty := rfl
@[simp] theorem reply_storeRecord (p : Port) (code : ResultCode) (data : List Byte) (s : State) :
    (reply p code data s).storeRecord = s.storeRecord := rfl
@[simp] theorem reply_storeWrite (p : Port) (code : ResultCode) (data : List Byte) (s : State) :
    (reply p code data s).storeWrite = s.storeWrite := rfl
@[simp] theorem reply_store (p : Port) (code : ResultCode) (data : List Byte) (s : State) :
    (reply p code data s).store = s.store := rfl
@[simp] theorem reply_channels (p : Port) (code : ResultCode) (data : List Byte) (s : State) :
    (reply p code data s).channels = s.channels := rfl
@[simp] theorem reply_cal (p : Port) (code : ResultCode) (data : List Byte) (s : State) :
    (reply p code data s).cal = s.cal := rfl
@[simp] theorem reply_calJobs (p : Port) (code : ResultCode) (data : List Byte) (s : State) :
    (reply p code data s).calJobs = s.calJobs := rfl
@[simp] theorem reply_tares (p : Port) (code : ResultCode) (data : List Byte) (s : State) :
    (reply p code data s).tares = s.tares := rfl
@[simp] theorem reply_tickets (p : Port) (code : ResultCode) (data : List Byte) (s : State) :
    (reply p code data s).tickets = s.tickets := rfl
@[simp] theorem reply_nextTicket (p : Port) (code : ResultCode) (data : List Byte) (s : State) :
    (reply p code data s).nextTicket = s.nextTicket := rfl
@[simp] theorem reply_clock (p : Port) (code : ResultCode) (data : List Byte) (s : State) :
    (reply p code data s).clock = s.clock := rfl
@[simp] theorem reply_clockSet (p : Port) (code : ResultCode) (data : List Byte) (s : State) :
    (reply p code data s).clockSet = s.clockSet := rfl
@[simp] theorem reply_holds (p : Port) (code : ResultCode) (data : List Byte) (s : State) :
    (reply p code data s).holds = s.holds := rfl
@[simp] theorem reply_settlements (p : Port) (code : ResultCode) (data : List Byte) (s : State) :
    (reply p code data s).settlements = s.settlements := rfl
@[simp] theorem reply_journal (p : Port) (code : ResultCode) (data : List Byte) (s : State) :
    (reply p code data s).journal = s.journal := rfl
@[simp] theorem reply_sectors (p : Port) (code : ResultCode) (data : List Byte) (s : State) :
    (reply p code data s).sectors = s.sectors := rfl
@[simp] theorem reply_scanned (p : Port) (code : ResultCode) (data : List Byte) (s : State) :
    (reply p code data s).scanned = s.scanned := rfl
@[simp] theorem reply_counter (p : Port) (code : ResultCode) (data : List Byte) (s : State) :
    (reply p code data s).counter = s.counter := rfl
@[simp] theorem reply_exhausted (p : Port) (code : ResultCode) (data : List Byte) (s : State) :
    (reply p code data s).exhausted = s.exhausted := rfl
@[simp] theorem reply_commitQueue (p : Port) (code : ResultCode) (data : List Byte) (s : State) :
    (reply p code data s).commitQueue = s.commitQueue := rfl
@[simp] theorem reply_head (p : Port) (code : ResultCode) (data : List Byte) (s : State) :
    (reply p code data s).head = s.head := rfl
@[simp] theorem reply_engine (p : Port) (code : ResultCode) (data : List Byte) (s : State) :
    (reply p code data s).engine = s.engine := rfl
@[simp] theorem reply_pass (p : Port) (code : ResultCode) (data : List Byte) (s : State) :
    (reply p code data s).pass = s.pass := rfl
@[simp] theorem reply_pendingMarks (p : Port) (code : ResultCode) (data : List Byte) (s : State) :
    (reply p code data s).pendingMarks = s.pendingMarks := rfl
@[simp] theorem reply_lowFlag (p : Port) (code : ResultCode) (data : List Byte) (s : State) :
    (reply p code data s).lowFlag = s.lowFlag := rfl
@[simp] theorem reply_eraseRecord (p : Port) (code : ResultCode) (data : List Byte) (s : State) :
    (reply p code data s).eraseRecord = s.eraseRecord := rfl
@[simp] theorem reply_jobs (p : Port) (code : ResultCode) (data : List Byte) (s : State) :
    (reply p code data s).jobs = s.jobs := rfl
@[simp] theorem reply_pe (p : Port) (code : ResultCode) (data : List Byte) (s : State) :
    (reply p code data s).pe = s.pe := rfl
@[simp] theorem reply_ageCounter (p : Port) (code : ResultCode) (data : List Byte) (s : State) :
    (reply p code data s).ageCounter = s.ageCounter := rfl
@[simp] theorem reply_backlog (p : Port) (code : ResultCode) (data : List Byte) (s : State) :
    (reply p code data s).backlog = s.backlog := rfl
@[simp] theorem reply_tally (p : Port) (code : ResultCode) (data : List Byte) (s : State) :
    (reply p code data s).tally = s.tally := rfl
@[simp] theorem reply_snapshot (p : Port) (code : ResultCode) (data : List Byte) (s : State) :
    (reply p code data s).snapshot = s.snapshot := rfl
@[simp] theorem reply_faults (p : Port) (code : ResultCode) (data : List Byte) (s : State) :
    (reply p code data s).faults = s.faults := rfl
@[simp] theorem reply_firstFault (p : Port) (code : ResultCode) (data : List Byte) (s : State) :
    (reply p code data s).firstFault = s.firstFault := rfl
@[simp] theorem reply_free (p : Port) (code : ResultCode) (data : List Byte) (s : State) :
    (reply p code data s).free = s.free := rfl
@[simp] theorem reply_msPhase (p : Port) (code : ResultCode) (data : List Byte) (s : State) :
    (reply p code data s).msPhase = s.msPhase := rfl

end Sys2Proof.Machine
end

