-- ==== Sys2Proof/Laws/Backlog.lean ====
section
/-! SUPPORT. The backlog walk of R165, one examination at a time: when it stands, what an examination does, and which fields of the
state it reads and writes. -/

namespace Sys2Proof.Machine

/-! ## The numbers that the walk passes over -/

/-- The lowest number of a list is one of it. -/
theorem minOf_mem {l : List Nat} {m : Nat} (h : minOf l = some m) : m ∈ l := by
  have fold : ∀ (l : List Nat) (a : Nat), l.foldl min a = a ∨ l.foldl min a ∈ l := by
    intro l
    induction l with
    | nil => exact fun a => .inl rfl
    | cons b l ih =>
      intro a
      rw [List.foldl_cons]
      rcases ih (min a b) with h | h
      · rw [h, List.mem_cons]; omega
      · exact .inr (List.mem_cons_of_mem b h)
  cases l with
  | nil => cases h
  | cons a l =>
    cases h
    rcases fold l a with h | h
    · rw [h]; exact List.mem_cons_self
    · exact List.mem_cons_of_mem a h

/-- What one sector contributes to the lowest number retained from one on. -/
def State.retainedIn (s : State) (n i : Nat) : Option Nat :=
  match (s.sector i).first with
  | some f => if 0 < s.extent i ∧ n < f + s.extent i then some (max n f) else none
  | none => none

theorem retainedFrom_eq (s : State) (n : Nat) : s.retainedFrom n = minOf (sectorIndexes.filterMap (s.retainedIn n)) := rfl

/-- A number that a sector contributes is not below the one that the search starts from. -/
theorem le_of_retainedFrom {s : State} {n m : Nat} (h : s.retainedFrom n = some m) : n ≤ m := by
  rw [retainedFrom_eq] at h
  obtain ⟨i, _, hi⟩ := List.mem_filterMap.mp (minOf_mem h)
  unfold State.retainedIn at hi
  split at hi
  · split at hi
    · cases hi; omega
    · cases hi
  · cases hi

/-- A retained number is the lowest retained from itself on. -/
theorem retainedFrom_lookup {s : State} {n : Nat} {x : Nat × Nat} (h : s.lookup n = some x) : s.retainedFrom n = some n := by
  obtain ⟨i, slot⟩ := x
  obtain ⟨hi, hlt, _, f, hf, h1, _, rfl⟩ := mem_places.mp ((lookup_spec s n).2 _ h)
  have hm : n ∈ sectorIndexes.filterMap (s.retainedIn n) := by
    refine List.mem_filterMap.mpr ⟨i, List.mem_range.mpr hi, ?_⟩
    have hmax : max n f = n := Nat.max_eq_left h1
    unfold State.retainedIn
    rw [hf]
    dsimp only
    rw [hmax]
    exact if_pos ⟨by omega, by omega⟩
  obtain ⟨m, hm, hle⟩ := minOf_le hm
  have := le_of_retainedFrom (s := s) (n := n) (m := m) hm
  rw [retainedFrom_eq, hm, show m = n by omega]

/-- A search from a number that is not the lowest retained finds what one from the next number finds. -/
theorem retainedFrom_succ {s : State} {n : Nat} (h : s.retainedFrom n ≠ some n) : s.retainedFrom (n + 1) = s.retainedFrom n := by
  have below : ∀ i ∈ sectorIndexes, s.retainedIn n i ≠ some n := by
    intro i hi he
    obtain ⟨m, hm, hle⟩ := minOf_le (List.mem_filterMap.mpr ⟨i, hi, he⟩)
    have := le_of_retainedFrom (s := s) (n := n) (m := m) hm
    exact h (by rw [retainedFrom_eq, hm, show m = n by omega])
  have same : ∀ l : List Nat, (∀ i ∈ l, s.retainedIn (n + 1) i = s.retainedIn n i) →
      l.filterMap (s.retainedIn (n + 1)) = l.filterMap (s.retainedIn n) := by
    intro l
    induction l with
    | nil => exact fun _ => rfl
    | cons a l ih =>
      intro h
      rw [List.filterMap_cons, List.filterMap_cons, h a List.mem_cons_self, ih (fun i hi => h i (List.mem_cons_of_mem a hi))]
  rw [retainedFrom_eq, retainedFrom_eq]
  refine congrArg minOf (same _ fun i hi => ?_)
  have hb := below i hi
  unfold State.retainedIn at hb ⊢
  revert hb
  rcases (s.sector i).first with _ | f
  · exact fun _ => rfl
  · dsimp only
    intro hb
    by_cases hc : 0 < s.extent i ∧ n < f + s.extent i
    · rw [if_pos hc] at hb ⊢
      have : n < f := by
        rcases Nat.lt_or_ge n f with h | h
        · exact h
        · exact absurd (congrArg some (Nat.max_eq_left h)) hb
      rw [if_pos (by omega), show max (n + 1) f = max n f by omega]
    · rw [if_neg hc, if_neg (by omega)]

/-- An examination of a number that no entry is retained of does nothing. -/
theorem examineBacklog_none {s : State} {n : Nat} (h : s.lookup n = none) : examineBacklog n s = s := by
  unfold examineBacklog
  rw [h]

/-! ## One examination -/

/-- A job is created in the lowest free slot with the present age, and the age counter rises by 1, past its 32 bits to a free value
(R144; log 14); with no slot free nothing happens. -/
theorem createJob_eq (k : JobKind) (r : Option Nat) (p : Option Port) (st : JobState) (s : State) : createJob k r p st s =
    match s.jobs.findIdx? Option.isNone with
    | none => s
    | some slot => { s with
      jobs := s.jobs.set slot (some ⟨k, r, p, st, 0, false, s.ageCounter, 0⟩)
      ageCounter := if s.ageCounter + 1 < 2 ^ 32 then s.ageCounter + 1 else (Config.freeWord s.free).toNat
      free := if s.ageCounter + 1 < 2 ^ 32 then s.free else s.free + 1 } := by
  unfold createJob State.bumpAge State.fit32 State.takeFree State.setJob
  rcases s.jobs.findIdx? Option.isNone with _ | slot
  · rfl
  · dsimp only
    by_cases h : s.ageCounter + 1 < 2 ^ 32
    · simp only [if_pos h]
    · simp only [if_neg h]

/-- The kind of the job that an examination of a number creates, if it creates one. -/
def State.walkCreates (s : State) (n : Nat) : Option JobKind :=
  (s.lookup n).bind (fun x =>
    if s.slotMark x.1 x.2 = .complete ∧ !s.markPending n ∧ !s.hasFirstPrint n then
      some (printKind (kindOf ((s.sector x.1).kinds.getD x.2 0#8)))
    else none)

/-- An examination creates one job or does nothing. -/
theorem examineBacklog_eq (n : Nat) (s : State) : examineBacklog n s =
    match s.walkCreates n with
    | none => s
    | some k => createJob k (some n) none .queued s := by
  unfold examineBacklog State.walkCreates
  rcases s.lookup n with _ | ⟨i, slot⟩
  · rfl
  · dsimp only [Option.bind_some]
    by_cases h : s.slotMark i slot = .complete ∧ (!s.markPending n) = true ∧ (!s.hasFirstPrint n) = true
    · rw [if_pos h, if_pos h]
    · rw [if_neg h, if_neg h]

/-- The state with other numbers of the walk. -/
def State.withWalk (s : State) (x : Option Backlog) : State := { s with backlog := x }

@[simp] theorem withWalk_backlog (s : State) (x : Option Backlog) : (s.withWalk x).backlog = x := rfl

/-- An examination does not read the walk's own numbers. -/
theorem examineBacklog_withWalk (n : Nat) (s : State) (x : Option Backlog) :
    examineBacklog n (s.withWalk x) = (examineBacklog n s).withWalk x := by
  rw [examineBacklog_eq, examineBacklog_eq, show (s.withWalk x).walkCreates n = s.walkCreates n from rfl]
  rcases s.walkCreates n with _ | k
  · rfl
  · show createJob k (some n) none .queued (s.withWalk x) = (createJob k (some n) none .queued s).withWalk x
    rw [createJob_eq, createJob_eq, show (s.withWalk x).jobs = s.jobs from rfl]
    split <;> rfl

/-- The walk's next and end numbers after an examination: absent when the next number passes the end. -/
def Backlog.risen (b : Backlog) : Option Backlog := if b.last < b.next + 1 then none else some ⟨b.next + 1, b.last⟩

/-- The conditions of the walk. -/
abbrev State.walks (s : State) (b : Backlog) : Prop := s.backlogJobs < 8 ∧ 0 < s.freeSlots ∧ b.next ≤ b.last

/-- How many examinations the walk has at most. -/
def State.walkLeft (s : State) : Nat := s.backlog.elim 0 (fun b => b.last + 1 - b.next)

/-- With enough passes for the numbers that are left, the walk goes as far as its test takes it. -/
theorem walkBacklog_eq (k : Nat) (s : State) (h : s.walkLeft ≤ k) : walkBacklog k s = testBacklog s := by
  have stable : ∀ (k : Nat) (s : State), s.walkLeft ≤ k → walkBacklog k s = walkBacklog (k + 1) s := by
    intro k
    induction k with
    | zero =>
      intro s h
      rcases hb : s.backlog with _ | b
      · simp [walkBacklog, hb]
      · have : ¬ b.next ≤ b.last := by simp [State.walkLeft, hb] at h; omega
        simp [walkBacklog, hb, this]
    | succ k ih =>
      intro s h
      rw [walkBacklog, walkBacklog]
      rcases hb : s.backlog with _ | b
      · rfl
      dsimp only
      split
      · rcases hr : (s.retainedFrom b.next).filter (· ≤ b.last) with _ | n
        · rfl
        · refine ih _ ?_
          have := le_of_retainedFrom (Option.filter_eq_some_iff.mp hr).1
          rw [State.walkLeft, hb] at h
          rw [State.walkLeft]
          dsimp only [Option.elim_some] at h ⊢
          split
          · exact Nat.zero_le k
          · dsimp only [Option.elim_some]
            omega
      · rfl
  have : ∀ d, walkBacklog (s.walkLeft + d) s = testBacklog s := by
    intro d
    induction d with
    | zero => rfl
    | succ d ih => exact (stable _ s (Nat.le_add_right ..)).symm.trans ih
  rw [show k = s.walkLeft + (k - s.walkLeft) by omega]
  exact this _

/-- The walk stands while one of its conditions fails. -/
theorem testBacklog_stands {s : State} (h : ∀ b, s.backlog = some b → ¬ s.walks b) : testBacklog s = s := by
  rw [← walkBacklog_eq (s.walkLeft + 1) s (by omega), walkBacklog]
  rcases hb : s.backlog with _ | b
  · rfl
  · exact if_neg (h b hb)

/-- While its conditions hold the walk examines the entry at its next number, the next number rises by 1, and it goes on from
there. -/
theorem testBacklog_examines {s : State} {b : Backlog} (hb : s.backlog = some b) (hw : s.walks b) :
    testBacklog s = testBacklog ((examineBacklog b.next s).withWalk b.risen) := by
  have left : s.walkLeft = (b.last - b.next) + 1 := by
    have := hw.2.2
    simp only [State.walkLeft, hb, Option.elim]; omega
  have unfolded (k : Nat) (s : State) (b : Backlog) (hb : s.backlog = some b) (hw : s.walks b) : walkBacklog (k + 1) s =
      match (s.retainedFrom b.next).filter (· ≤ b.last) with
      | none => s.withWalk none
      | some n => walkBacklog k ((examineBacklog n s).withWalk (⟨n, b.last⟩ : Backlog).risen) := by
    rw [walkBacklog, hb]
    exact if_pos hw
  by_cases hn : s.retainedFrom b.next = some b.next
  · have hf : (s.retainedFrom b.next).filter (· ≤ b.last) = some b.next := by simp [hn, hw.2.2]
    rw [← walkBacklog_eq _ s (Nat.le_of_eq left), unfolded _ s b hb hw, hf]
    refine walkBacklog_eq _ _ ?_
    simp only [State.walkLeft, Backlog.risen, withWalk_backlog]
    split
    · exact Nat.zero_le _
    · show b.last + 1 - (b.next + 1) ≤ b.last - b.next
      omega
  · have hl : s.lookup b.next = none := by
      rcases hl : s.lookup b.next with _ | x
      · rfl
      · exact absurd (retainedFrom_lookup hl) hn
    rw [examineBacklog_none hl, ← walkBacklog_eq _ s (Nat.le_of_eq left), unfolded _ s b hb hw]
    by_cases hlt : b.last < b.next + 1
    · have : (s.retainedFrom b.next).filter (· ≤ b.last) = none := by
        refine Option.filter_eq_none_iff.mpr fun m hm => ?_
        have := le_of_retainedFrom hm
        have : m ≠ b.next := fun he => hn (he ▸ hm)
        simp only [decide_eq_true_eq]; omega
      rw [this, Backlog.risen, if_pos hlt]
      exact (testBacklog_stands (by simp)).symm
    · have hr : b.risen = some ⟨b.next + 1, b.last⟩ := if_neg hlt
      rw [hr]
      have hs : ((s.withWalk (some ⟨b.next + 1, b.last⟩)).retainedFrom (b.next + 1)) = s.retainedFrom b.next :=
        retainedFrom_succ hn
      have walks : (s.withWalk (some ⟨b.next + 1, b.last⟩)).walks ⟨b.next + 1, b.last⟩ :=
        ⟨hw.1, hw.2.1, by show b.next + 1 ≤ b.last; omega⟩
      rw [← walkBacklog_eq ((b.last - b.next) + 1) (s.withWalk (some ⟨b.next + 1, b.last⟩))
        (by show b.last + 1 - (b.next + 1) ≤ b.last - b.next + 1; omega), unfolded _ _ _ rfl walks]
      dsimp only
      rw [hs]
      rcases (s.retainedFrom b.next).filter (· ≤ b.last) with _ | n
      · rfl
      · dsimp only
        rw [examineBacklog_withWalk]
        rfl

/-! ## What the walk reads and writes -/

/-- All that the walk reads, and with it all that it writes. -/
def State.walkView (s : State) :=
  (s.jobs, s.backlog, s.ageCounter, s.free, s.sectors, s.head, s.pendingMarks)

/-- A walk writes the print queue, its own numbers, the age counter and the model's count of free values, and nothing else. -/
theorem walkBacklog_frame (k : Nat) (s : State) : walkBacklog k s = { s with
    jobs := (walkBacklog k s).jobs, backlog := (walkBacklog k s).backlog
    ageCounter := (walkBacklog k s).ageCounter, free := (walkBacklog k s).free } := by
  have examines (n : Nat) (s : State) : ∃ j a f, examineBacklog n s = { s with jobs := j, ageCounter := a, free := f } := by
    rw [examineBacklog_eq]
    split
    · exact ⟨_, _, _, rfl⟩
    · rw [createJob_eq]
      split
      · exact ⟨_, _, _, rfl⟩
      · exact ⟨_, _, _, rfl⟩
  have writes : ∃ j b a f, walkBacklog k s = { s with jobs := j, backlog := b, ageCounter := a, free := f } := by
    induction k generalizing s with
    | zero => exact ⟨_, _, _, _, rfl⟩
    | succ k ih =>
      rw [walkBacklog]
      split
      · exact ⟨_, _, _, _, rfl⟩
      · split
        · split
          · exact ⟨_, _, _, _, rfl⟩
          · rename_i n _
            obtain ⟨j, a, f, hx⟩ := examines n s
            obtain ⟨j', b', a', f', hw⟩ := ih { examineBacklog n s with backlog := _ }
            rw [hw, hx]
            exact ⟨_, _, _, _, rfl⟩
        · exact ⟨_, _, _, _, rfl⟩
  obtain ⟨j, b, a, f, hw⟩ := writes
  rw [hw]

/-- The walk's test writes the print queue, the walk's numbers, the age counter and the model's count of free values. -/
theorem testBacklog_frame (s : State) : testBacklog s = { s with
    jobs := (testBacklog s).jobs, backlog := (testBacklog s).backlog
    ageCounter := (testBacklog s).ageCounter, free := (testBacklog s).free } := walkBacklog_frame _ s

/-- A walk's effect depends on what it reads alone. -/
theorem testBacklog_congr {s t : State} (h : s.walkView = t.walkView) : (testBacklog s).walkView = (testBacklog t).walkView := by
  have walks (k : Nat) {s t : State} (h : s.walkView = t.walkView) : (walkBacklog k s).walkView = (walkBacklog k t).walkView := by
    induction k generalizing s t with
    | zero => exact h
    | succ k ih =>
      have hv := h
      simp only [State.walkView, Prod.mk.injEq] at h
      obtain ⟨hj, hb, ha, hf, hs, hh, hm⟩ := h
      have same : s.retainedFrom = t.retainedFrom ∧ s.walkCreates = t.walkCreates := by
        cases s
        cases t
        dsimp only at hj hs hh hm
        subst hj hs hh hm
        exact ⟨rfl, rfl⟩
      obtain ⟨hfrom, hcreates⟩ := same
      have hexam (n : Nat) (x : Option Backlog) :
          ((examineBacklog n s).withWalk x).walkView = ((examineBacklog n t).withWalk x).walkView := by
        rw [examineBacklog_eq, examineBacklog_eq, hcreates]
        split
        · simp only [State.withWalk, State.walkView, hj, ha, hf, hs, hh, hm]
        · rw [createJob_eq, createJob_eq, hj]
          split <;> simp only [State.withWalk, State.walkView, hj, ha, hf, hs, hh, hm]
      rw [walkBacklog, walkBacklog, hb]
      rcases t.backlog with _ | b
      · exact hv
      · dsimp only
        rw [State.backlogJobs, State.freeSlots, hj, hfrom, ← State.backlogJobs, ← State.freeSlots]
        split
        · split
          · simp only [State.walkView, ha, hf, hs, hh, hm]
          · exact ih (hexam _ _)
        · exact hv
  have : s.backlog = t.backlog := congrArg (fun v => v.2.1) h
  unfold testBacklog
  rw [this]
  exact walks _ h

end Sys2Proof.Machine
end

