-- ==== Sys2Proof/Laws/Memory.lean ====
section
/-! SUPPORT. What each memory operation does to one byte, and that each keeps the canonical form. -/

namespace Sys2Proof.Machine

/-! ## Reading and the canonical form -/

theorem memRead_nil (x : Nat) : memRead [] x = 0xFF#8 := rfl

/-- A canonical list with every address above `x` reads blank there. -/
theorem memRead_below {m : Memory} {x : Nat} (h : ∀ c ∈ m, x < c.1) : memRead m x = 0xFF#8 := by
  induction m with
  | nil => rfl
  | cons c m ih =>
    have hc := h c (by simp)
    have : c.1 ≠ x := by omega
    simp [memRead, this]
    exact ih (fun d hd => h d (by simp [hd]))

theorem wf_cons {a : Nat} {v : Byte} {m : Memory} :
    Memory.wf ((a, v) :: m) = true ↔ v ≠ 0xFF#8 ∧ (∀ c ∈ m, a < c.1) ∧ m.wf = true := by
  simp [Memory.wf, and_assoc]

/-! ## Writing one byte -/

/-- Every address listed after a write was listed before, or is the one written. -/
theorem mem_memWrite {m : Memory} {x : Nat} {v : Byte} {c : Host.Cell} (h : c ∈ memWrite m x v) :
    c.1 = x ∨ c ∈ m := by
  induction m with
  | nil =>
    simp only [memWrite] at h
    split at h <;> simp_all
  | cons d m ih =>
    obtain ⟨a, w⟩ := d
    simp only [memWrite] at h
    split at h
    · split at h
      · exact .inr h
      · rcases List.mem_cons.mp h with h | h
        · exact .inl (by simp [h])
        · exact .inr h
    · split at h
      · split at h
        · exact .inr (List.mem_cons_of_mem _ h)
        · rcases List.mem_cons.mp h with h | h
          · exact .inl (by simp [h])
          · exact .inr (List.mem_cons_of_mem _ h)
      · rcases List.mem_cons.mp h with h | h
        · simp [h]
        · rcases ih h with h | h
          · exact .inl h
          · exact .inr (by simp [h])

/-- A write keeps the canonical form. -/
theorem wf_memWrite {m : Memory} (h : m.wf = true) (x : Nat) (v : Byte) : (memWrite m x v).wf = true := by
  induction m with
  | nil =>
    simp only [memWrite]
    split <;> simp_all [Memory.wf]
  | cons d m ih =>
    obtain ⟨a, w⟩ := d
    obtain ⟨hw, ha, hm⟩ := wf_cons.mp h
    simp only [memWrite]
    split
    · split
      · exact h
      · refine wf_cons.mpr ⟨by assumption, ?_, h⟩
        intro c hc
        rcases List.mem_cons.mp hc with rfl | hc
        · assumption
        · have := ha c hc; omega
    · split
      · split
        · exact hm
        · subst_vars
          exact wf_cons.mpr ⟨by assumption, ha, hm⟩
      · refine wf_cons.mpr ⟨hw, ?_, ih hm⟩
        intro c hc
        rcases mem_memWrite hc with h | h
        · omega
        · exact ha c h

/-- A byte reads as it was written. -/
theorem memRead_memWrite_same {m : Memory} (h : m.wf = true) (x : Nat) (v : Byte) : memRead (memWrite m x v) x = v := by
  induction m with
  | nil =>
    simp only [memWrite]
    split <;> simp_all [memRead]
  | cons d m ih =>
    obtain ⟨a, w⟩ := d
    obtain ⟨_, ha, hm⟩ := wf_cons.mp h
    simp only [memWrite]
    split
    · split
      · rename_i hx hv
        rw [hv]
        exact memRead_below (by
          intro c hc
          rcases List.mem_cons.mp hc with rfl | hc
          · exact hx
          · have := ha c hc; omega)
      · simp [memRead]
    · split
      · split
        · rename_i hx hv
          rw [hv]
          exact memRead_below (by intro c hc; have := ha c hc; omega)
        · simp [memRead]
      · rename_i h1 h2
        have : a ≠ x := by omega
        simp [memRead, this, ih hm]

/-- A write leaves every other byte as it was. -/
theorem memRead_memWrite_other {m : Memory} {x y : Nat} (hxy : y ≠ x) (v : Byte) :
    memRead (memWrite m x v) y = memRead m y := by
  have hyx : x ≠ y := fun h => hxy h.symm
  induction m with
  | nil =>
    simp only [memWrite]
    split <;> simp [memRead, hyx]
  | cons d m ih =>
    obtain ⟨a, w⟩ := d
    simp only [memWrite]
    split
    · split <;> simp [memRead, hyx]
    · split
      · rename_i _ hax
        subst hax
        split <;> simp [memRead, hyx]
      · simp [memRead, ih]

/-! ## Programming, erasing, decay -/

/-- Programming keeps the canonical form. -/
theorem wf_memProgram {m : Memory} (h : m.wf = true) (a : Nat) (bs stuck lost : List Byte) :
    (memProgram m a bs stuck lost).wf = true := by
  induction bs generalizing m a stuck lost with
  | nil => exact h
  | cons b bs ih => exact ih (wf_memWrite h _ _) _ _ _

/-- Programming leaves every byte outside its range as it was. -/
theorem memRead_memProgram_outside {m : Memory} {a x : Nat} {bs : List Byte} (stuck lost : List Byte)
    (h : x < a ∨ a + bs.length ≤ x) : memRead (memProgram m a bs stuck lost) x = memRead m x := by
  induction bs generalizing m a stuck lost with
  | nil => rfl
  | cons b bs ih =>
    simp only [List.length_cons] at h
    rw [memProgram, ih _ _ (by omega), memRead_memWrite_other (by omega)]

/-- A verified programming keeps the canonical form. -/
theorem wf_memProgramVerify {m : Memory} (h : m.wf = true) (a : Nat) (bs : List Byte) (c : Cells) :
    (memProgramVerify m a bs c).1.wf = true := wf_memProgram h _ _ _ _

/-- Selecting some of its bytes keeps the canonical form. -/
theorem wf_filter {m : Memory} (h : m.wf = true) (f : Host.Cell → Bool) : Memory.wf (m.filter f) = true := by
  induction m with
  | nil => rfl
  | cons d m ih =>
    obtain ⟨a, w⟩ := d
    obtain ⟨hw, ha, hm⟩ := wf_cons.mp h
    simp only [List.filter_cons]
    split
    · exact wf_cons.mpr ⟨hw, fun c hc => ha c (List.mem_filter.mp hc).1, ih hm⟩
    · exact ih hm

/-- An erase keeps the canonical form. -/
theorem wf_memErase {m : Memory} (h : m.wf = true) (a n : Nat) : (memErase m a n).wf = true := wf_filter h _

/-- One byte after a selection by address. -/
theorem memRead_filter (m : Memory) (f : Nat → Bool) (x : Nat) :
    memRead (m.filter (fun c => f c.1)) x = if f x then memRead m x else 0xFF#8 := by
  induction m with
  | nil => simp [memRead]
  | cons d m ih =>
    obtain ⟨a, w⟩ := d
    by_cases hax : a = x
    · subst hax
      by_cases hf : f a <;> simp_all [memRead]
    · by_cases hf : f a <;> simp_all [memRead]

/-- An erased byte is blank. -/
theorem memRead_memErase_inside {m : Memory} {a n x : Nat} (h : a ≤ x ∧ x < a + n) :
    memRead (memErase m a n) x = 0xFF#8 :=
  (memRead_filter m (fun y => !(a ≤ y && y < a + n)) x).trans (by simp [h])

/-- An erase leaves every byte outside its range as it was. -/
theorem memRead_memErase_outside {m : Memory} {a n x : Nat} (h : x < a ∨ a + n ≤ x) :
    memRead (memErase m a n) x = memRead m x :=
  (memRead_filter m (fun y => !(a ≤ y && y < a + n)) x).trans (by simp; omega)

/-- Decay keeps the canonical form. -/
theorem wf_memDecay {m : Memory} (h : m.wf = true) (a n : Nat) (d : List (Nat × Byte)) : (memDecay m a n d).wf = true := by
  unfold memDecay
  induction d generalizing m with
  | nil => exact h
  | cons c d ih =>
    simp only [List.foldl_cons]
    split
    · exact ih (wf_memWrite h _ _)
    · exact ih h

end Sys2Proof.Machine
end

