-- ==== Sys2Proof/Laws/Erase.lean ====
section
/-! SUPPORT. What the operations of erase-ahead, the selection of a waiting commit and the void of a capture do: a blank sector, the
BAD pattern, the ring, and the forms of them that the statements use (R56, R117, R124, R131, R132). -/

namespace Sys2Proof.Machine

/-! ## A blank sector and the BAD pattern (R132) -/

/-- A cell of a canonical memory is what its address reads as, and not blank. -/
theorem memRead_mem {m : Memory} (h : m.wf = true) {c : Host.Cell} (hc : c ∈ m) : memRead m c.1 = c.2 ∧ c.2 ≠ 0xFF#8 := by
  induction m with
  | nil => cases hc
  | cons d m ih =>
    obtain ⟨hv, hb, hm⟩ := wf_cons.mp h
    rcases List.mem_cons.mp hc with rfl | hc
    · exact ⟨by simp [memRead], hv⟩
    · have : d.1 ≠ c.1 := Nat.ne_of_lt (hb c hc)
      simpa [memRead, this] using ih hm hc

/-- An address that no cell names reads blank. -/
theorem memRead_unlisted {m : Memory} {x : Nat} (h : ∀ c ∈ m, c.1 ≠ x) : memRead m x = 0xFF#8 := by
  induction m with
  | nil => rfl
  | cons c m ih =>
    have hc := h c (by simp)
    simpa [memRead, hc] using ih (fun d hd => h d (by simp [hd]))

/-- A sector is blank when each of its 4096 bytes reads 0xFF. -/
theorem sectorBlank_iff {m : Memory} (h : m.wf = true) (i : Nat) :
    sectorBlank m i = true ↔ ∀ k, k < 4096 → memRead m (4096 * i + k) = 0xFF#8 := by
  simp only [sectorBlank, List.all_eq_true, Bool.not_eq_true', Bool.and_eq_false_iff, decide_eq_false_iff_not]
  refine ⟨fun hb k hk => memRead_unlisted (fun c hc => ?_), fun hb c hc => ?_⟩
  · have := hb c hc
    omega
  · obtain ⟨hr, hn⟩ := memRead_mem h hc
    by_cases hin : 4096 * i ≤ c.1 ∧ c.1 < 4096 * i + 4096
    · have := hb (c.1 - 4096 * i) (by omega)
      rw [show 4096 * i + (c.1 - 4096 * i) = c.1 by omega, hr] at this
      exact absurd this hn
    · omega

/-- Decay changes no byte outside its range. -/
theorem memRead_memDecay_outside {m : Memory} {a n x : Nat} (h : x < a ∨ a + n ≤ x) (d : List (Nat × Byte)) :
    memRead (memDecay m a n d) x = memRead m x := by
  unfold memDecay
  induction d generalizing m with
  | nil => rfl
  | cons c d ih =>
    simp only [List.foldl_cons]
    rw [ih]
    split
    · exact memRead_memWrite_other (by omega) _
    · rfl

/-- The BAD pattern reads 0x00 in every status byte of its sector, changes no other byte, and keeps the canonical form. -/
theorem programBad_spec (i : Nat) {m : Memory} (h : m.wf = true) :
    (programBad i m).wf = true ∧ ∀ y, memRead (programBad i m) y =
      if ∃ slot ∈ List.range 16, y = 4096 * i + 256 * slot then 0x00#8 else memRead m y := by
  unfold programBad
  induction List.range 16 generalizing m with
  | nil => exact ⟨h, fun y => by simp⟩
  | cons k ks ih =>
    simp only [List.foldl_cons]
    obtain ⟨hw, hr⟩ := ih (wf_memProgram h (entryAddr i k) [markPattern .badPattern] [] [])
    refine ⟨hw, fun y => (hr y).trans ?_⟩
    by_cases hks : ∃ slot ∈ ks, y = 4096 * i + 256 * slot
    · rw [if_pos hks, if_pos]
      obtain ⟨slot, hs, hy⟩ := hks
      exact ⟨slot, List.mem_cons_of_mem _ hs, hy⟩
    · rw [if_neg hks]
      by_cases hy : y = 4096 * i + 256 * k
      · rw [if_pos ⟨k, by simp, hy⟩]
        subst hy
        simp [memProgram, entryAddr, memRead_memWrite_same h, programByte, markPattern]
      · rw [if_neg]
        · refine memRead_memProgram_outside [] [] ?_
          simp only [entryAddr, List.length_singleton]
          omega
        · rintro ⟨slot, hs, hy'⟩
          rcases List.mem_cons.mp hs with rfl | hs
          · exact hy hy'
          · exact hks ⟨slot, hs, hy'⟩

/-! ## The ring (R117) -/

/-- The FILLING sector of a map of 32 records is the first in the list. -/
theorem find_filling {s : State} (h : s.sectors.length = 32) :
    sectorIndexes.find? (fun i => (s.sector i).state == .filling) = s.sectors.findIdx? (fun c => c.state == .filling) := by
  generalize hf : s.sectors.findIdx? _ = o
  rcases o with _ | i
  · rw [List.find?_eq_none]
    intro i hi
    have hi : i < s.sectors.length := by simpa [sectorIndexes, h] using hi
    have := List.findIdx?_eq_none_iff.mp hf _ (List.getElem_mem hi)
    simpa [State.sector, List.getD_eq_getElem?_getD, hi] using this
  · obtain ⟨hi, hp, hlt⟩ := List.findIdx?_eq_some_iff_getElem.mp hf
    rw [sectorIndexes, ← h]
    refine List.find?_range_eq_some.mpr ⟨?_, by simpa using hi, fun j hj => ?_⟩
    · simpa [State.sector, List.getD_eq_getElem?_getD, hi] using hp
    · have hjl : j < s.sectors.length := by omega
      simpa [State.sector, List.getD_eq_getElem?_getD, hjl] using hlt j hj

/-- The walk of the ring, with the current sector spelled out. -/
theorem ringAhead_eq {s : State} (h : s.sectors.length = 32) : s.ringAhead = ringOf s := by
  unfold State.ringAhead ringOf State.current
  rw [find_filling h]
  have nil (i : Nat) : ((s.sector i).state != SectorState.bad) = decide ((s.sector i).state ≠ .bad) := by
    by_cases hb : (s.sector i).state = .bad <;> simp [hb]
  simp only [nil]
  congr 1
  generalize s.sectors.findIdx? _ = o
  rcases o with _ | i
  · rcases hn : s.newest with _ | n
    · rfl
    · rcases hl : s.lookup n with _ | x <;> simp [hl, sectorIndexes]
  · rfl

/-- The ahead run, with the ring spelled out. -/
theorem aheadRun_eq {s : State} (h : s.sectors.length = 32) : s.aheadRun = aheadOf s := by
  unfold State.aheadRun aheadOf
  rw [ringAhead_eq h]
  congr 1
  funext i
  by_cases h1 : (s.sector i).state = .erased <;> by_cases h2 : (s.sector i).state = .erasing <;> simp [aheadState, h1, h2]

/-! ## A waiting commit, and the void of a capture (R56, R124) -/

/-- The selection of a waiting commit at the end of an erase. -/
theorem selectAgain_eq {s : State} (h : s.sectors.length = 32) : selectAgain s = waitingSelects s := by
  unfold selectAgain waitingSelects
  rcases hh : s.head with _ | w
  · rfl
  rcases hq : s.commitQueue with _ | ⟨r, rs⟩
  · rfl
  simp only []
  by_cases hs : w.step = .waitErasing ∨ w.step = .waitEmpty
  · have hn : ¬ (w.step ≠ .waitErasing ∧ w.step ≠ .waitEmpty) := fun ⟨a, b⟩ => hs.elim a b
    rw [if_pos hs, if_neg hn, ← hq, ← aheadRun_eq h]
    unfold selectEntry
    generalize s.sectors.findIdx? _ = o
    rcases o with _ | i
    · rcases s.aheadRun with _ | ⟨i, is⟩
      · by_cases he : w.step = .waitEmpty
        · have same : { w with step := .waitEmpty } = w := by rw [← he]
          simp only [he, if_true, same, ← hh]
        · simp only [he, if_false]
      · simp only []
        split <;> rfl
    · rfl
  · rw [if_neg hs, if_pos (not_or.mp hs)]

/-- The failure of a voided ticket's capture. -/
theorem voidCapture_eq (t : Ticket) (s : State) : voidCapture t s = captureVoided t s := by
  unfold voidCapture captureVoided failArmed failCapture removeCapture
  rcases t.capture with _ | sc
  · rfl
  rcases hk : (s.chan sc).capture with _ | k
  · simp [hk]
  have code : be 1 7 = [7#8] := by decide
  rcases hn : k.ticket with _ | n
  · simp [hk, hn, offerTo, State.updPort, State.updChan, weighFailed, beIntOpt, absent, failureCode, code]
    rfl
  · have turn (r : Ticket) : (some n = some r.number) = (r.number = n) := by simp [@eq_comm _ n]
    simp only [hk, hn, turn, offerTo, State.updPort, State.updChan, State.updTicket, weighFailed, beIntOpt, absent, failureCode, code,
      Option.bind_some, Option.map_some, beq_iff_eq]
    rfl

end Sys2Proof.Machine
end

