-- ==== Sys2Proof/Laws/Requests.lean ====
section
/-! SUPPORT. What a request, an event and a check do, once for every meaning that is built from them. -/

namespace Sys2Proof.Machine

/-! ## Events (R206) -/

theorem event_powered {s : State} (h : s.powered = true) (f : State → State) : event s f = .next (f s) := by
  simp [event, h]

theorem event_unpowered {s : State} (h : s.powered = false) (f : State → State) : event s f = .next s := by
  simp [event, h]

/-- An event answers a next state. -/
theorem event_next (s : State) (f : State → State) : ∃ t, event s f = .next t := ⟨_, rfl⟩

/-! ## Frames and requests (R176 to R178) -/

/-- The state a request's owner meets, as one change of the port's context. -/
theorem taken_eq (p : Port) (s : State) :
    taken p s = s.updPort p (fun c =>
      { c with summaryOut := summaryByte c, dataOut := [], state := .busy, result := none }) := by
  simp [taken, beginFrame]

theorem takeFrame_taken {p : Port} {s : State} (h : (s.port p).state ≠ .busy) (f : State → State) :
    takeFrame p f s = f (taken p s) := by
  simp [takeFrame, beginFrame, taken, h]

theorem takeFrame_busy {p : Port} {s : State} (h : (s.port p).state = .busy) (f : State → State) :
    takeFrame p f s = (beginFrame p s).updPort p (fun c => { c with overrun := true }) := by
  simp [takeFrame, beginFrame, h]

/-- A request that is taken is handed to its owner. -/
theorem request_taking {p : Port} {s : State} (h : Taking p s) (f : State → State) :
    request p s f = .next (f (taken p s)) := by
  obtain ⟨hp, hb, he⟩ := h
  rw [request, event_powered hp, takeFrame_taken hb]
  simp [taken_eq, he]

/-- A disabled port answers DISABLED. -/
theorem request_disabled {p : Port} {s : State} (hp : s.powered = true) (hb : (s.port p).state ≠ .busy)
    (he : (s.port p).enabled = false) (f : State → State) : request p s f = .next (answered p .disabled [] s) := by
  rw [request, event_powered hp, takeFrame_taken hb]
  simp [taken_eq, he, answered, refuse]

/-- A BUSY port discards the request and sets its overrun flag. -/
theorem request_busy {p : Port} {s : State} (hp : s.powered = true) (hb : (s.port p).state = .busy) (f : State → State) :
    request p s f = .next ((beginFrame p s).updPort p (fun c => { c with overrun := true })) := by
  rw [request, event_powered hp, takeFrame_busy hb]

theorem request_unpowered {s : State} (h : s.powered = false) (p : Port) (f : State → State) : request p s f = .next s :=
  event_unpowered h _

/-- A request answers a next state. -/
theorem request_next (p : Port) (s : State) (f : State → State) : ∃ t, request p s f = .next t := ⟨_, rfl⟩

/-! ## Checks -/

/-- When every check holds, the request goes on. -/
theorem guarded_pass {p : Port} {cs : List (Bool × ResultCode)} (h : ∀ c ∈ cs, c.1 = true) (f : State → State) (s : State) :
    guarded p cs f s = f s := by
  induction cs with
  | nil => rfl
  | cons c cs ih =>
    obtain ⟨ok, code⟩ := c
    have : ok = true := h (ok, code) (by simp)
    subst this
    exact ih (fun d hd => h d (by simp [hd]))

@[simp] theorem guarded_nil (p : Port) (f : State → State) (s : State) : guarded p [] f s = f s := rfl

@[simp] theorem guarded_cons_true (p : Port) (code : ResultCode) (cs : List (Bool × ResultCode)) (f : State → State)
    (s : State) : guarded p ((true, code) :: cs) f s = guarded p cs f s := rfl

@[simp] theorem guarded_cons_false (p : Port) (code : ResultCode) (cs : List (Bool × ResultCode)) (f : State → State)
    (s : State) : guarded p ((false, code) :: cs) f s = refuse p code s := rfl

/-- A guarded request either goes on, or is refused with one of its codes. -/
theorem guarded_cases (p : Port) (cs : List (Bool × ResultCode)) (f : State → State) (s : State) :
    guarded p cs f s = f s ∨ ∃ code, guarded p cs f s = refuse p code s := by
  induction cs with
  | nil => exact .inl rfl
  | cons c cs ih =>
    obtain ⟨ok, code⟩ := c
    cases ok
    · exact .inr ⟨code, rfl⟩
    · exact ih

theorem withTicket_ok {p : Port} {n : Half} {s : State} {t : Ticket} (h : s.namedTicket n = .ok t)
    (f : Ticket → State → State) : withTicket p n f s = f t s := by
  simp [withTicket, h]

theorem withTicket_error {p : Port} {n : Half} {s : State} {code : ResultCode} (h : s.namedTicket n = .error code)
    (f : Ticket → State → State) : withTicket p n f s = refuse p code s := by
  simp [withTicket, h]

/-- A request on a ticket either goes on with a ticket that is named, or is refused. -/
theorem withTicket_cases (p : Port) (n : Half) (f : Ticket → State → State) (s : State) :
    (∃ t, s.namedTicket n = .ok t ∧ withTicket p n f s = f t s) ∨ ∃ code, withTicket p n f s = refuse p code s := by
  unfold withTicket
  split
  · exact .inr ⟨_, rfl⟩
  · exact .inl ⟨_, ‹_›, rfl⟩

/-- A ticket that is named has that number. -/
theorem namedTicket_number {s : State} {n : Half} {t : Ticket} (h : s.namedTicket n = .ok t) :
    s.ticket n.toNat = some t ∧ t.number = n.toNat := by
  unfold State.namedTicket at h
  split at h
  · cases h
  · split at h
    · cases h
    · rename_i u hu
      cases h
      refine ⟨hu, ?_⟩
      have := List.find?_some hu
      simpa using this

/-! ## What a taken request leaves as it was -/

@[simp] theorem taken_pending (p : Port) (s : State) : (taken p s).pending = s.pending := rfl
@[simp] theorem taken_supply (p : Port) (s : State) : (taken p s).supply = s.supply := rfl
@[simp] theorem taken_resetHigh (p : Port) (s : State) : (taken p s).resetHigh = s.resetHigh := rfl
@[simp] theorem taken_lostSupply (p : Port) (s : State) : (taken p s).lostSupply = s.lostSupply := rfl
@[simp] theorem taken_mode (p : Port) (s : State) : (taken p s).mode = s.mode := rfl
@[simp] theorem taken_settings (p : Port) (s : State) : (taken p s).settings = s.settings := rfl
@[simp] theorem taken_dirty (p : Port) (s : State) : (taken p s).dirty = s.dirty := rfl
@[simp] theorem taken_storeRecord (p : Port) (s : State) : (taken p s).storeRecord = s.storeRecord := rfl
@[simp] theorem taken_storeWrite (p : Port) (s : State) : (taken p s).storeWrite = s.storeWrite := rfl
@[simp] theorem taken_store (p : Port) (s : State) : (taken p s).store = s.store := rfl
@[simp] theorem taken_channels (p : Port) (s : State) : (taken p s).channels = s.channels := rfl
@[simp] theorem taken_cal (p : Port) (s : State) : (taken p s).cal = s.cal := rfl
@[simp] theorem taken_calJobs (p : Port) (s : State) : (taken p s).calJobs = s.calJobs := rfl
@[simp] theorem taken_tares (p : Port) (s : State) : (taken p s).tares = s.tares := rfl
@[simp] theorem taken_tickets (p : Port) (s : State) : (taken p s).tickets = s.tickets := rfl
@[simp] theorem taken_nextTicket (p : Port) (s : State) : (taken p s).nextTicket = s.nextTicket := rfl
@[simp] theorem taken_clock (p : Port) (s : State) : (taken p s).clock = s.clock := rfl
@[simp] theorem taken_clockSet (p : Port) (s : State) : (taken p s).clockSet = s.clockSet := rfl
@[simp] theorem taken_holds (p : Port) (s : State) : (taken p s).holds = s.holds := rfl
@[simp] theorem taken_settlements (p : Port) (s : State) : (taken p s).settlements = s.settlements := rfl
@[simp] theorem taken_journal (p : Port) (s : State) : (taken p s).journal = s.journal := rfl
@[simp] theorem taken_sectors (p : Port) (s : State) : (taken p s).sectors = s.sectors := rfl
@[simp] theorem taken_scanned (p : Port) (s : State) : (taken p s).scanned = s.scanned := rfl
@[simp] theorem taken_counter (p : Port) (s : State) : (taken p s).counter = s.counter := rfl
@[simp] theorem taken_exhausted (p : Port) (s : State) : (taken p s).exhausted = s.exhausted := rfl
@[simp] theorem taken_commitQueue (p : Port) (s : State) : (taken p s).commitQueue = s.commitQueue := rfl
@[simp] theorem taken_head (p : Port) (s : State) : (taken p s).head = s.head := rfl
@[simp] theorem taken_engine (p : Port) (s : State) : (taken p s).engine = s.engine := rfl
@[simp] theorem taken_pass (p : Port) (s : State) : (taken p s).pass = s.pass := rfl
@[simp] theorem taken_pendingMarks (p : Port) (s : State) : (taken p s).pendingMarks = s.pendingMarks := rfl
@[simp] theorem taken_lowFlag (p : Port) (s : State) : (taken p s).lowFlag = s.lowFlag := rfl
@[simp] theorem taken_eraseRecord (p : Port) (s : State) : (taken p s).eraseRecord = s.eraseRecord := rfl
@[simp] theorem taken_jobs (p : Port) (s : State) : (taken p s).jobs = s.jobs := rfl
@[simp] theorem taken_pe (p : Port) (s : State) : (taken p s).pe = s.pe := rfl
@[simp] theorem taken_ageCounter (p : Port) (s : State) : (taken p s).ageCounter = s.ageCounter := rfl
@[simp] theorem taken_backlog (p : Port) (s : State) : (taken p s).backlog = s.backlog := rfl
@[simp] theorem taken_tally (p : Port) (s : State) : (taken p s).tally = s.tally := rfl
@[simp] theorem taken_snapshot (p : Port) (s : State) : (taken p s).snapshot = s.snapshot := rfl
@[simp] theorem taken_faults (p : Port) (s : State) : (taken p s).faults = s.faults := rfl
@[simp] theorem taken_firstFault (p : Port) (s : State) : (taken p s).firstFault = s.firstFault := rfl
@[simp] theorem taken_free (p : Port) (s : State) : (taken p s).free = s.free := rfl
@[simp] theorem taken_msPhase (p : Port) (s : State) : (taken p s).msPhase = s.msPhase := rfl
@[simp] theorem taken_powered (p : Port) (s : State) : (taken p s).powered = s.powered := rfl
@[simp] theorem taken_isRun (p : Port) (s : State) : (taken p s).isRun = s.isRun := rfl
@[simp] theorem taken_isConfig (p : Port) (s : State) : (taken p s).isConfig = s.isConfig := rfl
@[simp] theorem taken_started (p : Port) (s : State) : (taken p s).started = s.started := rfl
@[simp] theorem taken_role (p : Port) (s : State) (q : Port) : (taken p s).role q = s.role q := rfl
@[simp] theorem taken_isOffice (p : Port) (s : State) (q : Port) : (taken p s).isOffice q = s.isOffice q := rfl
@[simp] theorem taken_isScaleOrOffice (p : Port) (s : State) (q : Port) : (taken p s).isScaleOrOffice q = s.isScaleOrOffice q := rfl
@[simp] theorem taken_isWindowOrOffice (p : Port) (s : State) (q : Port) : (taken p s).isWindowOrOffice q = s.isWindowOrOffice q := rfl
@[simp] theorem taken_notView (p : Port) (s : State) (q : Port) : (taken p s).notView q = s.notView q := rfl
@[simp] theorem taken_portSettings (p : Port) (s : State) (q : Port) : (taken p s).portSettings q = s.portSettings q := rfl
@[simp] theorem taken_claimsHeld (p : Port) (s : State) (q : Port) : (taken p s).claimsHeld q = s.claimsHeld q := rfl
@[simp] theorem taken_scaleSettings (p : Port) (s : State) (sc : Scale) : (taken p s).scaleSettings sc = s.scaleSettings sc := rfl
@[simp] theorem taken_chan (p : Port) (s : State) (sc : Scale) : (taken p s).chan sc = s.chan sc := rfl
@[simp] theorem taken_stable (p : Port) (s : State) (sc : Scale) : (taken p s).stable sc = s.stable sc := rfl
@[simp] theorem taken_ticket (p : Port) (s : State) (n : Nat) : (taken p s).ticket n = s.ticket n := rfl
@[simp] theorem taken_namedTicket (p : Port) (s : State) (n : Half) : (taken p s).namedTicket n = s.namedTicket n := rfl
@[simp] theorem taken_grade (p : Port) (s : State) (g : Nat) : (taken p s).grade g = s.grade g := rfl
@[simp] theorem taken_gradeActive (p : Port) (s : State) (g : Nat) : (taken p s).gradeActive g = s.gradeActive g := rfl
@[simp] theorem taken_gradeRestricted (p : Port) (s : State) (g : Nat) : (taken p s).gradeRestricted g = s.gradeRestricted g := rfl
@[simp] theorem taken_ticketRestricted (p : Port) (s : State) (t : Ticket) : (taken p s).ticketRestricted t = s.ticketRestricted t := rfl
@[simp] theorem taken_fault (p : Port) (s : State) (k : FaultKind) : (taken p s).fault k = s.fault k := rfl
@[simp] theorem taken_masked (p : Port) (s : State) (k : FaultKind) : (taken p s).masked k = s.masked k := rfl
@[simp] theorem taken_tareSlot (p : Port) (s : State) (v : List Byte) : (taken p s).tareSlot v = s.tareSlot v := rfl
@[simp] theorem taken_tareAt (p : Port) (s : State) (i : Nat) : (taken p s).tareAt i = s.tareAt i := rfl
@[simp] theorem taken_tareValid (p : Port) (s : State) (e : Tare) : (taken p s).tareValid e = s.tareValid e := rfl
@[simp] theorem taken_tarePlace (p : Port) (s : State) (v : List Byte) : (taken p s).tarePlace v = s.tarePlace v := rfl
@[simp] theorem taken_job (p : Port) (s : State) (slot : Nat) : (taken p s).job slot = s.job slot := rfl
@[simp] theorem taken_markPending (p : Port) (s : State) (n : Nat) : (taken p s).markPending n = s.markPending n := rfl
@[simp] theorem taken_hasFirstPrint (p : Port) (s : State) (n : Nat) : (taken p s).hasFirstPrint n = s.hasFirstPrint n := rfl
@[simp] theorem taken_maskAdmits (p q : Port) (s : State) (b : Byte) : (taken p s).maskAdmits q b = s.maskAdmits q b := rfl
@[simp] theorem taken_sector (p : Port) (s : State) (i : Nat) : (taken p s).sector i = s.sector i := rfl
@[simp] theorem taken_inProgress (p : Port) (s : State) : (taken p s).inProgress = s.inProgress := rfl
@[simp] theorem taken_extent (p : Port) (s : State) (i : Nat) : (taken p s).extent i = s.extent i := by
  unfold State.extent
  rw [taken_sector, taken_inProgress]
@[simp] theorem taken_oldest (p : Port) (s : State) : (taken p s).oldest = s.oldest := by
  simp only [State.oldest, taken_sector, taken_extent]
@[simp] theorem taken_newest (p : Port) (s : State) : (taken p s).newest = s.newest := by
  simp only [State.newest, taken_sector, taken_extent]
@[simp] theorem taken_slotMark (p : Port) (s : State) (i slot : Nat) : (taken p s).slotMark i slot = s.slotMark i slot := rfl
@[simp] theorem taken_places (p : Port) (s : State) (n : Nat) : (taken p s).places n = s.places n := by
  simp only [State.places, State.slotIn, taken_sector, taken_extent]
@[simp] theorem taken_lookup (p : Port) (s : State) (n : Nat) : (taken p s).lookup n = s.lookup n := by
  simp only [State.lookup, taken_places]
@[simp] theorem taken_unaudited (p : Port) (s : State) (n : Nat) : (taken p s).unaudited n = s.unaudited n := by
  simp only [State.unaudited, taken_places, taken_slotMark]
@[simp] theorem taken_retainedNumbers (p : Port) (s : State) : (taken p s).retainedNumbers = s.retainedNumbers := by
  simp only [State.retainedNumbers, taken_oldest, taken_newest, taken_lookup]
@[simp] theorem taken_retainedWithin (p : Port) (s : State) (a n : Nat) :
    (taken p s).retainedWithin a n = s.retainedWithin a n := by
  simp only [State.retainedWithin, taken_retainedNumbers]
@[simp] theorem taken_entryMark (p : Port) (s : State) (n : Nat) : (taken p s).entryMark n = s.entryMark n := by
  simp only [State.entryMark, taken_lookup, taken_slotMark]
@[simp] theorem taken_auditMark (p : Port) (s : State) : (taken p s).auditMark = s.auditMark := by
  simp only [State.auditMark, taken_retainedNumbers, taken_newest, taken_unaudited, taken_counter]
@[simp] theorem taken_firstUnprinted (p : Port) (s : State) (n : Nat) :
    (taken p s).firstUnprinted n = s.firstUnprinted n := by
  simp only [State.firstUnprinted, taken_retainedWithin, State.auditable, taken_auditMark, taken_places, taken_slotMark]
@[simp] theorem taken_unprinted (p : Port) (s : State) (n : Nat) : (taken p s).unprinted n = s.unprinted n := by
  simp only [State.unprinted, taken_entryMark, taken_markPending]
@[simp] theorem taken_printable (p : Port) (s : State) (n : Nat) : (taken p s).printable n = s.printable n := by
  simp only [State.printable, taken_entryMark]
@[simp] theorem taken_current (p : Port) (s : State) : (taken p s).current = s.current := by
  simp only [State.current, taken_sector, taken_newest, taken_lookup]
@[simp] theorem taken_space (p : Port) (s : State) : (taken p s).space = s.space := by
  simp only [State.space, State.fillingFree, State.aheadRun, State.ringAhead, taken_current, taken_sector, taken_exhausted,
    taken_sectors, taken_commitQueue]
@[simp] theorem taken_freeSlots (p : Port) (s : State) : (taken p s).freeSlots = s.freeSlots := rfl
@[simp] theorem taken_noTallyJob (p : Port) (s : State) : (taken p s).noTallyJob = s.noTallyJob := rfl
@[simp] theorem taken_loaded (p : Port) (s : State) (sc : Scale) : (taken p s).loaded sc = s.loaded sc := rfl
@[simp] theorem taken_namedJob (p : Port) (s : State) (slot kind : Byte) (n : Word) :
    (taken p s).namedJob slot kind n = s.namedJob slot kind n := rfl
@[simp] theorem taken_drained (p : Port) (s : State) : (taken p s).drained = s.drained := by
  simp only [State.drained, State.noCapture, State.noCommit, State.noPrinting, taken_chan, taken_commitQueue,
    taken_settlements, taken_jobs, taken_pass, taken_storeWrite]
@[simp] theorem taken_storedTare (p : Port) (s : State) (v : List Byte) (c : Class) :
    (taken p s).storedTare v c = s.storedTare v c := rfl

theorem taken_port_other (p : Port) {q : Port} (h : q ≠ p) (s : State) : (taken p s).port q = s.port q := by
  rw [taken_eq, updPort_port_other s h]

/-! ## What the owner's state keeps -/

@[simp] theorem taken_port_state (p : Port) (s : State) : ((taken p s).port p).state = .busy := by simp [taken_eq]

@[simp] theorem taken_port_enabled (p : Port) (s : State) : ((taken p s).port p).enabled = (s.port p).enabled := by
  simp [taken_eq]

@[simp] theorem reply_port_state (p : Port) (code : ResultCode) (data : List Byte) (s : State) :
    ((reply p code data s).port p).state = .done := by simp [reply]

@[simp] theorem reply_port_result (p : Port) (code : ResultCode) (data : List Byte) (s : State) :
    ((reply p code data s).port p).result = some ⟨code, data⟩ := by simp [reply]

theorem reply_port_other (p : Port) {q : Port} (h : q ≠ p) (code : ResultCode) (data : List Byte) (s : State) :
    (reply p code data s).port q = s.port q := updPort_port_other s h _

end Sys2Proof.Machine
end

