-- ==== Sys2Proof/Laws/Keeps.lean ====
section
/-! SUPPORT. What the shared operations keep: the queue of waiting commands, and the shape of the state. -/

namespace Sys2Proof.Machine

/-! ## The relation -/

/-- From `s` to `t` the queue stays, and so does the shape of the state. -/
structure Keeps (s t : State) : Prop where
  pending : t.pending = s.pending
  sound : s.Sound → t.Sound

/-- The fields that the queue and the shape speak of. -/
def State.shape (s : State) :=
  (s.pending, s.journal, s.cal, s.settings, s.store, s.storeWrite, s.tares, s.tickets, s.sectors, s.jobs, s.faults,
    s.ports, s.clock)

theorem Keeps.refl (s : State) : Keeps s s := ⟨rfl, id⟩

theorem Keeps.trans {s t u : State} (h : Keeps s t) (k : Keeps t u) : Keeps s u :=
  ⟨k.pending.trans h.pending, fun x => k.sound (h.sound x)⟩

/-- A change of other fields keeps them. -/
theorem Keeps.same {s t : State} (h : t.shape = s.shape) : Keeps s t := by
  simp only [State.shape, Prod.mk.injEq] at h
  obtain ⟨h1, h2, h3, h4, h5, h6, h7, h8, h9, h10, h11, h12, h13⟩ := h
  refine ⟨h1, fun k => ⟨?_, ?_, ?_, ?_⟩⟩
  · rw [h2, h3]; exact k.arrays
  · rw [h4, h5, h6, h7, h8, h9, h10, h11]; exact k.tables
  · rw [h12]; exact k.ports
  · rw [h13]; exact k.clock

theorem Keeps.ite {s t u : State} {c : Prop} [Decidable c] (h : Keeps s t) (k : Keeps s u) :
    Keeps s (if c then t else u) := by
  split
  · exact h
  · exact k

/-- A fold of steps that keep. -/
theorem keeps_foldl {α : Type} (f : State → α → State) (h : ∀ s a, Keeps s (f s a)) (l : List α) (s : State) :
    Keeps s (l.foldl f s) := by
  induction l generalizing s with
  | nil => exact .refl s
  | cons a l ih => exact (h s a).trans (ih _)

/-! ## One field at a time -/

theorem keeps_updPort (s : State) (p : Port) {f : PortCtx → PortCtx} (hf : ∀ c, c.Sound → (f c).Sound) :
    Keeps s (s.updPort p f) := by
  refine ⟨rfl, fun h => ⟨h.arrays, h.tables, ?_, h.clock⟩⟩
  obtain ⟨h0, h1, h2, h3⟩ := h.ports
  cases p
  · exact ⟨hf _ h0, h1, h2, h3⟩
  · exact ⟨h0, hf _ h1, h2, h3⟩
  · exact ⟨h0, h1, hf _ h2, h3⟩
  · exact ⟨h0, h1, h2, hf _ h3⟩

theorem keeps_updChan (s : State) (sc : Scale) (f : Channel → Channel) : Keeps s (s.updChan sc f) := .same rfl

theorem keeps_tickets {s : State} {ts : List Ticket} (h : s.tickets.length ≤ 48 → ts.length ≤ 48) :
    Keeps s { s with tickets := ts } :=
  ⟨rfl, fun k => ⟨k.arrays, { k.tables with tickets := h k.tables.tickets }, k.ports, k.clock⟩⟩

theorem keeps_updTicket (s : State) (n : Nat) (f : Ticket → Ticket) : Keeps s (s.updTicket n f) :=
  keeps_tickets (by simp)

theorem keeps_freeTicket (s : State) (n : Nat) : Keeps s (s.freeTicket n) :=
  keeps_tickets (fun h => Nat.le_trans (List.length_filter_le _ _) h)

theorem keeps_jobs {s : State} {js : List (Option Job)} (h : s.jobs.length = 16 → js.length = 16) :
    Keeps s { s with jobs := js } :=
  ⟨rfl, fun k => ⟨k.arrays, { k.tables with jobs := h k.tables.jobs }, k.ports, k.clock⟩⟩

theorem keeps_setJob (s : State) (slot : Nat) (j : Option Job) : Keeps s (s.setJob slot j) := keeps_jobs (by simp)

theorem keeps_tares {s : State} {ts : List (Option Tare)} (h : s.tares.length = 32 → ts.length = 32) :
    Keeps s { s with tares := ts } :=
  ⟨rfl, fun k => ⟨k.arrays, { k.tables with tares := h k.tables.tares }, k.ports, k.clock⟩⟩

theorem keeps_sectors {s : State} {cs : List Sector} (h : sectorsSound s.sectors → sectorsSound cs) :
    Keeps s { s with sectors := cs } :=
  ⟨rfl, fun k => ⟨k.arrays, { k.tables with sectors := h k.tables.sectors }, k.ports, k.clock⟩⟩

theorem keeps_journal {s : State} {m : Memory} (h : s.journal.wf = true → m.wf = true) :
    Keeps s { s with journal := m } :=
  ⟨rfl, fun k => ⟨{ k.arrays with journal := h k.arrays.journal }, k.tables, k.ports, k.clock⟩⟩

theorem keeps_settings {s : State} {t : Settings} (h : s.settings.Sound → t.Sound) : Keeps s { s with settings := t } :=
  ⟨rfl, fun k => ⟨k.arrays, { k.tables with settings := h k.tables.settings }, k.ports, k.clock⟩⟩

theorem keeps_clock {s : State} {n : Nat} (h : n ≤ lastSecond) : Keeps s { s with clock := n } :=
  ⟨rfl, fun k => ⟨k.arrays, k.tables, k.ports, h⟩⟩

theorem keeps_cal {s : State} (sc : Scale) {a : CalArea} (h : (s.cal.get sc).slots.wf = true → a.slots.wf = true) :
    Keeps s { s with cal := s.cal.set sc a } := by
  refine ⟨rfl, fun k => ⟨?_, k.tables, k.ports, k.clock⟩⟩
  obtain ⟨hj, ha, hb, hp⟩ := k.arrays
  cases sc
  · exact ⟨hj, h ha, hb, hp⟩
  · exact ⟨hj, ha, h hb, hp⟩
  · exact ⟨hj, ha, hb, h hp⟩

/-! ## Notices, results and the fault status (Ops) -/

theorem sound_enqueue (n : Notice) {c : PortCtx} (h : c.Sound) : (enqueue n c).Sound := by
  obtain ⟨h1, h2⟩ := h
  unfold enqueue
  split
  · exact ⟨by simp; omega, h2⟩
  · exact ⟨h1, Nat.min_le_left ..⟩

theorem sound_hear (n : Notice) {c : PortCtx} (h : c.Sound) : (hear n c).Sound := by
  unfold hear
  split
  · split
    · exact h
    · exact sound_enqueue n h
  · exact h

theorem keeps_offerTo (p : Port) (n : Notice) (s : State) : Keeps s (offerTo p n s) :=
  keeps_updPort s p (fun _ h => sound_enqueue n h)

theorem keeps_broadcast (n : Notice) (s : State) : Keeps s (broadcast n s) :=
  ⟨rfl, fun h => ⟨h.arrays, h.tables,
    ⟨sound_hear n h.ports.s0, sound_hear n h.ports.s1, sound_hear n h.ports.s2, sound_hear n h.ports.s3⟩, h.clock⟩⟩

theorem keeps_broadcastOffice (e : Option Port) (n : Notice) (s : State) : Keeps s (broadcastOffice e n s) :=
  keeps_foldl _ (fun s p => .ite (keeps_updPort s p (fun _ h => sound_hear n h)) (.refl s)) _ s

theorem keeps_faults {s : State} {fs : List (Option FaultRecord)} (h : s.faults.length = 11 → fs.length = 11) :
    Keeps s { s with faults := fs } :=
  ⟨rfl, fun k => ⟨k.arrays, { k.tables with faults := h k.tables.faults }, k.ports, k.clock⟩⟩

theorem keeps_setFault (k : FaultKind) (d : FaultDetail) (s : State) : Keeps s (setFault k d s) := by
  have h : Keeps s { s with faults := s.faults.set (faultIndex k) (some ⟨d, s.clock⟩) } := keeps_faults (by simp)
  unfold setFault
  refine .ite ?_ h
  refine .trans ?_ (keeps_broadcast _ _)
  exact h.trans (.same rfl)

theorem keeps_reply (p : Port) (code : ResultCode) (data : List Byte) (s : State) : Keeps s (reply p code data s) :=
  keeps_updPort s p (fun _ h => h)

theorem keeps_refuse (p : Port) (code : ResultCode) (s : State) : Keeps s (refuse p code s) := keeps_reply ..

theorem keeps_takeFree (s : State) : Keeps s s.takeFree.2 := .same rfl

theorem keeps_fit32 (s : State) (n : Nat) : Keeps s (s.fit32 n).2 := by
  unfold State.fit32
  split
  · exact .refl s
  · exact keeps_takeFree s

/-! ## Requests and events (Flags) -/

theorem keeps_beginFrame (p : Port) (s : State) : Keeps s (beginFrame p s) := keeps_updPort s p (fun _ h => h)

theorem keeps_taken (p : Port) (s : State) : Keeps s (taken p s) :=
  (keeps_beginFrame p s).trans (keeps_updPort _ p (fun _ h => h))

theorem keeps_takeFrame (p : Port) {f : State → State} (hf : ∀ s, Keeps s (f s)) (s : State) : Keeps s (takeFrame p f s) := by
  unfold takeFrame
  refine (keeps_beginFrame p s).trans (.ite (keeps_updPort _ p (fun _ h => h)) ?_)
  refine .trans ?_ (hf _)
  exact keeps_updPort _ p (fun _ h => h)

/-- A guarded effect that keeps where every check holds. -/
theorem keeps_guarded_of (p : Port) (cs : List (Bool × ResultCode)) {f : State → State} {s : State}
    (hf : (∀ c ∈ cs, c.1 = true) → Keeps s (f s)) : Keeps s (guarded p cs f s) := by
  induction cs with
  | nil => exact hf (by simp)
  | cons c cs ih =>
    obtain ⟨ok, code⟩ := c
    cases ok
    · exact keeps_refuse p code s
    · exact ih (fun h => hf (by simpa using h))

theorem keeps_guarded (p : Port) (cs : List (Bool × ResultCode)) {f : State → State} (hf : ∀ s, Keeps s (f s)) (s : State) :
    Keeps s (guarded p cs f s) :=
  keeps_guarded_of p cs (fun _ => hf s)

theorem keeps_withTicket (p : Port) (n : Half) {f : Ticket → State → State} (hf : ∀ t s, Keeps s (f t s)) (s : State) :
    Keeps s (withTicket p n f s) := by
  unfold withTicket
  split
  · exact keeps_refuse ..
  · exact hf _ _

/-- An event whose effect keeps. -/
theorem keeps_event {s t : State} {f : State → State} (hf : ∀ s, Keeps s (f s)) (h : event s f = .next t) : Keeps s t := by
  unfold event at h
  injection h with h
  subst h
  exact .ite (hf s) (.refl s)

/-- A request whose effect keeps. -/
theorem keeps_request {p : Port} {s t : State} {f : State → State} (hf : ∀ s, Keeps s (f s)) (h : request p s f = .next t) :
    Keeps s t :=
  keeps_event (fun s => keeps_takeFrame p (fun s => .ite (hf s) (keeps_refuse ..)) s) h

end Sys2Proof.Machine
end

