-- ==== Sys2Proof/Laws/KeepsEngine.lean ====
section
/-! SUPPORT. What the journal, the print queue, the program engine and the end of an event keep. -/

namespace Sys2Proof.Machine

/-! ## The journal and the tally -/

theorem sector_sound {s : State} (h : sectorsSound s.sectors) (i : Nat) : (s.sector i).marks.length = 16 := by
  unfold State.sector
  rw [List.getD_eq_getElem?_getD]
  cases hi : s.sectors[i]? with
  | none => rfl
  | some c => exact h.2 c (List.mem_of_getElem? hi)

theorem keeps_updSector (s : State) (i : Nat) {f : Sector → Sector}
    (hf : ∀ c, c.marks.length = 16 → (f c).marks.length = 16) : Keeps s (s.updSector i f) :=
  keeps_sectors (fun h => ⟨by simp [h.1], fun c hc => by
    rcases List.mem_or_eq_of_mem_set hc with hc | rfl
    · exact h.2 c hc
    · exact hf _ (sector_sound h i)⟩)

theorem keeps_setSlotMark (s : State) (i slot : Nat) (m : Mark) : Keeps s (s.setSlotMark i slot m) :=
  keeps_updSector s i (fun c h => by simp [h])

theorem keeps_programMark (s : State) (i slot : Nat) (m : Mark) (c : Cells) : Keeps s (s.programMark i slot m c).1 :=
  keeps_journal (fun h => wf_memProgram h _ _ _ _)

theorem keeps_evalSpace (s : State) : Keeps s (evalSpace s) := by
  unfold evalSpace
  refine .ite (.ite (.refl s) ?_) (.same rfl)
  refine .trans ?_ (keeps_broadcast _ _)
  exact .same rfl

theorem keeps_tallyCompletion (k : EntryKind) (t : Option Ticket) (n : Nat) (s : State) :
    Keeps s (tallyCompletion k t n s) := by
  unfold tallyCompletion
  split
  · split <;> exact .same rfl
  · exact .same rfl
  · exact .same rfl

theorem keeps_tallyTorn (s : State) : Keeps s (tallyTorn s) := .same rfl

theorem keeps_rebuildTally (s : State) : Keeps s (rebuildTally s) := .same rfl

/-! ## The print queue -/

theorem keeps_bumpAge (s : State) : Keeps s s.bumpAge := by
  unfold State.bumpAge
  exact (keeps_fit32 s _).trans (.same rfl)

theorem keeps_createJob (k : JobKind) (r : Option Nat) (p : Option Port) (st : JobState) (s : State) :
    Keeps s (createJob k r p st s) := by
  unfold createJob
  split
  · exact .refl s
  · refine .trans ?_ (keeps_bumpAge _)
    exact keeps_setJob ..

theorem keeps_examineBacklog (n : Nat) (s : State) : Keeps s (examineBacklog n s) := by
  unfold examineBacklog
  split
  · exact .refl s
  · exact .ite (keeps_createJob ..) (.refl s)

theorem keeps_walkBacklog (fuel : Nat) (s : State) : Keeps s (walkBacklog fuel s) := by
  induction fuel generalizing s with
  | zero => exact .refl s
  | succ fuel ih =>
    unfold walkBacklog
    split
    · exact .refl s
    · refine .ite ?_ (.refl s)
      split
      · exact .same rfl
      · refine .trans ?_ (ih _)
        exact (keeps_examineBacklog _ s).trans (.same rfl)

theorem keeps_testBacklog (s : State) : Keeps s (testBacklog s) := keeps_walkBacklog _ s

theorem keeps_removeJob (slot : Nat) (s : State) : Keeps s (removeJob slot s) :=
  (keeps_setJob s slot none).trans (keeps_testBacklog _)

theorem keeps_endSnapshot (k : JobKind) (s : State) : Keeps s (endSnapshot k s) := .ite (.same rfl) (.refl s)

theorem keeps_offerPrinterState (s : State) : Keeps s (offerPrinterState s) := keeps_broadcast _ s

theorem keeps_updPrinter (f : PrintEngine → PrintEngine) (s : State) : Keeps s (updPrinter f s) := by
  unfold updPrinter
  refine .ite (.same rfl) ?_
  refine .trans ?_ (keeps_offerPrinterState _)
  exact .same rfl

theorem keeps_offerAbandoned (slot : Nat) (j : Job) (r : Nat) (s : State) : Keeps s (offerAbandoned slot j r s) := by
  unfold offerAbandoned
  refine .trans ?_ (keeps_broadcastOffice _ _ _)
  split
  · exact keeps_offerTo ..
  · exact .refl s

theorem keeps_releaseJob (s : State) : Keeps s (releaseJob s) := .same rfl

theorem keeps_abandonFetch (r : Nat) (s : State) : Keeps s (abandonFetch r s) := by
  unfold abandonFetch
  split
  · exact .refl s
  · split
    · exact keeps_releaseJob s
    · refine .trans ?_ (keeps_releaseJob _)
      exact (keeps_removeJob _ s).trans (keeps_offerAbandoned ..)

theorem keeps_takeJob (slot : Nat) (j : Job) (s : State) : Keeps s (takeJob slot j s) := by
  unfold takeJob
  refine .ite ?_ ?_
  · exact (keeps_setJob s slot _).trans (.same rfl)
  · exact (keeps_setJob s slot _).trans (.same rfl)

/-! ## The program engine -/

theorem keeps_takeOp (s : State) (op : EngineOp) : Keeps s (s.takeOp op) := .same rfl

theorem keeps_endOp (s : State) : Keeps s s.endOp := .same rfl

theorem keeps_beginWrite (w : WriteReq) (s : State) : Keeps s (beginWrite w s) := by
  unfold beginWrite
  split
  · exact keeps_updChan ..
  · exact .refl s

theorem keeps_takeRead (r : ReadReq) (s : State) : Keeps s (takeRead r s) := by
  unfold takeRead
  have h : Keeps s { s with engine := { s.engine with reads := s.engine.reads.erase r } } := .same rfl
  split
  · refine h.trans (.ite (keeps_takeOp _ _) (keeps_abandonFetch ..))
  · exact h.trans (keeps_takeOp _ _)

theorem keeps_takeWaiting {s t : State} (h : takeWaiting s = some t) : Keeps s t := by
  unfold takeWaiting at h
  split at h
  · cases h; exact keeps_takeRead ..
  · split at h
    · cases h
      refine .trans ?_ (keeps_beginWrite _ _)
      exact .same rfl
    · split at h
      · cases h
      · split at h
        · split at h
          · cases h; exact keeps_takeOp ..
          · cases h; exact .same rfl
        · split at h
          · cases h; exact keeps_takeOp ..
          · cases h

theorem keeps_pumpOnce {s t : State} (h : pumpOnce s = some t) : Keeps s t := by
  unfold pumpOnce at h
  split at h
  · simp only [Option.map_eq_some_iff] at h
    obtain ⟨j, _, rfl⟩ := h
    exact keeps_takeJob ..
  · split at h
    · cases h; exact .same rfl
    · split at h
      · exact keeps_takeWaiting h
      · cases h

theorem keeps_pump (fuel : Nat) (s : State) : Keeps s (pump fuel s) := by
  induction fuel generalizing s with
  | zero => exact .refl s
  | succ fuel ih =>
    unfold pump
    split
    · rename_i t h
      exact (keeps_pumpOnce h).trans (ih t)
    · exact .refl s

/-! ## The end of an event -/

theorem keeps_offerScaleState (sc : Scale) (s : State) : Keeps s (offerScaleState sc s) := keeps_broadcast _ s

theorem keeps_updScale (sc : Scale) (f : Channel → Channel) (s : State) : Keeps s (updScale sc f s) := by
  unfold updScale
  refine .ite (keeps_updChan ..) ?_
  refine .trans ?_ (keeps_offerScaleState _ _)
  exact keeps_updChan ..

theorem keeps_setMode (m : Mode) (s : State) : Keeps s (setMode m s) := by
  unfold setMode
  refine .trans ?_ (keeps_broadcast _ _)
  exact .same rfl

theorem keeps_configScale (sc : Scale) (s : State) : Keeps s (configScale sc s) := .ite (keeps_updScale ..) (.refl s)

theorem keeps_enterConfigMode (s : State) : Keeps s (enterConfigMode s) := by
  unfold enterConfigMode
  refine .trans ?_ (keeps_foldl _ ?_ _ _)
  case refine_2 => exact fun s p => keeps_updPort s p (fun _ h => ⟨h.1, Nat.zero_le _⟩)
  refine .trans ?_ (keeps_updPrinter _ _)
  refine .trans ?_ (keeps_configScale _ _)
  refine .trans ?_ (keeps_configScale _ _)
  refine .trans ?_ (keeps_configScale _ _)
  exact keeps_setMode ..

theorem keeps_drainTest (s : State) : Keeps s (drainTest s) := .ite (keeps_enterConfigMode s) (.refl s)

/-- The end of an event keeps. -/
theorem keeps_settle (s : State) : Keeps s (settle s) := (keeps_pump _ s).trans (keeps_drainTest _)

end Sys2Proof.Machine
end

