-- ==== Sys2Proof/Laws/KeepsYard.lean ====
section
/-! SUPPORT. What the operations on tickets, captures, scales, commits, claims and holds keep. -/

namespace Sys2Proof.Machine

/-! ## Tickets and holds -/

theorem keeps_holds (s : State) (hs : List HoldEntry) : Keeps s { s with holds := hs } := .same rfl

theorem keeps_putTicket (s : State) (t : Ticket) : Keeps s (s.putTicket t) := keeps_updTicket ..

theorem keeps_offerPayable (n : Nat) (w : PayableWay) (s : State) : Keeps s (offerPayable n w s) := keeps_broadcast _ s

theorem keeps_expireHold (h : HoldEntry) (s : State) : Keeps s (expireHold h s) :=
  (keeps_updTicket ..).trans (keeps_offerPayable ..)

theorem keeps_examineEntries (hs : List HoldEntry) (s : State) : Keeps s (examineEntries hs s) := by
  induction hs generalizing s with
  | nil => exact .refl s
  | cons h hs ih =>
    unfold examineEntries
    refine .ite ?_ (.refl s)
    refine .trans ?_ (ih _)
    refine .trans ?_ (keeps_expireHold _ _)
    exact .same rfl

theorem keeps_examineHolds (s : State) : Keeps s (examineHolds s) := keeps_examineEntries _ s

theorem keeps_closeTicket (t : Ticket) (ls : List Line) (src : TareSource) (s : State) :
    Keeps s (closeTicket t ls src s) := by
  unfold closeTicket
  refine .ite ?_ ?_
  · dsimp only
    refine .trans ?_ (keeps_holds _ _)
    refine .trans ?_ (keeps_putTicket _ _)
    exact keeps_fit32 s _
  · exact (keeps_putTicket ..).trans (keeps_offerPayable ..)

theorem keeps_returnTicket (n : Nat) (s : State) : Keeps s (returnTicket n s) := by
  unfold returnTicket
  split
  · exact .refl s
  · split
    · exact .refl s
    · dsimp only
      split
      · refine .ite ?_ ?_
        · exact (keeps_putTicket ..).trans (.same rfl)
        · exact (keeps_putTicket ..).trans (keeps_offerPayable ..)
      · exact (keeps_putTicket ..).trans (keeps_offerPayable ..)
      · exact keeps_putTicket ..

/-! ## Captures -/

theorem keeps_removeCapture (sc : Scale) (k : Capture) (s : State) : Keeps s (removeCapture sc k s) := by
  unfold removeCapture
  split
  · exact (keeps_updChan ..).trans (keeps_updTicket ..)
  · exact keeps_updChan ..

theorem keeps_failCapture (sc : Scale) (k : Capture) (r : CaptureFailure) (w : Option Int) (s : State) :
    Keeps s (failCapture sc k r w s) :=
  (keeps_removeCapture sc k s).trans (keeps_offerTo ..)

theorem keeps_failArmed (sc : Scale) (r : CaptureFailure) (s : State) : Keeps s (failArmed sc r s) := by
  unfold failArmed
  split
  · exact keeps_failCapture ..
  · exact .refl s

theorem keeps_appendWeighing (sc : Scale) (k : Capture) (w : Int) (t : Ticket) (s : State) :
    Keeps s (appendWeighing sc k w t s) := by
  unfold appendWeighing
  dsimp only
  split
  · exact keeps_putTicket ..
  · exact keeps_putTicket ..
  · exact keeps_closeTicket ..
  · exact .refl s

theorem keeps_completeCapture (sc : Scale) (k : Capture) (w : Int) (s : State) : Keeps s (completeCapture sc k w s) := by
  unfold completeCapture
  dsimp only
  split
  · split
    · exact keeps_failCapture ..
    · refine .trans ?_ (keeps_offerTo ..)
      exact (keeps_removeCapture sc k s).trans (keeps_tares (by simp))
  · split
    · exact keeps_removeCapture ..
    · split
      · exact keeps_failCapture ..
      · refine .trans ?_ (keeps_offerTo ..)
        exact (keeps_removeCapture sc k s).trans (keeps_appendWeighing ..)

theorem keeps_present (sc : Scale) (good : Bool) (s : State) : Keeps s (present sc good s) := by
  unfold present
  dsimp only
  split
  · exact .refl s
  · split
    · exact keeps_failCapture ..
    · split
      · exact .ite (keeps_completeCapture ..) (.refl s)
      · exact .refl s
    · exact keeps_updChan ..
    · exact keeps_updChan ..
    · refine .ite ?_ (.ite (keeps_failCapture ..) (.refl s))
      split
      · exact .ite (keeps_completeCapture ..) (.refl s)
      · exact .refl s
    · exact .refl s

/-! ## Scale channels -/

theorem keeps_takeBad (sc : Scale) (c : BadCause) (s : State) : Keeps s (takeBad sc c s) := by
  unfold takeBad
  refine .trans ?_ (keeps_present ..)
  exact (keeps_updScale ..).trans (.ite (keeps_setFault ..) (.refl _))

theorem keeps_zeroTrack (sc : Scale) (s : State) : Keeps s (zeroTrack sc s) := by
  unfold zeroTrack
  dsimp only
  split
  · exact .ite (keeps_updChan ..) (.refl s)
  · exact .refl s

theorem keeps_takeDigitizerFrame (sc : Scale) (f : DigitizerFrame) (s : State) : Keeps s (takeDigitizerFrame sc f s) := by
  unfold takeDigitizerFrame
  dsimp only
  split
  · refine .trans ?_ (keeps_takeBad ..)
    exact keeps_updChan ..
  · refine .trans ?_ (keeps_zeroTrack _ _)
    refine .trans ?_ (keeps_present ..)
    refine .trans ?_ (keeps_updScale ..)
    exact keeps_updChan ..

theorem keeps_takeByte (sc : Scale) (s : State) (b : RxByte) : Keeps s (takeByte sc s b) := by
  unfold takeByte
  refine .ite (.refl s) ?_
  dsimp only
  split
  · refine .trans ?_ (keeps_takeDigitizerFrame ..)
    exact keeps_updChan ..
  · exact keeps_updChan ..

theorem keeps_restoreScale (p : Port) (b : Byte) (s : State) : Keeps s (restoreScale p b s) := by
  unfold restoreScale
  refine .ite (keeps_refuse ..) (.ite (keeps_refuse ..) ?_)
  split
  · exact keeps_refuse ..
  · refine .ite (keeps_refuse ..) ?_
    refine .trans ?_ (keeps_drainTest _)
    refine .trans ?_ (keeps_present ..)
    exact (keeps_updScale ..).trans (keeps_reply ..)

theorem keeps_zeroScale (p : Port) (b : Byte) (s : State) : Keeps s (zeroScale p b s) := by
  unfold zeroScale
  refine .ite (keeps_refuse ..) (.ite (keeps_refuse ..) ?_)
  split
  · exact keeps_refuse ..
  · refine .ite (keeps_refuse ..) (.ite (keeps_refuse ..) (.ite (keeps_refuse ..) ?_))
    unfold applyZero
    exact .ite ((keeps_updChan ..).trans (keeps_reply ..)) (keeps_refuse ..)

theorem keeps_changeSettings (s : State) {f : Settings → Settings} (hf : ∀ t, t.Sound → (f t).Sound) :
    Keeps s (changeSettings f s) :=
  (keeps_settings (hf _)).trans (.same rfl)

theorem keeps_scaleSettingsRequest (p : Port) (b c d e g h : Byte) (s : State) :
    Keeps s (scaleSettingsRequest p b c d e g h s) := by
  unfold scaleSettingsRequest
  refine .ite (keeps_refuse ..) (.ite (keeps_refuse ..) ?_)
  split
  · dsimp only
    refine .trans ?_ (keeps_present ..)
    refine .trans ?_ (keeps_reply ..)
    refine .trans ?_ (keeps_updScale ..)
    exact keeps_changeSettings s (fun _ h => h)
  · exact keeps_refuse ..

theorem keeps_weight32 (s : State) (w : Option Int) : Keeps s (s.weight32 w).2 := by
  unfold State.weight32
  split
  · exact .refl s
  · split
    · exact .refl s
    · exact keeps_takeFree s

theorem keeps_readScale (p : Port) (b : Byte) (s : State) : Keeps s (readScale p b s) := by
  unfold readScale
  refine .ite (keeps_refuse ..) ?_
  split
  · exact keeps_refuse ..
  · exact (keeps_weight32 ..).trans (keeps_reply ..)

theorem keeps_handWrite (w : WriteReq) (s : State) : Keeps s (handWrite w s) := by
  unfold handWrite
  refine .trans ?_ (keeps_settle _)
  exact .same rfl

theorem keeps_calibrate (p : Port) (b : Byte) (z : Word) (sp : Tri) (ts : List Nat) (s : State) :
    Keeps s (calibrate p b z sp ts s) := by
  unfold calibrate
  refine .ite (keeps_refuse ..) (.ite (keeps_refuse ..) ?_)
  split
  · exact keeps_refuse ..
  · refine .ite (keeps_refuse ..) (.ite (keeps_refuse ..) (.ite (keeps_refuse ..) (.ite (keeps_refuse ..)
      (.ite (keeps_refuse ..) ?_))))
    dsimp only
    refine .trans ?_ (keeps_handWrite ..)
    exact .same rfl

theorem keeps_lockCalibration (p : Port) (b : Byte) (s : State) : Keeps s (lockCalibration p b s) := by
  unfold lockCalibration
  refine .ite (keeps_refuse ..) (.ite (keeps_refuse ..) ?_)
  split
  · exact keeps_refuse ..
  · refine .ite (keeps_refuse ..) (.ite (keeps_refuse ..) (.ite (keeps_refuse ..) ?_))
    refine .trans ?_ (keeps_handWrite ..)
    exact .same rfl

theorem keeps_recordWritten (sc : Scale) (p : Port) (r : CalRecord) (cells : Cells) (s : State) :
    Keeps s (recordWritten sc p r cells s) := by
  unfold recordWritten
  dsimp only
  have h : Keeps s { s with cal := s.cal.set sc { s.cal.get sc with
      slots := (memProgramVerify (s.cal.get sc).slots (calAddr (s.chan sc)) (calBytes r) cells).1 } } :=
    keeps_cal sc (fun h => wf_memProgramVerify h _ _ _)
  refine .ite ?_ ?_
  · refine .trans ?_ (keeps_settle _)
    refine .trans ?_ (keeps_reply ..)
    refine .trans ?_ (keeps_present ..)
    refine .trans ?_ (keeps_updScale ..)
    refine .trans ?_ (keeps_endOp _)
    exact h.trans (.same rfl)
  · refine .trans ?_ (keeps_settle _)
    refine .trans ?_ (keeps_refuse ..)
    refine .trans ?_ (keeps_setFault ..)
    refine .trans ?_ (keeps_endOp _)
    exact h.trans (.same rfl)

theorem keeps_lockWritten (sc : Scale) (p : Port) (cells : Cells) (s : State) : Keeps s (lockWritten sc p cells s) := by
  unfold lockWritten
  dsimp only
  have h : Keeps s { s with cal := s.cal.set sc { s.cal.get sc with lock := lockByte (s.cal.get sc).lock cells } } :=
    keeps_cal sc id
  refine .ite ?_ ?_
  · refine .trans ?_ (keeps_settle _)
    refine .trans ?_ (keeps_reply ..)
    refine .trans ?_ (keeps_updChan ..)
    refine .trans ?_ (keeps_endOp _)
    exact h.trans (.same rfl)
  · refine .trans ?_ (keeps_settle _)
    refine .trans ?_ (keeps_refuse ..)
    refine .trans ?_ (keeps_setFault ..)
    refine .trans ?_ (keeps_endOp _)
    exact h.trans (.same rfl)

/-! ## Commits -/

theorem keeps_queueReserved (n : Nat) (s : State) (slot : Nat) : Keeps s (queueReserved n s slot) := by
  unfold queueReserved
  split
  · exact keeps_setJob ..
  · exact .refl s

theorem keeps_completeRecord (r : Settlement) (n : Nat) (s : State) : Keeps s (completeRecord r n s) := by
  unfold completeRecord
  dsimp only
  refine .trans ?_ (keeps_broadcast _ _)
  refine .trans ?_ (keeps_tallyCompletion ..)
  refine .trans ?_ (keeps_foldl _ (keeps_queueReserved n) _ _)
  split
  · exact keeps_freeTicket ..
  · exact .refl s

theorem keeps_failRecord (r : Settlement) (s : State) : Keeps s (failRecord r s) := by
  unfold failRecord
  refine .trans ?_ (keeps_foldl _ (fun s slot => keeps_removeJob slot s) _ _)
  split
  · exact keeps_returnTicket ..
  · exact .refl s

theorem keeps_dropHead (s : State) : Keeps s s.dropHead := .same rfl

theorem keeps_completeHead (n : Nat) (s : State) : Keeps s (completeHead n s) := by
  unfold completeHead
  split
  · exact keeps_dropHead s
  · dsimp only
    refine .trans ?_ (keeps_dropHead _)
    exact (keeps_completeRecord ..).trans (keeps_reply ..)

theorem keeps_failHead (s : State) : Keeps s (failHead s) := by
  unfold failHead
  split
  · exact keeps_dropHead s
  · dsimp only
    refine .trans ?_ (keeps_dropHead _)
    exact (keeps_failRecord ..).trans (keeps_reply ..)

theorem keeps_updRecord (s : State) (f : Settlement → Settlement) : Keeps s (s.updRecord f) := .same rfl

theorem keeps_reportNumber (r : CommitReq) (n : Nat) (s : State) : Keeps s (reportNumber r n s) := by
  unfold reportNumber
  dsimp only
  split
  · exact (keeps_updRecord s _).trans (keeps_updTicket ..)
  · exact keeps_updRecord s _

theorem keeps_readyHead (h : Head) (i slot : Nat) (s : State) : Keeps s (readyHead h i slot s) := .same rfl

theorem keeps_selectEntry (k : EntryKind) (h : Head) (s : State) : Keeps s (selectEntry k h s) := by
  unfold selectEntry
  split
  · exact keeps_readyHead ..
  · split
    · dsimp only
      refine .ite (.same rfl) ?_
      refine .trans ?_ (keeps_setFault ..)
      exact .same rfl
    · refine .ite ?_ (.same rfl)
      refine .trans ?_ (keeps_readyHead ..)
      exact keeps_updSector s _ (fun _ h => h)

theorem keeps_selectAgain (s : State) : Keeps s (selectAgain s) := by
  unfold selectAgain
  split
  · exact .ite (keeps_selectEntry ..) (.refl s)
  · exact .refl s

theorem keeps_advanceCounter (s : State) : Keeps s s.advanceCounter := .ite (.same rfl) (.same rfl)

theorem keeps_assignNumber (r : CommitReq) (k : Nat) (s : State) : Keeps s (assignNumber r k s) := by
  unfold assignNumber
  dsimp only
  refine .trans ?_ (keeps_selectEntry ..)
  exact (keeps_advanceCounter s).trans (keeps_reportNumber ..)

theorem keeps_takeHead (fuel : Nat) (s : State) : Keeps s (takeHead fuel s) := by
  induction fuel generalizing s with
  | zero => exact .refl s
  | succ fuel ih =>
    unfold takeHead
    split
    · refine .ite ?_ (keeps_assignNumber ..)
      refine .trans ?_ (ih _)
      exact (keeps_setFault ..).trans (keeps_failHead _)
    · exact .refl s

theorem keeps_nextHead (s : State) : Keeps s (nextHead s) := keeps_takeHead _ s

theorem keeps_endSlot (i slot : Nat) (m : Mark) (s : State) : Keeps s (endSlot i slot m s) :=
  .trans (t := s.updSector i (fun c =>
      { c with used := c.used + 1, marks := c.marks.set slot m, state := if c.used + 1 = 16 then .full else c.state }))
    (keeps_updSector s i (fun c h => by simp [h])) (.same rfl)

theorem keeps_programTorn (i slot : Nat) (a b : Cells) (s : State) : Keeps s (programTorn i slot a b s) := by
  unfold programTorn
  dsimp only
  refine .ite (keeps_programMark ..) ?_
  exact (keeps_programMark ..).trans (keeps_journal (fun h => wf_memProgram h _ _ _ _))

/-- What a torn attempt records before it is decided what follows. -/
theorem keeps_tornRecorded (h : Head) (a b : Cells) (f : Settlement → Settlement) (s : State) :
    Keeps s (tallyTorn ((endSlot h.sector h.slot .torn (programTorn h.sector h.slot a b s)).updRecord f)) := by
  refine .trans ?_ (keeps_tallyTorn _)
  refine .trans ?_ (keeps_updRecord _ _)
  exact (keeps_programTorn ..).trans (keeps_endSlot ..)

theorem keeps_tearAttempt (r : CommitReq) (h : Head) (a b : Cells) (s : State) : Keeps s (tearAttempt r h a b s) := by
  unfold tearAttempt
  dsimp only
  refine .ite (.ite ?_ ?_) ?_
  · refine .trans ?_ (keeps_nextHead _)
    refine .trans ?_ (keeps_failHead _)
    refine .trans ?_ (keeps_setFault ..)
    exact keeps_tornRecorded ..
  · refine .trans ?_ (keeps_assignNumber ..)
    exact keeps_tornRecorded ..
  · refine .trans ?_ (keeps_nextHead _)
    refine .trans ?_ (keeps_failHead _)
    refine .trans ?_ (keeps_setFault ..)
    exact keeps_tornRecorded ..

theorem keeps_passStep (h : Head) (s : State) : Keeps s (passStep h s) := by
  unfold passStep
  split
  · exact (keeps_setSlotMark ..).trans (.same rfl)
  · exact .same rfl
  · refine .trans ?_ (keeps_nextHead _)
    exact (keeps_endSlot ..).trans (keeps_completeHead ..)

theorem keeps_endStep (st : HeadStep) (a b c : Cells) (s : State) : Keeps s (endStep st a b c s) := by
  unfold endStep
  split
  · refine .ite ?_ (.refl s)
    dsimp only
    refine .trans ?_ (keeps_settle _)
    refine .trans ?_ (keeps_evalSpace _)
    refine .ite ?_ ?_
    · refine .trans ?_ (keeps_passStep ..)
      refine .trans ?_ (keeps_endOp _)
      exact keeps_journal (fun h => wf_memProgramVerify h _ _ _)
    · refine .trans ?_ (keeps_tearAttempt ..)
      refine .trans ?_ (keeps_endOp _)
      exact keeps_journal (fun h => wf_memProgramVerify h _ _ _)
  · exact .refl s

theorem keeps_reserveJobs (p : Port) (ks : List JobKind) (s : State) : Keeps s (reserveJobs p ks s).2 := by
  induction ks generalizing s with
  | nil => exact .refl s
  | cons k ks ih => exact (keeps_createJob ..).trans (ih _)

theorem keeps_acceptCommit (p : Port) (k : EntryKind) (n : Option Nat) (js : List JobKind) (s : State) :
    Keeps s (acceptCommit p k n js s) := by
  unfold acceptCommit
  dsimp only
  refine .trans ?_ (keeps_settle _)
  refine .trans ?_ (keeps_evalSpace _)
  refine .trans ?_ (keeps_nextHead _)
  exact (keeps_reserveJobs ..).trans (.same rfl)

theorem keeps_withSpace (p : Port) (k : EntryKind) (n : Nat) {f : State → State} (hf : ∀ s, Keeps s (f s)) (s : State) :
    Keeps s (withSpace p k n f s) :=
  .ite ((keeps_setFault ..).trans (keeps_refuse ..)) (.ite (keeps_refuse ..) (hf s))

theorem keeps_enterCommit (p : Port) (k : EntryKind) (r : Option Nat) (t : Ticket) (s : State) :
    Keeps s (enterCommit p k r t s) := keeps_updTicket ..

theorem keeps_voidCapture (t : Ticket) (s : State) : Keeps s (voidCapture t s) := by
  unfold voidCapture
  split
  · exact keeps_failArmed ..
  · exact .refl s

theorem keeps_voidWeighed (p : Port) (r : Nat) (t : Ticket) (s : State) : Keeps s (voidWeighed p r t s) := by
  unfold voidWeighed
  dsimp only
  refine .trans ?_ (keeps_acceptCommit ..)
  refine .trans ?_ (keeps_enterCommit ..)
  exact (keeps_voidCapture t s).trans (.ite (.same rfl) (.refl _))

theorem keeps_settleTicket (p : Port) (n : Half) (s : State) : Keeps s (settleTicket p n s) :=
  keeps_guarded _ _ (fun s => keeps_withTicket _ _ (fun _ s => keeps_guarded _ _ (fun s => keeps_withSpace _ _ _
    (fun _ => (keeps_enterCommit ..).trans (keeps_acceptCommit ..)) s) s) s) s

theorem keeps_voidTicket (p : Port) (n : Half) (r : Byte) (s : State) : Keeps s (voidTicket p n r s) := by
  refine keeps_guarded _ _ (fun s => keeps_withTicket _ _ (fun t s => keeps_guarded _ _ (fun s => ?_) s) s) s
  split
  · exact (keeps_voidCapture t s).trans ((keeps_freeTicket ..).trans (keeps_reply ..))
  · exact keeps_withSpace _ _ _ (fun _ => keeps_voidWeighed ..) s

theorem keeps_closeShift (p : Port) (s : State) : Keeps s (closeShift p s) :=
  keeps_guarded _ _ (fun s => keeps_withSpace _ _ _ (fun _ => keeps_acceptCommit ..) s) s

end Sys2Proof.Machine
end

