-- ==== Sys2Proof/Laws/KeepsRest.lean ====
section
/-! SUPPORT. What the requests, the printing, the journal's upkeep, the ports, the modes and a start keep. -/

namespace Sys2Proof.Machine

/-! ## Requests on tickets, captures, claims and the clock -/

theorem keeps_openTicket (p : Port) (c : Byte) (v : List Byte) (s : State) : Keeps s (openTicket p c v s) := by
  refine keeps_guarded_of _ _ (fun h => ?_)
  have h48 : s.tickets.length < 48 := by simpa using h (decide (s.tickets.length < 48), .tableFull) (by simp)
  dsimp only
  refine .trans ?_ (keeps_reply ..)
  exact (keeps_tickets (ts := s.tickets ++ [newTicket s.openNumber ((classOf c).getD .bridge) p s.clock (optionalId v)])
    (by intro _; simp; omega)).trans (.same rfl)

theorem keeps_setVehicle (p : Port) (n : Half) (v : List Byte) (s : State) : Keeps s (setVehicle p n v s) :=
  keeps_guarded _ _ (fun s => keeps_withTicket _ _ (fun _ s => keeps_guarded _ _ (fun _ =>
    (keeps_updTicket ..).trans (keeps_reply ..)) s) s) s

theorem keeps_setSeller (p : Port) (n : Half) (v : List Byte) (s : State) : Keeps s (setSeller p n v s) :=
  keeps_guarded _ _ (fun s => keeps_withTicket _ _ (fun _ s => keeps_guarded _ _ (fun _ =>
    (keeps_updTicket ..).trans (keeps_reply ..)) s) s) s

theorem keeps_dockLine (p : Port) (n : Half) (g : Byte) (d : Word) (s : State) : Keeps s (dockLine p n g d s) :=
  keeps_guarded _ _ (fun s => keeps_withTicket _ _ (fun _ s => keeps_guarded _ _ (fun _ =>
    (keeps_updTicket ..).trans (keeps_reply ..)) s) s) s

theorem keeps_closeStored (p : Port) (t : Ticket) (g : Nat) (w : Int) (s : State) : Keeps s (closeStored p t g w s) :=
  (keeps_closeTicket ..).trans (keeps_reply ..)

theorem keeps_closeOnStoredTare (p : Port) (n : Half) (g : Byte) (s : State) : Keeps s (closeOnStoredTare p n g s) := by
  refine keeps_guarded _ _ (fun s => keeps_withTicket _ _ (fun t s => keeps_guarded _ _ (fun s => ?_) s) s) s
  split
  · exact keeps_refuse ..
  · exact keeps_guarded _ _ (fun s => keeps_closeStored ..) s

theorem keeps_readTicket (p : Port) (n : Half) (b : Byte) (s : State) : Keeps s (readTicket p n b s) :=
  keeps_guarded _ _ (fun s => keeps_withTicket _ _ (fun _ _ => keeps_reply ..) s) s

theorem keeps_listTickets (p : Port) (b : Byte) (s : State) : Keeps s (listTickets p b s) :=
  keeps_guarded _ _ (fun _ => keeps_reply ..) s

theorem keeps_armCapture (p : Port) (sc : Scale) (k : Capture) (s : State) : Keeps s (armCapture p sc k s) := by
  unfold armCapture
  refine .trans ?_ (keeps_reply ..)
  split
  · exact (keeps_updChan ..).trans (keeps_updTicket ..)
  · exact keeps_updChan ..

theorem keeps_weigh (p : Port) (b k : Byte) (n : Half) (g : Byte) (s : State) : Keeps s (weigh p b k n g s) := by
  refine keeps_guarded _ _ (fun s => ?_) s
  split
  · exact keeps_guarded _ _ (fun s => keeps_withTicket _ _ (fun _ s => keeps_guarded _ _ (fun _ => keeps_armCapture ..) s) s) s
  · exact keeps_refuse ..

theorem keeps_weighStoreTare (p : Port) (b : Byte) (v : List Byte) (s : State) : Keeps s (weighStoreTare p b v s) := by
  refine keeps_guarded _ _ (fun s => ?_) s
  split
  · exact keeps_refuse ..
  · exact keeps_guarded _ _ (fun _ => keeps_armCapture ..) s

theorem keeps_cancelWeigh (p : Port) (b : Byte) (s : State) : Keeps s (cancelWeigh p b s) := by
  refine keeps_guarded _ _ (fun s => ?_) s
  split
  · exact keeps_refuse ..
  · split
    · exact keeps_refuse ..
    · refine keeps_guarded _ _ (fun s => ?_) s
      refine .trans ?_ (keeps_drainTest _)
      exact (keeps_failCapture ..).trans (keeps_reply ..)

theorem keeps_claimTicket (p : Port) (n : Half) (s : State) : Keeps s (claimTicket p n s) :=
  keeps_guarded _ _ (fun s => keeps_withTicket _ _ (fun _ s => keeps_guarded _ _ (fun _ =>
    (keeps_updTicket ..).trans (keeps_reply ..)) s) s) s

theorem keeps_releaseTicket (p : Port) (n : Half) (s : State) : Keeps s (releaseTicket p n s) :=
  keeps_guarded _ _ (fun s => keeps_withTicket _ _ (fun _ s => keeps_guarded _ _ (fun _ =>
    (keeps_updTicket ..).trans (keeps_reply ..)) s) s) s

theorem keeps_expireClaim (n : Nat) (s : State) : Keeps s (expireClaim n s) := by
  unfold expireClaim
  split
  · exact .refl s
  · exact .ite ((keeps_updTicket ..).trans (keeps_offerTo ..)) (.refl s)

theorem keeps_endHold (p : Port) (n : Half) (s : State) : Keeps s (endHold p n s) := by
  refine keeps_guarded _ _ (fun s => keeps_withTicket _ _ (fun t s => keeps_guarded _ _ (fun s => ?_) s) s) s
  dsimp only
  refine .trans ?_ (keeps_reply ..)
  refine .trans ?_ (keeps_offerPayable ..)
  refine .trans ?_ (keeps_holds _ _)
  exact keeps_updTicket ..

theorem keeps_extendHold (p : Port) (n : Half) (e : Word) (s : State) : Keeps s (extendHold p n e s) := by
  refine keeps_guarded _ _ (fun s => keeps_withTicket _ _ (fun t s => keeps_guarded _ _ (fun s => ?_) s) s) s
  dsimp only
  refine .trans ?_ (keeps_reply ..)
  refine .trans ?_ (keeps_holds _ _)
  exact keeps_updTicket ..

theorem keeps_setClock (p : Port) (t : Word) (s : State) : Keeps s (setClock p t s) := by
  refine keeps_guarded _ _ (fun s => ?_) s
  dsimp only
  refine .trans ?_ (keeps_reply ..)
  refine .trans ?_ (keeps_examineHolds _)
  exact (keeps_clock (show t.toNat ≤ lastSecond by unfold lastSecond; omega)).trans (.same rfl)

theorem keeps_readClock (p : Port) (s : State) : Keeps s (readClock p s) := keeps_guarded _ _ (fun _ => keeps_reply ..) s

/-! ## Printing -/

theorem keeps_beginSending (e : List Byte) (s : State) : Keeps s (beginSending e s) := by
  unfold beginSending
  split
  · exact .refl s
  · exact (keeps_setJob ..).trans (.same rfl)

theorem keeps_fetchRead (n : Nat) (live : Bool) (d : List (Nat × Byte)) (s : State) : Keeps s (fetchRead n live d s) := by
  unfold fetchRead
  split
  · exact .ite (keeps_abandonFetch ..) (.refl s)
  · dsimp only
    refine (keeps_journal (fun h => wf_memDecay h _ _ _)).trans (.ite (.ite (keeps_beginSending ..) (.refl _)) ?_)
    exact (keeps_setFault ..).trans (.ite (keeps_abandonFetch ..) (.refl _))

theorem keeps_finishJob (slot : Nat) (j : Job) (s : State) : Keeps s (finishJob slot j s) := by
  unfold finishJob
  dsimp only
  refine .trans ?_ (keeps_removeJob ..)
  refine .trans ?_ (keeps_releaseJob _)
  refine .trans ?_ (keeps_updPrinter ..)
  refine .trans ?_ (keeps_endSnapshot ..)
  have h : Keeps s (if firstPrint j.kind then
      { s with pendingMarks := s.pendingMarks ++ [⟨j.receipt.getD 0, s.clock⟩] } else s) := .ite (.same rfl) (.refl s)
  split
  · exact h.trans (keeps_offerTo ..)
  · exact h

theorem keeps_linkDown (b : Bool) (s : State) : Keeps s (linkDown b s) := by
  unfold linkDown
  dsimp only
  refine .trans ?_ (keeps_updPrinter ..)
  exact .ite (keeps_setFault ..) (.refl s)

theorem keeps_countAttempt (b : Bool) (s : State) : Keeps s (countAttempt b s) := by
  unfold countAttempt
  split
  · exact .refl s
  · dsimp only
    refine .ite ?_ ?_
    · refine .trans ?_ (keeps_releaseJob _)
      exact (keeps_linkDown b s).trans (keeps_setJob ..)
    · refine .trans ?_ (keeps_releaseJob _)
      refine .trans ?_ (keeps_endSnapshot ..)
      refine .trans ?_ (keeps_offerAbandoned ..)
      exact (keeps_linkDown b s).trans (keeps_removeJob ..)

theorem keeps_interruptJob (s : State) : Keeps s (interruptJob s) := by
  unfold interruptJob
  split
  · exact .refl s
  · dsimp only
    refine .trans ?_ (keeps_releaseJob _)
    exact (keeps_setJob ..).trans (.same rfl)

theorem keeps_pauseEngine (f : PrintEngine → PrintEngine) (s : State) : Keeps s (pauseEngine f s) := by
  unfold pauseEngine
  dsimp only
  refine .trans ?_ (keeps_settle _)
  refine .trans ?_ (keeps_offerPrinterState _)
  exact (keeps_interruptJob s).trans (.same rfl)

theorem keeps_retryEnded (slot : Nat) (s : State) : Keeps s (retryEnded slot s) := by
  unfold retryEnded
  split
  · exact .ite ((keeps_setJob ..).trans (keeps_settle _)) (.refl s)
  · exact .refl s

theorem keeps_printReceipt (p : Port) (n : Word) (s : State) : Keeps s (printReceipt p n s) := by
  refine keeps_guarded _ _ (fun s => ?_) s
  refine .trans ?_ (keeps_settle _)
  exact (keeps_createJob ..).trans (keeps_reply ..)

theorem keeps_cancelPrint (p : Port) (a b : Byte) (n : Word) (s : State) : Keeps s (cancelPrint p a b n s) := by
  refine keeps_guarded _ _ (fun s => ?_) s
  split
  · exact keeps_refuse ..
  · refine keeps_guarded _ _ (fun s => ?_) s
    refine .trans ?_ (keeps_settle _)
    refine .trans ?_ (keeps_reply ..)
    exact (keeps_removeJob ..).trans (keeps_endSnapshot ..)

theorem keeps_listPrintQueue (p : Port) (s : State) : Keeps s (listPrintQueue p s) :=
  keeps_guarded _ _ (fun _ => keeps_reply ..) s

theorem keeps_readPrinter (p : Port) (s : State) : Keeps s (readPrinter p s) := keeps_guarded _ _ (fun _ => keeps_reply ..) s

theorem keeps_restorePrinter (p : Port) (s : State) : Keeps s (restorePrinter p s) := by
  refine keeps_guarded _ _ (fun s => ?_) s
  refine .trans ?_ (keeps_settle _)
  exact (keeps_updPrinter ..).trans (keeps_reply ..)

/-! ## The journal's upkeep -/

theorem keeps_dropMark (s : State) : Keeps s s.dropMark := .same rfl

theorem keeps_markPrinted (m : MarkReq) (i slot : Nat) (again : Bool) (c t : Cells) (s : State) :
    Keeps s (markPrinted m i slot again c t s) := by
  unfold markPrinted
  dsimp only
  have h : Keeps s { s with journal := (memProgramVerify (memProgramVerify s.journal (entryAddr i slot)
      [markPattern .printed] c).1 (entryAddr i slot + 12) (be 4 m.time) t).1 } :=
    keeps_journal (fun h => wf_memProgramVerify (wf_memProgramVerify h _ _ _) _ _ _)
  refine .ite ?_ (.ite ?_ ?_)
  · refine .trans ?_ (keeps_settle _)
    refine .trans ?_ (keeps_dropMark _)
    refine .trans ?_ (keeps_endOp _)
    exact h.trans (keeps_setSlotMark ..)
  · refine .trans ?_ (keeps_settle _)
    refine .trans ?_ (keeps_setFault ..)
    refine .trans ?_ (keeps_dropMark _)
    refine .trans ?_ (keeps_endOp _)
    exact h.trans (keeps_setSlotMark ..)
  · exact h.trans (keeps_takeOp ..)

theorem keeps_beginAudit (p : Port) (n : Nat) (s : State) : Keeps s (beginAudit p n s) := by
  unfold beginAudit
  refine .ite (keeps_reply ..) (.ite (keeps_refuse ..) ?_)
  split
  · exact keeps_reply ..
  · refine .trans ?_ (keeps_settle _)
    refine .trans ?_ (keeps_reply ..)
    exact .same rfl

theorem keeps_auditThrough (p : Port) (n : Word) (s : State) : Keeps s (auditThrough p n s) :=
  keeps_guarded _ _ (fun _ => keeps_beginAudit ..) s

theorem keeps_auditDone (q : Pass) (m : Bool) (n : Nat) (s : State) : Keeps s (auditDone q m n s) := by
  unfold auditDone
  refine .trans ?_ (keeps_offerTo ..)
  exact .same rfl

theorem keeps_passOn (q : Pass) (s : State) : Keeps s (passOn q s) := by
  unfold passOn
  split
  · exact .same rfl
  · exact keeps_auditDone ..

theorem keeps_markAudited (q : Pass) (i slot : Nat) (again : Bool) (c : Cells) (s : State) :
    Keeps s (markAudited q i slot again c s) := by
  unfold markAudited
  dsimp only
  have h := keeps_programMark s i slot .audited c
  refine .ite ?_ (.ite ?_ ?_)
  · refine .trans ?_ (keeps_settle _)
    refine .trans ?_ (keeps_passOn ..)
    refine .trans ?_ (keeps_endOp _)
    exact h.trans (keeps_setSlotMark ..)
  · refine .trans ?_ (keeps_settle _)
    refine .trans ?_ (keeps_auditDone ..)
    refine .trans ?_ (keeps_setFault ..)
    exact h.trans (keeps_endOp _)
  · exact h.trans (keeps_takeOp ..)

theorem keeps_startErase (i : Nat) (s : State) : Keeps s (startErase i s) := by
  unfold startErase
  dsimp only
  refine .trans ?_ (keeps_settle _)
  refine .trans ?_ (keeps_evalSpace _)
  refine .trans (keeps_updSector s i (f := fun c => { c with state := .erasing, first := none }) (fun _ h => h)) ?_
  exact .same rfl

theorem keeps_endErase (i : Nat) {c : Sector} (hc : c.marks.length = 16) (s : State) : Keeps s (endErase i c s) := by
  unfold endErase
  refine .trans (keeps_updSector s i (f := fun _ => c) (fun _ _ => hc)) ?_
  exact .same rfl

theorem keeps_eraseGood (i : Nat) (s : State) : Keeps s (eraseGood i s) := by
  unfold eraseGood
  refine .trans ?_ (keeps_settle _)
  refine .trans ?_ (keeps_evalSpace _)
  refine .trans ?_ (keeps_selectAgain _)
  exact keeps_endErase i rfl s

theorem wf_programBad (i : Nat) {m : Memory} (h : m.wf = true) : (programBad i m).wf = true := by
  unfold programBad
  generalize List.range 16 = l
  induction l generalizing m with
  | nil => exact h
  | cons a l ih => exact ih (wf_memProgram h _ _ _ _)

theorem keeps_eraseBad (i : Nat) (s : State) : Keeps s (eraseBad i s) := by
  unfold eraseBad
  dsimp only
  refine .trans ?_ (keeps_settle _)
  refine .trans ?_ (keeps_evalSpace _)
  refine .trans ?_ (keeps_selectAgain _)
  refine .trans ?_ (keeps_setFault ..)
  refine .trans ?_ (keeps_endErase i rfl _)
  exact keeps_journal (wf_programBad i)

theorem keeps_blankRead (e : EraseJob) (d : List (Nat × Byte)) (s : State) : Keeps s (blankRead e d s) := by
  unfold blankRead
  dsimp only
  refine (keeps_journal (m := memDecay s.journal (4096 * e.sector) 4096 d) (fun h => wf_memDecay h _ _ _)).trans
    (.ite (keeps_eraseGood ..) ?_)
  refine .trans ?_ (keeps_settle _)
  exact .same rfl

theorem keeps_eraseVerified (e : EraseJob) (d : List (Nat × Byte)) (s : State) : Keeps s (eraseVerified e d s) := by
  unfold eraseVerified
  dsimp only
  refine (keeps_journal (m := memDecay (memErase s.journal (4096 * e.sector) 4096) (4096 * e.sector) 4096 d)
    (fun h => wf_memDecay (wf_memErase h _ _) _ _ _)).trans (.ite (keeps_eraseGood ..) (.ite (keeps_eraseBad ..) ?_))
  refine .trans ?_ (keeps_settle _)
  exact .same rfl

theorem keeps_readJournalState (p : Port) (s : State) : Keeps s (readJournalState p s) :=
  keeps_guarded _ _ (fun _ => keeps_reply ..) s

/-! ## Grades, tares, tally, ports and the fault status -/

theorem keeps_setGrade (g : Nat) (f : Grade → Grade) (s : State) : Keeps s (setGrade g f s) :=
  keeps_changeSettings s (fun _ h => ⟨by simp [h.1], h.2⟩)

theorem keeps_setPrice (p : Port) (g : Byte) (x : Tri) (s : State) : Keeps s (setPrice p g x s) :=
  keeps_guarded _ _ (fun _ => (keeps_setGrade ..).trans (keeps_reply ..)) s

theorem keeps_defineGrade (p : Port) (g : Byte) (n : List Byte) (f h : Byte) (x : Tri) (s : State) :
    Keeps s (defineGrade p g n f h x s) :=
  keeps_guarded _ _ (fun _ => (keeps_setGrade ..).trans (keeps_reply ..)) s

theorem keeps_readGrade (p : Port) (g : Byte) (s : State) : Keeps s (readGrade p g s) :=
  keeps_guarded _ _ (fun _ => keeps_reply ..) s

theorem keeps_deleteTare (p : Port) (v : List Byte) (s : State) : Keeps s (deleteTare p v s) := by
  refine keeps_guarded _ _ (fun s => ?_) s
  refine .trans ?_ (keeps_reply ..)
  exact keeps_tares (by simp)

theorem keeps_replyTare (p : Port) (i : Nat) (e : Tare) (s : State) : Keeps s (replyTare p i e s) :=
  (keeps_fit32 ..).trans (keeps_reply ..)

theorem keeps_readTare (p : Port) (k : TareKey) (s : State) : Keeps s (readTare p k s) := by
  refine keeps_guarded _ _ (fun s => ?_) s
  cases k with
  | slot n =>
    refine .ite (keeps_refuse ..) ?_
    split
    · exact keeps_replyTare ..
    · exact keeps_reply ..
  | id b v =>
    refine .ite (keeps_refuse ..) ?_
    split
    · split
      · exact keeps_replyTare ..
      · exact keeps_refuse ..
    · exact keeps_refuse ..

theorem keeps_readTally (p : Port) (a b : Byte) (s : State) : Keeps s (readTally p a b s) := by
  refine keeps_guarded _ _ (fun s => .ite (keeps_reply ..) ?_) s
  split
  · exact keeps_reply ..
  · exact keeps_refuse ..

theorem keeps_sendBlock (p : Port) (bs : List Byte) (s : State) : Keeps s (sendBlock p bs s) :=
  keeps_updPort s p (fun _ h => h)

theorem keeps_setStream (p : Port) (n : Option Nat) (s : State) : Keeps s (s.updPort p (fun c => { c with stream := n })) :=
  keeps_updPort s p (fun _ h => h)

theorem keeps_moveStream (p : Port) (n : Nat) (s : State) : Keeps s (moveStream p n s) :=
  .ite (keeps_setStream ..) ((keeps_setStream p none s).trans (keeps_sendBlock ..))

theorem keeps_blockBoundary (p : Port) (n : Nat) (s : State) : Keeps s (blockBoundary p n s) :=
  (keeps_moveStream p n s).trans (.ite (.same rfl) (.refl _))

theorem keeps_endStream (p : Port) (s : State) : Keeps s (endStream p s) := by
  unfold endStream
  exact (keeps_setStream p none s).trans (.same rfl)

theorem keeps_openStream (p : Port) (n : Nat) (s : State) : Keeps s (openStream p n s) := by
  unfold openStream
  dsimp only
  refine .trans (keeps_beginFrame p s) (.trans (keeps_endStream p _) (.ite ?_ ?_))
  · exact keeps_sendBlock ..
  · exact keeps_blockBoundary ..

theorem keeps_streamRead (p : Port) (live : Bool) (d : List (Nat × Byte)) (s : State) : Keeps s (streamRead p live d s) := by
  unfold streamRead
  split
  · exact .refl s
  · refine .ite (.refl s) ?_
    split
    · exact keeps_blockBoundary ..
    · dsimp only
      refine .trans ?_ (keeps_moveStream ..)
      refine .trans ?_ (keeps_sendBlock ..)
      exact keeps_journal (fun h => wf_memDecay h _ _ _)

theorem keeps_reachBoundary (p : Port) (s : State) : Keeps s (reachBoundary p s) := by
  unfold reachBoundary
  split
  · exact (keeps_blockBoundary ..).trans (keeps_settle _)
  · exact .refl s

theorem keeps_endStreamRead (p : Port) (d : List (Nat × Byte)) (s : State) : Keeps s (endStreamRead p d s) := by
  unfold endStreamRead
  split
  · exact .ite (.trans (keeps_endOp s) (.trans (keeps_streamRead ..) (keeps_settle _))) (.refl s)
  · exact .refl s

theorem keeps_answerRead (p : Port) (bs : List Byte) (n : Nat) (s : State) : Keeps s (answerRead p bs n s) :=
  keeps_updPort s p (fun _ h => h)

theorem keeps_readResult (p : Port) (n : Nat) (s : State) : Keeps s (readResult p n s) := by
  unfold readResult
  exact (keeps_answerRead ..).trans (.ite (keeps_updPort _ p (fun _ h => h)) (.refl _))

theorem keeps_readNotice (p : Port) (n : Nat) (s : State) : Keeps s (readNotice p n s) := by
  unfold readNotice
  exact (keeps_answerRead ..).trans (.ite (keeps_updPort _ p (fun _ h => ⟨by simp; have := h.1; omega, h.2⟩)) (.refl _))

theorem keeps_setFilter (p : Port) (a b : Byte) (s : State) : Keeps s (setFilter p a b s) := by
  refine keeps_guarded _ _ (fun s => ?_) s
  refine .trans ?_ (keeps_reply ..)
  exact keeps_updPort s _ (fun _ h => h)

theorem keeps_setRole (p : Port) (a b c d e : Byte) (s : State) : Keeps s (setRole p a b c d e s) := by
  refine keeps_guarded _ _ (fun s => ?_) s
  split
  · refine keeps_guarded _ _ (fun s => ?_) s
    refine .trans ?_ (keeps_reply ..)
    exact keeps_changeSettings s (fun _ h => h)
  · exact keeps_refuse ..

theorem keeps_portEnable (p : Port) (b : Byte) (s : State) : Keeps s (portEnable p b s) := by
  refine keeps_guarded _ _ (fun s => ?_) s
  split
  · exact keeps_refuse ..
  · refine .trans ?_ (keeps_reply ..)
    exact keeps_updPort s _ (fun _ h => h)

theorem keeps_dropClaimsOf (q : Port) (s : State) : Keeps s (dropClaimsOf q s) := keeps_tickets (by simp)

theorem keeps_failArmedBy (q : Port) (s : State) (sc : Scale) : Keeps s (failArmedBy q s sc) := by
  unfold failArmedBy
  split
  · exact .ite (keeps_failCapture ..) (.refl s)
  · exact .refl s

theorem keeps_dropDuplicate (q : Port) (s : State) (slot : Nat) : Keeps s (dropDuplicate q s slot) := by
  unfold dropDuplicate
  split
  · exact .ite (keeps_removeJob ..) (.refl s)
  · exact .refl s

theorem keeps_disablePort (q : Port) (s : State) : Keeps s (disablePort q s) := by
  unfold disablePort
  dsimp only
  refine .trans ?_ (keeps_foldl _ (keeps_dropDuplicate q) _ _)
  refine .trans ?_ (keeps_dropClaimsOf ..)
  refine .trans ?_ (keeps_foldl _ (keeps_failArmedBy q) _ _)
  exact keeps_updPort s q (fun _ h => h)

theorem keeps_portDisable (p : Port) (b : Byte) (s : State) : Keeps s (portDisable p b s) := by
  refine keeps_guarded _ _ (fun s => ?_) s
  split
  · exact keeps_refuse ..
  · refine keeps_guarded _ _ (fun s => ?_) s
    refine .ite ?_ (keeps_reply ..)
    refine .trans ?_ (keeps_settle _)
    exact .trans (keeps_disablePort ..) (keeps_reply ..)

theorem keeps_readFault (p : Port) (s : State) : Keeps s (readFault p s) := keeps_guarded _ _ (fun _ => keeps_reply ..) s

theorem keeps_clearFault (p : Port) (k : Half) (r : Byte) (s : State) : Keeps s (clearFault p k r s) := by
  refine keeps_guarded _ _ (fun s => ?_) s
  refine .trans ?_ (keeps_reply ..)
  exact (keeps_faults (fs := clearKinds k s.faults) (by simp [clearKinds])).trans (.same rfl)

/-! ## Modes and power -/

theorem keeps_setHeader (p : Port) (n : Byte) (t : List Byte) (s : State) : Keeps s (setHeader p n t s) := by
  refine keeps_guarded_of _ _ (fun h => ?_)
  have h32 : t.length = 32 := by
    have := h (1 ≤ n.toNat && n.toNat ≤ 3 && t.length == 32 && t.all printable, .range) (by simp)
    simp only [Bool.and_eq_true, beq_iff_eq] at this
    exact this.1.2
  refine .trans ?_ (keeps_reply ..)
  refine keeps_changeSettings s (fun c hc => ⟨hc.1, by simp [hc.2.1], fun l hl => ?_⟩)
  rcases List.mem_or_eq_of_mem_set hl with hl | rfl
  · exact hc.2.2 l hl
  · exact h32

theorem keeps_setFirstReceipt (p : Port) (a : Word) (b : Half) (c : Byte) (d e : Half) (s : State) :
    Keeps s (setFirstReceipt p a b c d e s) := by
  refine keeps_guarded _ _ (fun s => ?_) s
  dsimp only
  refine .trans ?_ (keeps_reply ..)
  refine .trans ?_ (.ite ?_ (.refl _))
  · exact keeps_changeSettings s (fun _ h => h)
  · refine .trans ?_ (keeps_evalSpace _)
    exact .same rfl

theorem sound_copyPrices {t : Settings} (h : t.Sound) : (copyPrices t).Sound := ⟨by simp [copyPrices, h.1], h.2⟩

theorem sound_loadImage {t : Settings} (h : t.Sound) : (loadImage t).Sound := ⟨by simp [loadImage, h.1], h.2⟩

theorem keeps_storeWrite {s : State} {w : Option StoreWrite} (h : s.Sound → ∀ x, w = some x → x.staged.Sound) :
    Keeps s { s with storeWrite := w } :=
  ⟨rfl, fun k => ⟨k.arrays, { k.tables with staged := h k }, k.ports, k.clock⟩⟩

theorem keeps_store {s : State} {st : Store} (h : s.Sound → ∀ x, st.image = some x → x.Sound) :
    Keeps s { s with store := st } :=
  ⟨rfl, fun k => ⟨k.arrays, { k.tables with image := h k }, k.ports, k.clock⟩⟩

theorem keeps_queueWrite (s : State) (w : WriteReq) : Keeps s (s.queueWrite w) := .same rfl

theorem keeps_beginStoreWrite (s : State) : Keeps s (beginStoreWrite s) :=
  ⟨rfl, fun k => ⟨k.arrays, { k.tables with
      settings := sound_copyPrices k.tables.settings
      staged := fun w hw => by
        cases hw
        exact sound_copyPrices k.tables.settings }, k.ports, k.clock⟩⟩

theorem keeps_endStoreWrite (b : Bool) (s : State) : Keeps s (endStoreWrite b s) := by
  unfold endStoreWrite
  dsimp only
  refine .trans ?_ (keeps_settle _)
  have h : Keeps s { s with storeRecord := false, storeWrite := none } :=
    (keeps_storeWrite (fun _ x hx => by cases hx)).trans (.same rfl)
  have h2 : Keeps s (if b = true then setFault .storeMedia .store
      { ({ s with storeRecord := false, storeWrite := none } : State) with dirty := true }
      else { s with storeRecord := false, storeWrite := none }) := by
    refine .ite ?_ h
    refine .trans ?_ (keeps_setFault ..)
    exact h.trans (.same rfl)
  exact h2.trans (.ite (keeps_setMode ..) (.refl _))

theorem keeps_storeNext (w : WriteReq) (s : State) : Keeps s (storeNext w s) :=
  .trans (keeps_settle s) (.trans (keeps_queueWrite ..) (keeps_settle _))

theorem keeps_retryStoreWrite {w : StoreWrite} {s : State} (hw : s.Sound → w.staged.Sound) : Keeps s (retryStoreWrite w s) := by
  unfold retryStoreWrite
  refine .ite ?_ (keeps_endStoreWrite ..)
  refine .trans ?_ (keeps_storeNext ..)
  exact keeps_storeWrite (fun k x hx => by cases hx; exact hw k)

theorem keeps_storeErased (b : Bool) {w : StoreWrite} {s : State} (hw : s.storeWrite = some w) :
    Keeps s (storeErased b w s) := by
  unfold storeErased
  dsimp only
  have h : Keeps s { s.endOp with store := ⟨none, false⟩ } :=
    (keeps_endOp s).trans (keeps_store (fun _ x hx => by cases hx))
  refine h.trans (.ite ?_ (keeps_retryStoreWrite (fun k => k.tables.staged w hw)))
  exact keeps_storeNext ..

theorem keeps_imageProgrammed (b : Bool) {w : StoreWrite} {s : State} (hw : s.storeWrite = some w) :
    Keeps s (imageProgrammed b w s) := by
  unfold imageProgrammed
  refine .ite ?_ ?_
  · refine .trans ?_ (keeps_storeNext ..)
    refine .trans (keeps_endOp s) (keeps_store (fun k x hx => ?_))
    cases hx
    exact k.tables.staged w hw
  · refine .trans (.trans (keeps_endOp s) (keeps_store (st := ⟨none, false⟩) (fun _ x hx => by cases hx))) ?_
    exact keeps_retryStoreWrite (fun k => k.tables.staged w hw)

theorem keeps_markProgrammed (b : Bool) {w : StoreWrite} {s : State} (hw : s.storeWrite = some w) :
    Keeps s (markProgrammed b w s) := by
  unfold markProgrammed
  dsimp only
  refine .trans (.trans (keeps_endOp s) (keeps_store (st := { s.store with marked := b }) (fun k x hx => k.tables.image x hx))) ?_
  exact .ite (keeps_endStoreWrite ..) (keeps_retryStoreWrite (fun k => k.tables.staged w hw))

theorem keeps_storeSettings (p : Port) (s : State) : Keeps s (storeSettings p s) := by
  refine keeps_guarded _ _ (fun s => ?_) s
  refine .trans ?_ (keeps_settle _)
  exact (keeps_reply ..).trans (keeps_beginStoreWrite _)

theorem keeps_enterConfig (p : Port) (s : State) : Keeps s (enterConfig p s) := by
  refine keeps_guarded _ _ (fun s => ?_) s
  refine .trans ?_ (keeps_reply ..)
  exact .ite (.ite (keeps_enterConfigMode s) (keeps_setMode ..)) (.refl s)

theorem keeps_leaveConfig (p : Port) (s : State) : Keeps s (leaveConfig p s) := by
  refine keeps_guarded _ _ (fun s => ?_) s
  refine .trans ?_ (keeps_settle _)
  refine .trans ?_ (keeps_reply ..)
  unfold leaveConfigEffect
  split
  · exact keeps_setMode ..
  · exact (keeps_setMode ..).trans (keeps_beginStoreWrite _)
  · exact .refl s

theorem wf_cutErase (a : Nat) (c : Cells) {m : Memory} (h : m.wf = true) : (cutErase a c m).wf = true := by
  unfold cutErase
  generalize c.stuck.zipIdx = l
  induction l generalizing m with
  | nil => exact h
  | cons x l ih =>
    simp only [List.foldl_cons]
    split
    · exact ih (wf_memWrite h _ _)
    · exact ih h

theorem keeps_cutProgram (a : Nat) (bs : List Byte) (c : Cells) (s : State) : Keeps s (cutProgram a bs c s) :=
  keeps_journal (fun h => wf_memProgram h _ _ _ _)

theorem keeps_cutOperation (c : Cells) (s : State) : Keeps s (cutOperation c s) := by
  unfold cutOperation
  split
  · split
    · exact keeps_cutProgram ..
    · exact .refl s
  · split
    · exact (keeps_cutProgram ..).trans (keeps_cutProgram ..)
    · exact .refl s
  · split
    · exact keeps_cutProgram ..
    · exact .refl s
  · split
    · exact keeps_journal (wf_cutErase _ _)
    · exact .refl s
  · split
    · exact keeps_cal _ (fun h => wf_memProgram h _ _ _ _)
    · exact .refl s
  · exact keeps_cal _ id
  · exact keeps_store (fun _ x hx => by cases hx)
  · exact keeps_store (fun _ x hx => by cases hx)
  · exact keeps_store (fun k x hx => k.tables.image x hx)
  · exact .refl s

theorem keeps_stopPart (c : Cells) (s : State) : Keeps s (stopPart c s) :=
  .ite ((keeps_cutOperation c s).trans (keeps_endOp _)) (.refl s)

/-! ## A start -/

theorem sound_default : Settings.default.Sound :=
  ⟨List.length_replicate, rfl, fun l hl => by rw [List.eq_of_mem_replicate hl]; exact List.length_replicate⟩

theorem keeps_coldValues (s : State) : Keeps s (coldValues s) := by
  refine ⟨rfl, fun k => ⟨k.arrays, { k.tables with
    settings := ?_, tares := List.length_replicate, tickets := Nat.zero_le _, jobs := List.length_replicate }, k.ports,
    Nat.zero_le _⟩⟩
  show (s.store.valid.elim Settings.default loadImage).Sound
  unfold Store.valid
  split
  · cases hi : s.store.image with
    | none => exact sound_default
    | some t => exact sound_loadImage (k.tables.image t hi)
  · exact sound_default

theorem keeps_clearVolatile (s : State) : Keeps s (clearVolatile s) :=
  ⟨rfl, fun k => ⟨k.arrays, { k.tables with staged := fun _ h => by cases h }, k.ports, k.clock⟩⟩

theorem keeps_startPorts (s : State) : Keeps s (startPorts s) :=
  have h : ∀ t c, (startPort t c).Sound := fun _ _ => ⟨Nat.zero_le _, Nat.zero_le _⟩
  ⟨rfl, fun k => ⟨k.arrays, k.tables, ⟨h _ _, h _ _, h _ _, h _ _⟩, k.clock⟩⟩

theorem keeps_coldFaults (s : State) : Keeps s (coldFaults s) := by
  unfold coldFaults
  dsimp only
  have h : Keeps s { s with faults := List.replicate 11 none, firstFault := none } :=
    (keeps_faults (fs := List.replicate 11 none) (fun _ => List.length_replicate)).trans (.same rfl)
  refine .trans (.trans h (.trans (keeps_setFault .retentionLost .none _) (keeps_setFault .clockUnset .none _))) ?_
  exact .ite (keeps_setFault ..) (.refl _)

theorem keeps_warmFaults (s : State) : Keeps s (warmFaults s) := by
  unfold warmFaults
  refine .ite ?_ (.refl s)
  refine .trans ?_ (keeps_setFault ..)
  exact .same rfl

theorem wf_programTears (i : Nat) (l : List Nat) {m : Memory} (h : m.wf = true) : (programTears i l m).wf = true := by
  unfold programTears
  induction l generalizing m with
  | nil => exact h
  | cons a l ih => exact ih (wf_memProgram h _ _ _ _)

theorem length_sectorBytes (s : State) (i : Nat) : (s.sectorBytes i).length = 16 := by simp [State.sectorBytes]

theorem marks_scanRecord (cs : List ScanCase) (n : Nat) {es : List (List Byte)} (h : es.length = 16) (i : Nat) :
    (scanRecord cs n es i).marks.length = 16 := by
  unfold scanRecord
  dsimp only
  split <;> simp [h]

theorem keeps_tallyTorns (l : List Nat) (s : State) : Keeps s (l.foldl (fun s _ => tallyTorn s) s) :=
  keeps_foldl _ (fun s _ => keeps_tallyTorn s) _ s

theorem keeps_reportTorn (w : Bool) (l : List Nat) (s : State) : Keeps s (reportTorn w l s) := by
  unfold reportTorn
  split
  · exact .refl s
  · exact (keeps_setFault ..).trans (.ite (keeps_tallyTorns ..) (.refl _))

theorem keeps_settleNewest (s : State) : Keeps s (settleNewest s) := by
  unfold settleNewest
  split
  · exact keeps_updSector s _ (fun _ h => h)
  · exact .refl s

theorem keeps_backfillAudited (s : State) : Keeps s (backfillAudited s) := by
  unfold backfillAudited
  split
  · exact .refl s
  · exact keeps_foldl _ (fun s _ => .ite (keeps_setSlotMark ..) (.refl s)) _ s

theorem keeps_startCounter (s : State) : Keeps s (startCounter s) := by
  unfold startCounter
  split
  · exact .ite (.same rfl) (.same rfl)
  · exact .same rfl

theorem keeps_restartErase (s : State) : Keeps s (restartErase s) := by
  unfold restartErase
  split
  · exact .same rfl
  · exact .refl s

theorem wf_foldTears (f : Nat → List Nat) (l : List Nat) {m : Memory} (h : m.wf = true) :
    (l.foldl (fun m i => programTears i (f i) m) m).wf = true := by
  induction l generalizing m with
  | nil => exact h
  | cons a l ih => exact ih (wf_programTears _ _ h)

/-- The new map and the TORN marks of a scan. -/
theorem keeps_scanned (s : State) (f : Nat → Sector) (g : Nat → List Nat) (h : ∀ i, (f i).marks.length = 16) :
    Keeps s { s with
      scanned := true
      sectors := sectorIndexes.map f
      journal := sectorIndexes.foldl (fun m i => programTears i (g i) m) s.journal } :=
  ⟨rfl, fun k => ⟨{ k.arrays with journal := wf_foldTears _ _ k.arrays.journal },
    { k.tables with sectors := ⟨by simp [sectorIndexes], fun c hc => by
        obtain ⟨i, _, rfl⟩ := List.mem_map.mp hc
        exact h i⟩ }, k.ports, k.clock⟩⟩

theorem keeps_scanJournal (w : Bool) (d : List (Nat × Byte)) (s : State) : Keeps s (scanJournal w d s) := by
  unfold scanJournal
  dsimp only
  refine .trans ?_ (keeps_restartErase _)
  refine .trans ?_ (keeps_evalSpace _)
  refine .trans ?_ (keeps_startCounter _)
  refine .trans ?_ (keeps_backfillAudited _)
  refine .trans ?_ (keeps_settleNewest _)
  refine .trans ?_ (keeps_reportTorn ..)
  refine .trans (keeps_journal (m := memDecay s.journal 0 131072 d) (fun h => wf_memDecay h _ _ _)) ?_
  exact keeps_scanned _ _ _ (fun i => marks_scanRecord _ _ (length_sectorBytes _ _) _)

theorem keeps_offerLeft (was : PerScale Channel) (s : State) (sc : Scale) : Keeps s (offerLeft was s sc) :=
  .ite (keeps_offerScaleState ..) (.refl s)

theorem keeps_startScales (s : State) : Keeps s (startScales s) := by
  refine .trans ?_ (keeps_foldl _ (keeps_offerLeft _) _ _)
  exact .same rfl

theorem keeps_resolveRecord (s : State) (r : Settlement) : Keeps s (resolveRecord s r) := by
  unfold resolveRecord
  split
  · exact keeps_completeRecord ..
  · exact keeps_failRecord ..

theorem keeps_warmResolve (s : State) : Keeps s (warmResolve s) := by
  unfold warmResolve
  refine .trans ?_ (keeps_examineHolds _)
  exact (keeps_foldl _ keeps_resolveRecord _ s).trans (.same rfl)

theorem keeps_warmTickets (s : State) : Keeps s (warmTickets s) := keeps_tickets (by simp)

theorem keeps_warmActivities (d : List (Nat × Byte)) (s : State) : Keeps s (warmActivities d s) := by
  unfold warmActivities
  dsimp only
  refine .trans ?_ (keeps_warmResolve _)
  refine .trans ?_ (keeps_testBacklog _)
  refine .trans ?_ (keeps_warmTickets _)
  refine .trans ?_ (keeps_startScales _)
  exact (keeps_warmFaults s).trans ((keeps_scanJournal ..).trans (keeps_jobs (by simp)))

theorem keeps_setBacklog (s : State) : Keeps s (setBacklog s) := by
  unfold setBacklog
  split
  · refine .trans ?_ (keeps_testBacklog _)
    exact .same rfl
  · exact .refl s

theorem keeps_coldActivities (d : List (Nat × Byte)) (s : State) : Keeps s (coldActivities d s) := by
  unfold coldActivities
  refine .trans ?_ (keeps_rebuildTally _)
  refine .trans ?_ (keeps_setBacklog _)
  refine .trans ?_ (keeps_startScales _)
  exact (keeps_coldFaults s).trans (keeps_scanJournal ..)

theorem keeps_startPart (a b : Bool) (d : List (Nat × Byte)) (s : State) : Keeps s (startPart a b d s) := by
  unfold startPart
  dsimp only
  refine .trans ?_ (keeps_settle _)
  refine .trans ?_ (keeps_setMode ..)
  have h : Keeps s (startPorts (if warmStart a b s then clearVolatile s else coldValues (clearVolatile s))) := by
    refine .trans ?_ (keeps_startPorts _)
    exact .ite (keeps_clearVolatile s) ((keeps_clearVolatile s).trans (keeps_coldValues _))
  exact h.trans (.ite (keeps_warmActivities ..) (keeps_coldActivities ..))

end Sys2Proof.Machine
end

