-- ==== Sys2Proof/Laws/Reading.lean ====
section
/-! SUPPORT. How numbers are written and journal entries are read: the bytes of a field, its number, and a sum of bytes. -/

namespace Sys2Proof.Machine

/-! ## Numbers in bytes (R209) -/

/-- A field of one byte more ends with the number's last byte. -/
theorem be_succ (w n : Nat) : be (w + 1) n = be w (n / 256) ++ [BitVec.ofNat 8 n] := by
  induction w generalizing n with
  | zero => simp [be]
  | succ w ih =>
    rw [be, ih]
    conv => rhs; rw [be]
    simp only [List.cons_append, Nat.div_div_eq_div_mul, List.cons.injEq, and_true]
    congr 1
    rw [Nat.pow_succ, Nat.mul_comm]

/-- A signed number in range is written in two's complement. -/
theorem beInt_eq {w : Nat} {i : Int} (low : -(256 ^ w : Nat) ≤ 2 * i) (high : 2 * i < (256 ^ w : Nat)) :
    beInt w i = be w (if i < 0 then i + (256 ^ w : Nat) else i).toNat := by
  unfold beInt
  congr 2
  split
  · rw [← Int.add_emod_right, Int.emod_eq_of_lt (by omega) (by omega)]
  · rw [Int.emod_eq_of_lt (by omega) (by omega)]

/-- The sum of a list of bytes, in a field of `w` bytes. -/
theorem byteSum_eq (w : Nat) (bs : List Byte) : byteSum w bs = (bs.map BitVec.toNat).sum % 256 ^ w := by
  have fold : ∀ n, bs.foldl (fun n b => n + b.toNat) n = n + (bs.map BitVec.toNat).sum := by
    induction bs with
    | nil => simp
    | cons b bs ih => intro n; simp [ih]; omega
  unfold byteSum
  rw [fold, Nat.zero_add]

/-! ## The fields of an entry (R119, R215) -/

/-- A field of an entry, byte by byte. -/
theorem entryField_eq {e : List Byte} (size : e.length = 256) {off n : Nat} (fits : off + n ≤ 256) :
    entryField e off n = (List.range n).map (fun k => e.getD (off + k) 0#8) := by
  unfold entryField
  apply List.ext_getElem?
  intro i
  by_cases hi : i < n
  · rw [List.getElem?_take_of_lt hi]
    simp only [List.getElem?_drop, List.getElem?_map, List.getElem?_range hi, Option.map_some, List.getD_eq_getElem?_getD]
    rw [List.getElem?_eq_getElem (by omega)]
    rfl
  · rw [List.getElem?_eq_none (by simp; omega), List.getElem?_eq_none (by simp; omega)]

/-- A number of no bytes is 0. -/
theorem entryNat_zero (e : List Byte) (off : Nat) : entryNat e off 0 = 0 := by simp [entryNat, entryField, ofBytes]

/-- A number of one byte more has that byte as its last. -/
theorem entryNat_succ {e : List Byte} (size : e.length = 256) {off n : Nat} (fits : off + n < 256) :
    entryNat e off (n + 1) = 256 * entryNat e off n + (e.getD (off + n) 0#8).toNat := by
  unfold entryNat
  rw [entryField_eq size (by omega), entryField_eq size (by omega), List.range_succ]
  simp [ofBytes]

/-- A flag of an entry is a bit of byte 16. -/
theorem entryFlag_eq {e : List Byte} (size : e.length = 256) (i : Nat) : entryFlag e i = (e.getD 16 0#8).getLsbD i := by
  unfold entryFlag
  rw [entryField_eq size (by omega)]
  rfl

end Sys2Proof.Machine
end

