-- ==== Sys2Proof/Laws/Settlement.lean ====
section
/-! SUPPORT. How a commit comes to the head of its queue: what the first two steps of an attempt do, and how the commits that the
exhausted counter fails are passed over. -/

namespace Sys2Proof.Machine

/-- Step 1 of an attempt enters the counter's number in the settlement record and in the ticket, and the counter rises or is
exhausted (R120, R123). -/
theorem reportNumber_eq (q : CommitReq) {s : State} (fresh : s.exhausted = false) :
    reportNumber q s.counter s.advanceCounter = { s with
      counter := if s.counter < 4294967295 then s.counter + 1 else s.counter
      exhausted := decide (4294967295 ≤ s.counter)
      settlements := match s.settlements with
        | [] => []
        | r :: rs => { r with receipt := some s.counter } :: rs
      tickets := match q.ticket with
        | some n => s.tickets.map (fun t => if t.number = n then
            { t with commit := t.commit.map (fun c => { c with receipt := some s.counter }) } else t)
        | none => s.tickets } := by
  unfold reportNumber State.updRecord State.advanceCounter lastReceipt
  by_cases below : s.counter < 4294967295
  · have : decide (4294967295 ≤ s.counter) = false := by simp; omega
    rw [if_pos below, if_pos below, this]
    cases q.ticket with
    | none => dsimp only; rw [fresh] <;> rfl
    | some t => dsimp only [State.updTicket]; rw [fresh]; simp <;> rfl
  · have : decide (4294967295 ≤ s.counter) = true := by simp; omega
    rw [if_neg below, if_neg below, this]
    cases q.ticket with
    | none => rfl
    | some t => dsimp only [State.updTicket]; simp <;> rfl

/-- The first two steps of an attempt, as `numbered` says them (R120, R123, R124). -/
theorem assignNumber_eq (q : CommitReq) (attempt : Nat) {s : State} (fresh : s.exhausted = false) :
    assignNumber q attempt s = numbered q attempt s := by
  unfold assignNumber numbered selectEntry
  dsimp only
  rw [reportNumber_eq q fresh]
  have ahead : ∀ (k : Nat) (e : Bool) (rs : List Settlement) (ts : List Ticket),
      ({ s with counter := k, exhausted := e, settlements := rs, tickets := ts } : State).aheadRun = s.aheadRun :=
    fun _ _ _ _ => rfl
  rw [ahead]
  dsimp only [State.sector]
  generalize s.aheadRun = run
  cases s.sectors.findIdx? (fun c => c.state == .filling) with
  | some i => rfl
  | none =>
    cases run with
    | nil => dsimp only; simp only [reduceCtorEq, if_false, List.append_nil] <;> rfl
    | cons i is =>
      by_cases h : (s.sectors.getD i Sector.unchecked).state = .erased
      · simp only [h, if_true] <;> rfl
      · simp only [h, if_false, reduceCtorEq, List.append_nil] <;> rfl

/-- A commit at the head, or an empty queue, leaves the queue as it is. -/
theorem nextHead_stands {s : State} (h : s.head ≠ none ∨ s.commitQueue = []) : nextHead s = s := by
  unfold nextHead takeHead
  rcases h with h | h
  · cases hh : s.head with
    | none => exact absurd hh h
    | some x => rfl
  · rw [h]
    cases s.head <;> rfl

/-- The next commit begins its first attempt (R120, R126). -/
theorem nextHead_begins {q : CommitReq} {rest : List CommitReq} {s : State} (free : s.head = none)
    (queue : s.commitQueue = q :: rest) (fresh : s.exhausted = false) : nextHead s = numbered q 1 s := by
  unfold nextHead takeHead
  rw [free, queue]
  dsimp only
  rw [if_neg (by simp [fresh])]
  exact assignNumber_eq q 1 fresh

end Sys2Proof.Machine
end

