-- ==== Sys2Proof/Laws/Work.lean ====
section
/-! SUPPORT. What shared operations do: which job is the oldest, which numbers are retained and where the audit mark stands, what a setting
event, a change of a scale or the printer, a presentation and an examination of the holds do, and what a cut-short erase leaves. -/

namespace Sys2Proof.Machine

/-! ## The oldest QUEUED job (R148) -/

/-- A slot holds a QUEUED job. -/
abbrev State.queuedAt (s : State) (slot : Nat) (j : Job) : Prop := s.job slot = some j ∧ j.state = .queued

/-- Among the jobs of two slots, the first slot's is older, or as old in a slot that is not higher. -/
abbrev State.notAfter (s : State) (i k : Nat) : Prop :=
  ∀ a b, s.queuedAt i a → s.queuedAt k b → a.age < b.age ∨ (a.age = b.age ∧ i ≤ k)

/-- What a search for the oldest QUEUED job has found among the slots below `n`. -/
abbrev State.oldestBelow (s : State) (n : Nat) (best : Option Nat) : Prop :=
  (best = none → ∀ i < n, ∀ j, ¬ s.queuedAt i j) ∧
  ∀ b, best = some b → b < n ∧ (∃ j, s.queuedAt b j) ∧ ∀ i < n, s.notAfter b i

/-- The older of the best slot so far and a further one. -/
theorem oldest_step (s : State) (n : Nat) (best : Option Nat) :
    let next := match s.job n with
      | some j =>
        if j.state = .queued then
          (match best with
            | some b => if j.age < ((s.job b).map (·.age)).getD 0 then some n else best
            | none => some n)
        else best
      | none => best
    s.oldestBelow n best → s.oldestBelow (n + 1) next := by
  rintro next ⟨hn, hs⟩
  simp only [next]
  clear next
  have grow : (∀ j, ¬ s.queuedAt n j) → s.oldestBelow (n + 1) best := by
    refine fun h => ⟨fun hb i hi j => ?_, fun b hb => ?_⟩
    · rcases Nat.lt_or_eq_of_le (Nat.le_of_lt_succ hi) with hi | rfl
      · exact hn hb i hi j
      · exact h j
    · obtain ⟨hlt, hq, ho⟩ := hs b hb
      refine ⟨by omega, hq, fun i hi => ?_⟩
      rcases Nat.lt_or_eq_of_le (Nat.le_of_lt_succ hi) with hi | rfl
      · exact ho i hi
      · exact fun _ y _ hy => absurd hy (h y)
  rcases hj : s.job n with _ | j
  · exact grow (by simp [State.queuedAt, hj])
  by_cases hst : j.state = .queued
  · have same : ∀ {x}, s.queuedAt n x → x = j := fun hx => by simpa [hj] using hx.1.symm
    simp only [hst, if_true]
    rcases best with _ | b
    · refine ⟨by simp, fun b hb => ?_⟩
      cases hb
      refine ⟨by omega, ⟨j, hj, hst⟩, fun i hi x y hx hy => ?_⟩
      rcases Nat.lt_or_eq_of_le (Nat.le_of_lt_succ hi) with hi | rfl
      · exact absurd hy (hn rfl i hi y)
      · rw [same hx, same hy]; exact .inr ⟨rfl, Nat.le_refl _⟩
    · obtain ⟨hlt, ⟨jb, hjb⟩, ho⟩ := hs b rfl
      simp only [hjb.1, Option.map_some, Option.getD_some]
      by_cases hage : j.age < jb.age
      · refine ⟨by simp [hage], fun b' hb => ?_⟩
        simp only [hage, if_true, Option.some.injEq] at hb
        subst hb
        refine ⟨by omega, ⟨j, hj, hst⟩, fun i hi x y hx hy => ?_⟩
        rw [same hx]
        rcases Nat.lt_or_eq_of_le (Nat.le_of_lt_succ hi) with hi | rfl
        · have := ho i hi jb y hjb hy
          exact .inl (by omega)
        · rw [same hy]; exact .inr ⟨rfl, Nat.le_refl _⟩
      · refine ⟨by simp [hage], fun b' hb => ?_⟩
        simp only [hage, if_false, Option.some.injEq] at hb
        subst hb
        refine ⟨by omega, ⟨jb, hjb⟩, fun i hi x y hx hy => ?_⟩
        rcases Nat.lt_or_eq_of_le (Nat.le_of_lt_succ hi) with hi | rfl
        · exact ho i hi x y hx hy
        · have hxb : x = jb := by simpa [hjb.1] using hx.1.symm
          rw [same hy, hxb]
          omega
  · simp only [hst, if_false]
    exact grow fun x hx => hst (by have : x = j := by simpa [hj] using hx.1.symm
                                   exact this ▸ hx.2)

/-- The job taken next is the QUEUED job of lowest age, of equal ages the one in the lowest slot; none when no job is QUEUED. -/
theorem oldestQueued_spec (s : State) : s.oldestBelow 16 s.oldestQueued := by
  unfold State.oldestQueued
  generalize 16 = n
  induction n with
  | zero => simp [State.oldestBelow]
  | succ n ih =>
    simp only [List.range_succ, List.foldl_append, List.foldl_cons, List.foldl_nil]
    exact oldest_step s n _ ih

/-! ## The fault status (R191) -/

/-- A setting event of a kind that is clear and unmasked: the bit, the first-fault record and the notice. -/
theorem setFault_fresh {k : FaultKind} {s : State} (hk : s.fault k = none) (hm : s.masked k = false) (d : FaultDetail) :
    setFault k d s = broadcast ⟨.fault, some (faultIndex k), faultDetailBytes d, s.clock⟩ { s with
      faults := s.faults.set (faultIndex k) (some ⟨d, s.clock⟩), firstFault := noteFirstFault k d s.clock s.firstFault } := by
  simp [setFault, hk, hm]

/-- A setting event of a kind that is set or masked: the bit alone. -/
theorem setFault_standing {k : FaultKind} {s : State} (h : (s.fault k).isSome = true ∨ s.masked k = true) (d : FaultDetail) :
    setFault k d s = { s with faults := s.faults.set (faultIndex k) (some ⟨d, s.clock⟩) } := by
  rcases h with h | h
  · have : s.fault k ≠ none := Option.isSome_iff_ne_none.mp h
    simp [setFault, this]
  · simp [setFault, h]

/-! ## Changes of a scale and of the printer (R10, R146) -/

/-- A change of a channel touches that channel and the notices only. -/
theorem updScale_eq (sc : Scale) (f : Channel → Channel) (s : State) :
    updScale sc f s = { s.updChan sc f with ports := (updScale sc f s).ports } := by
  unfold updScale
  simp only []
  split <;> rfl

/-- A change of the print engine touches it and the notices only. -/
theorem updPrinter_eq (f : PrintEngine → PrintEngine) (s : State) :
    updPrinter f s = { s with pe := f s.pe, ports := (updPrinter f s).ports } := by
  unfold updPrinter
  simp only []
  split <;> rfl

/-- A change of a channel: SCALE_STATE is offered if its state or WARN changed. -/
theorem updScale_heard (sc : Scale) (f : Channel → Channel) (s : State) :
    updScale sc f s = { s with
      channels := s.channels.set sc (f (s.chan sc)), ports := scaleHeard sc (f (s.chan sc)) s } := by
  have hc : (s.updChan sc f).chan sc = f (s.chan sc) := by cases sc <;> rfl
  unfold updScale scaleHeard
  simp only [hc]
  split
  · rfl
  · simp only [offerScaleState, hc]
    rfl

/-- A change of the print engine offers PRINTER_STATE exactly if what it shows has changed. -/
theorem updPrinter_heard (f : PrintEngine → PrintEngine) (s : State) : updPrinter f s = printerBecomes (f s.pe) s := by
  unfold updPrinter printerBecomes printerHeard offerPrinterState printerView
  simp only [Prod.mk.injEq, and_assoc]
  by_cases h : (f s.pe).pausePaper = s.pe.pausePaper ∧ (f s.pe).pauseCover = s.pe.pauseCover ∧
      (f s.pe).pauseStart = s.pe.pauseStart ∧ (f s.pe).paper = s.pe.paper ∧ (f s.pe).cover = s.pe.cover ∧
      (f s.pe).link = s.pe.link
  · rw [if_pos h, if_pos h]
  · rw [if_neg h, if_neg h]; rfl

/-! ## Presentations (R71) -/

/-- A capture that fails leaves its scale and its ticket, and tells the arming port (R75). -/
theorem failCapture_eq (sc : Scale) (k : Capture) (r : CaptureFailure) (w : Option Int) (s : State) :
    failCapture sc k r w s = { s with
      channels := s.channels.set sc { s.chan sc with capture := none }
      tickets := match k.ticket with
        | some n => s.tickets.map (fun t => if t.number = n then { t with capture := none } else t)
        | none => s.tickets
      ports := (offerTo k.port (weighFailed sc k r w s.clock) s).ports } := by
  unfold failCapture removeCapture
  rcases k.ticket with _ | n
  · rfl
  · simp only [State.updTicket, beq_iff_eq]
    rfl

/-- A presentation that follows no good frame is `presented`. -/
theorem present_eq (sc : Scale) (s : State) : present sc false s = presented sc s := by
  unfold present presented
  dsimp only
  rcases hk : (s.chan sc).capture with _ | k
  · rfl
  dsimp only
  have hp : platformTare sc k = true ↔ sc = .p ∧ k.kind = .tare := by simp [platformTare]
  rcases hs : (s.chan sc).state <;> simp only [failCapture_eq, hs, reduceCtorEq, if_false, if_true, or_false, or_true, true_and,
    false_and, Bool.false_eq_true]
  case empty =>
    by_cases h : platformTare sc k = true
    · rw [if_pos h, if_neg (fun x => x.2 (hp.mp h))]
      split <;> rfl
    · rw [if_neg h]
      simp only [hp] at h
      simp only [h, not_false_eq_true, and_true] <;> rfl
  case stable => split <;> rfl
  all_goals first
    | rfl
    | (unfold State.updChan; simp only [State.chan] at hk hs ⊢; simp only [← hs])

/-! ## An examination of the hold list (R93, R94) -/

/-- What notices do to the ports depends on the ports alone. -/
theorem foldl_payable_ports (due : List HoldEntry) (time : Nat) {x y : State} (h : x.ports = y.ports) :
    (due.foldl (fun x e => broadcast ⟨.ticketPayable, some e.ticket, [2#8], time⟩ x) x).ports =
    (due.foldl (fun x e => broadcast ⟨.ticketPayable, some e.ticket, [2#8], time⟩ x) y).ports := by
  induction due generalizing x y with
  | nil => exact h
  | cons a due ih => exact ih (by simp only [broadcast, h])

/-- Some entries expire one after another: each ticket named becomes PAYABLE and each offers its notice, and nothing else changes. -/
theorem foldl_expireHold (due : List HoldEntry) (s : State) :
    due.foldl (fun x e => expireHold e x) s = { s with
      tickets := s.tickets.map (fun t => if due.any (fun e => e.ticket == t.number) then { t with state := .payable } else t)
      ports := (due.foldl (fun x e => broadcast ⟨.ticketPayable, some e.ticket, [2#8], s.clock⟩ x) s).ports } := by
  induction due generalizing s with
  | nil =>
    simp only [List.foldl_nil, List.any_nil, Bool.false_eq_true, if_false, List.map_id']
  | cons e due ih =>
    have ports := foldl_payable_ports due s.clock (x := expireHold e s)
      (y := broadcast ⟨.ticketPayable, some e.ticket, [2#8], s.clock⟩ s) rfl
    have tickets : (expireHold e s).tickets =
        s.tickets.map (fun t => if e.ticket = t.number then { t with state := .payable } else t) := by
      refine List.map_congr_left (fun t _ => ?_)
      by_cases h : t.number = e.ticket
      · simp [h]
      · simp [h, Ne.symm h]
    rw [List.foldl_cons, ih, show (expireHold e s).clock = s.clock from rfl, ports, tickets, List.map_map]
    have both : (fun t : Ticket => if (due.any fun e => e.ticket == t.number) = true then { t with state := .payable } else t) ∘
          (fun t => if e.ticket = t.number then { t with state := .payable } else t) =
        fun t => if ((e :: due).any fun e => e.ticket == t.number) = true then { t with state := .payable } else t := by
      funext t
      by_cases h : e.ticket = t.number <;> simp [h]
    rw [both]
    rfl

/-- An examination expires the entries due, from the front of the list on. -/
theorem examineEntries_eq (hs : List HoldEntry) (s : State) (h : s.holds = hs) :
    examineEntries hs s = (hs.takeWhile (fun e => e.expiry ≤ s.clock)).foldl (fun x e => expireHold e x)
      { s with holds := hs.dropWhile (fun e => e.expiry ≤ s.clock) } := by
  induction hs generalizing s with
  | nil =>
    show s = { s with holds := [] }
    rw [← h]
  | cons e hs ih =>
    by_cases he : e.expiry ≤ s.clock
    · simp only [examineEntries, he, if_true, decide_true, List.takeWhile_cons_of_pos, List.dropWhile_cons_of_pos, List.foldl_cons]
      exact ih (expireHold e { s with holds := hs }) rfl
    · simp only [examineEntries, he, if_false, decide_false, Bool.false_eq_true, not_false_eq_true, List.takeWhile_cons_of_neg,
        List.dropWhile_cons_of_neg, List.foldl_nil]
      rw [← h]

/-- An examination of the hold list: the entries due leave it, their tickets become PAYABLE and their notices are offered in list
order, and nothing else changes. -/
theorem examineHolds_eq (s : State) :
    let due := s.holds.takeWhile (fun e => e.expiry ≤ s.clock)
    examineHolds s = { s with
      holds := s.holds.dropWhile (fun e => e.expiry ≤ s.clock)
      tickets := s.tickets.map (fun t => if due.any (fun e => e.ticket == t.number) then { t with state := .payable } else t)
      ports := (due.foldl (fun x e => broadcast ⟨.ticketPayable, some e.ticket, [2#8], s.clock⟩ x) s).ports } := by
  unfold examineHolds
  rw [examineEntries_eq s.holds s rfl]
  generalize s.holds.takeWhile (fun e => e.expiry ≤ s.clock) = due
  generalize s.holds.dropWhile (fun e => e.expiry ≤ s.clock) = left
  rw [foldl_expireHold]
  dsimp only
  rw [foldl_payable_ports due s.clock (x := { s with holds := left }) (y := s) rfl]

/-! ## Power loss (R206) -/

/-- What a cut-short erase leaves, from a place in the sector on. -/
theorem cutErase_from (a : Nat) (stuck : List Byte) (k : Nat) {m : Memory} (h : m.wf = true) :
    let m' := (stuck.zipIdx k).foldl (fun m (b, k) => if k < 4096 then memWrite m (a + k) (memRead m (a + k) ||| b) else m) m
    m'.wf = true ∧ ∀ y, memRead m' y =
      if a + k ≤ y ∧ y < a + 4096 then memRead m y ||| stuck.getD (y - a - k) 0#8 else memRead m y := by
  induction stuck generalizing k m with
  | nil => simp [h]
  | cons b bs ih =>
    simp only [List.zipIdx_cons, List.foldl_cons]
    by_cases hk : k < 4096
    · simp only [hk, if_true]
      obtain ⟨hw, hr⟩ := ih (k + 1) (wf_memWrite h (a + k) (memRead m (a + k) ||| b))
      refine ⟨hw, fun y => (hr y).trans ?_⟩
      by_cases hy : y = a + k
      · subst hy
        rw [if_neg (by omega), if_pos (by omega), memRead_memWrite_same h]
        simp
      · rw [memRead_memWrite_other hy]
        by_cases hc : a + (k + 1) ≤ y ∧ y < a + 4096
        · rw [if_pos hc, if_pos (by omega), show y - a - k = (y - a - (k + 1)) + 1 by omega, List.getD_cons_succ]
        · rw [if_neg hc, if_neg (by omega)]
    · simp only [hk, if_false]
      obtain ⟨hw, hr⟩ := ih (k + 1) h
      exact ⟨hw, fun y => (hr y).trans (by rw [if_neg (by omega), if_neg (by omega)])⟩

/-- A cut-short erase sets the bits it reached in its sector, changes no other byte, and keeps the canonical form. -/
theorem cutErase_spec (a : Nat) (cut : Cells) {m : Memory} (h : m.wf = true) :
    (cutErase a cut m).wf = true ∧ ∀ y, memRead (cutErase a cut m) y =
      if a ≤ y ∧ y < a + 4096 then memRead m y ||| cut.stuck.getD (y - a) 0#8 else memRead m y := by
  simpa [cutErase] using cutErase_from a cut.stuck 0 h

end Sys2Proof.Machine
end

