-- ==== Sys2Proof/Tests/Slice0.lean ====
section
/-! SUPPORT. The model's own tests: the ill-formed terms that the checks refuse, small steps from states built here, and for every
statement with hypotheses a state and operands that meet them together (`test_premises_…`). -/

open Sys2Proof Sys2Proof.Machine

namespace Sys2Proof.Tests

-- One test after another: many at once would each take a thread of their own.
set_option Elab.async false

/-! ## States -/

/-- The state a command leaves. -/
def after (c : Instr) (s : State) : State :=
  match exec c s with
  | .next t => t
  | _ => s

/-- The result that a command leaves at a port. -/
def resultOf (p : Port) (c : Instr) (s : State) : Option Result := ((after c s).port p).result

/-- The code that a command leaves at a port. -/
def codeOf (p : Port) (c : Instr) (s : State) : Option ResultCode := (resultOf p c s).map (·.code)

/-- The printable text of a test. -/
def id1 : List Byte := ascii "TRUCK1"

/-- A calibration whose W0 is the sum of the counts: span 65536 is 1.0. -/
def unitCal : CalRecord := ⟨1, 0, 65536, [10000, 10000, 10000, 10000], 0⟩

/-- A ticket with the fields that the tests vary. -/
def ticketOf (n : Nat) (st : TicketState) (ws : List Weighing) (ls : List Line) : Ticket :=
  { newTicket n .bridge .s1 100 (some id1) with state := st, weighings := ws, lines := ls }

/-- A gross weighing of 40,000 units on A. -/
def gross : Weighing := ⟨.a, .gross, 40000, 200, none⟩

/-- A yard at work: the clock set, two grades, a calibrated scale A, a ticket in each state but COMMITTING, a stored tare, a journal
with one COMPLETE and one PRINTED entry, and two jobs. -/
def yard : State :=
  { State.reset with
    clock := 1000
    clockSet := true
    settings := { Settings.default with
      grades := (Settings.default.grades.set 0 ⟨true, ascii "COPPER  ", true, false, 0, 7853, 7853⟩).set 1
        ⟨true, ascii "WIRE    ", true, true, 24, 9000, 9000⟩ }
    channels := { State.reset.channels with a := { Channel.fresh with
      state := .empty, weight := some 0, w1 := some 0, reference := some 0, motion := 10, live := some unitCal
      calCounter := 1, slotsUsed := 1, nextSlot := 1 } }
    tares := State.reset.tares.set 0 (some ⟨id1, .bridge, 12000, 900⟩)
    tickets := [ticketOf 1 .opened [] [], ticketOf 2 .onYard [gross] [⟨1, 20000, 0, none, none⟩],
      { ticketOf 3 .payable [gross] [⟨1, 1238, 0, some 7853, some 97220⟩] with
        closedTime := some 500, total := some 97220, tareSource := some .weighed },
      { ticketOf 4 .held [gross] [⟨2, 1000, 0, some 9000, some 90000⟩] with
        closedTime := some 500, total := some 90000, tareSource := some .weighed, hold := some ⟨5000, false⟩ }]
    nextTicket := 5
    holds := [⟨4, 5000⟩]
    counter := 3
    lowFlag := false
    sectors := ((State.reset.sectors.set 0 ⟨.filling, some 1, 2, .complete :: .printed :: List.replicate 14 .blank, List.replicate 16 1#8⟩).set 1
      Sector.erased).set 2 Sector.erased
    jobs := (State.reset.jobs.set 0 (some ⟨.duplicate, some 2, some .s2, .queued, 0, false, 0, 0⟩)).set 1
      (some ⟨.duplicate, some 2, some .s0, .retryWait, 1, false, 1, 2⟩)
    ageCounter := 2
    faults := List.replicate 11 none
    firstFault := none
    lostSupply := false }

/-- The yard in a mode. -/
def yardIn (m : Mode) : State := { yard with mode := m }

/-- The yard with its printer ready and no job queued. -/
def quiet : State := { yard with
  jobs := State.reset.jobs
  pe := { yard.pe with pauseStart := false, queryTimer := none, link := .normal } }

/-- The yard with the engine in the middle of an operation. -/
def busyWith (op : EngineOp) : State := { yard with engine := { yard.engine with current := some op } }

/-! ## Well-formed commands (log 40) -/

theorem test_wf_frame : (Instr.digitizerFrame .p [⟨0x5A#8, false⟩, ⟨0#8, false⟩, ⟨1#8, false⟩]).wf = false := by decide +kernel
theorem test_wf_stream_read : (Instr.journalStreamRead .s3 [(256, 0#8)]).wf = false := by decide +kernel
theorem test_wf_vehicle : (Instr.openTicket .s1 1#8 (List.replicate 256 0x41#8)).wf = false := by decide +kernel
theorem test_wf_set_vehicle : (Instr.setVehicle .s1 1#16 (List.replicate 256 0x41#8)).wf = false := by decide +kernel
theorem test_wf_seller : (Instr.setSeller .s1 1#16 (List.replicate 256 0x41#8)).wf = false := by decide +kernel
theorem test_wf_weigh : (Instr.weigh .s1 1#8 4#8 1#16 0#8).wf = false := by decide +kernel
theorem test_wf_store_tare : (Instr.weighStoreTare .s1 1#8 (List.replicate 256 0x41#8)).wf = false := by decide +kernel
theorem test_wf_calibration_record : (Instr.calibrationRecordWritten .a ⟨List.replicate 23 0#8, []⟩).wf = false := by decide +kernel
theorem test_wf_calibration_lock : (Instr.calibrationLockWritten .a ⟨[], [0#8, 0#8]⟩).wf = false := by decide +kernel
theorem test_wf_claim_expiry : (Instr.claimExpiry 0#16).wf = false ∧ (Instr.claimExpiry 10000#16).wf = false := by decide +kernel
theorem test_wf_commit_steps : (Instr.commitHeader ⟨List.replicate 13 0#8, []⟩ .good .good).wf = false ∧
    (Instr.commitBody ⟨List.replicate 241 0#8, []⟩ .good .good).wf = false ∧
    (Instr.commitComplete .good ⟨[0#8, 0#8], []⟩ .good).wf = false ∧
    (Instr.commitComplete .good .good ⟨List.replicate 5 0#8, []⟩).wf = false := by decide +kernel
theorem test_wf_marks : (Instr.printedMark .good ⟨List.replicate 5 0#8, []⟩).wf = false ∧
    (Instr.auditMark ⟨[0#8, 0#8], []⟩).wf = false := by decide +kernel
theorem test_wf_sector_reads : (Instr.blankCheck [(4096, 0#8)]).wf = false ∧ (Instr.eraseDone [(4096, 0#8)]).wf = false ∧
    (Instr.printFetch [(256, 0#8)]).wf = false := by decide +kernel
theorem test_wf_retry_wait : (Instr.retryWait 16).wf = false := by decide +kernel
theorem test_wf_define_grade : (Instr.defineGrade .s0 1#8 (ascii "SHORT") 0#8 0#8 0#24).wf = false := by decide +kernel
theorem test_wf_delete_tare : (Instr.deleteTare .s0 (List.replicate 256 0x41#8)).wf = false := by decide +kernel
theorem test_wf_read_tare : (Instr.readTare .s0 (.id 0#8 [])).wf = false := by decide +kernel
theorem test_wf_set_header : (Instr.setHeader .s0 1#8 (ascii "HEADER")).wf = false := by decide +kernel
theorem test_wf_cuts : (Instr.mainSupplyLoss ⟨List.replicate 4097 0#8, []⟩).wf = false ∧
    (Instr.resetNLow ⟨[], List.replicate 4097 0#8⟩).wf = false := by decide +kernel
theorem test_wf_start : (Instr.start false false [(131072, 0#8)]).wf = false := by decide +kernel

/-! ## Numbers that the spec works out -/

theorem test_reported_weight : reported .a 328899 = 328800 ∧ reported .a 328900 = 329000 ∧ reported .a (-100) = 0 := by decide
theorem test_byte_order : be 4 0x01020304 = [1#8, 2#8, 3#8, 4#8] ∧ beInt 2 (-1) = [0xFF#8, 0xFF#8] ∧
    ofBytesInt [0xFF#8, 0xFF#8, 0xFE#8] = -2 := by decide
theorem test_marks_read : readMark 0xFF#8 = .blank ∧ readMark 0x7F#8 = .started ∧ readMark 0x3F#8 = .complete ∧
    readMark 0x1F#8 = .printed ∧ readMark 0x6F#8 = .torn ∧ readMark 0x17#8 = .audited ∧ readMark 0x67#8 = .audited ∧
    readMark 0x00#8 = .badPattern := by decide
theorem test_date : dateTime 0 = ascii "2000-01-01 00:00:00" ∧ dateTime 5097599 = ascii "2000-02-28 23:59:59" ∧
    dateTime 5097600 = ascii "2000-02-29 00:00:00" := by decide +kernel
theorem test_field_layout : field "AMOUNT" (fixedPoint 2 97220) =
    [ascii "AMOUNT" ++ List.replicate 20 0x20#8 ++ ascii "972.20"] := by decide +kernel
theorem test_price_line : (priceLine yard ⟨1, 1238, 0, none, none⟩).amount = some 97220 := by decide +kernel
theorem test_ticket_numbers :
    let t (n : Nat) : Ticket := ticketOf n .opened [] []
    let s := { State.reset with tickets := [t 9999, t 1, t 4], nextTicket := 9998 }
    s.openNumber = 9998 ∧ ({ s with nextTicket := 9999 }).openNumber = 2 := by decide +kernel

/-! ## Starts -/

theorem test_new_part : startPart false false [] { State.reset with supply := false } = State.reset := by decide +kernel
theorem test_warm_start : ((after (.start true true []) (after (.mainSupplyLoss .good) yard)).tickets.map (·.number)) = [1, 2, 3, 4] ∧
    (after (.start true true []) (after (.mainSupplyLoss .good) yard)).clock = 1000 := by decide +kernel
theorem test_sense_line_lost : (after (.start true false []) (after (.mainSupplyLoss .good) yard)).tickets = [] := by decide +kernel

theorem test_start_ends_fault :
    let s := yard.updChan .a (fun c => { c with state := .fault, weight := none })
    ((after (.start true true []) s).chan .a).state = .empty ∧
    ((after (.start true true []) s).port .s3).queue.map (·.kind) = [.journalLow, .scaleState, .modeChange] := by
  decide +kernel

/-- A VOID entry, COMPLETE, its body 0xFF throughout, is the only entry of a part that starts cold. -/
def oneEntry : State :=
  { State.reset with
    journal := memProgram (memProgram [] 0 (0x3F#8 :: headerBytes 7 .void 1000) [] []) 252 (be 4 (236 * 0xFF)) [] [] }

theorem test_cold_start_with_an_entry :
    let t := after (.start false false []) oneEntry
    t.counter = 8 ∧ t.oldest = some 7 ∧ t.newest = some 7 ∧ (t.sector 0).state = .filling ∧ t.tally.voids = 1 ∧
    t.tally.openTime = 1000 ∧ t.tally.incomplete = true ∧
    t.jobs.take 2 = [some ⟨.voidSlip, some 7, none, .queued, 0, false, 0, 0⟩, none] := by decide +kernel

/-- A VOID entry numbered 600, and in a sector of its own a COMPLETE entry whose header check fails: it has the first-receipt
setting's number, 1, by R141. -/
def farApart : State :=
  { State.reset with
    journal := memProgram (memProgram (memProgram (memProgram [] 0 (0x3F#8 :: headerBytes 600 .void 1000) [] []) 252
      (be 4 (236 * 0xFF)) [] []) 8192 ((0x3F#8 :: headerBytes 9 .void 1000).take 10 ++ [0#8, 0#8]) [] []) (8192 + 252)
      (be 4 (236 * 0xFF)) [] [] }

theorem test_backlog_of_distant_numbers :
    let t := after (.start false false []) farApart
    t.jobs.take 3 = [some ⟨.voidSlip, some 1, none, .queued, 0, false, 0, 0⟩,
      some ⟨.voidSlip, some 600, none, .queued, 0, false, 1, 0⟩, none] ∧ t.backlog = none := by decide +kernel

/-! ## Commands: what each answers on the yard -/

theorem test_open_ticket : resultOf .s1 (.openTicket .s1 1#8 id1) yard = some ⟨.ok, [0#8, 5#8]⟩ ∧
    codeOf .s3 (.openTicket .s3 1#8 id1) yard = some .role ∧ codeOf .s1 (.openTicket .s1 3#8 id1) yard = some .range := by
  decide +kernel
theorem test_ticket_changes : codeOf .s1 (.setVehicle .s1 2#16 []) yard = some .ok ∧
    ((after (.setVehicle .s1 2#16 []) yard).ticket 2).bind (·.vehicle) = none ∧
    codeOf .s1 (.setSeller .s1 7#16 (ascii "S")) yard = some .noTicket ∧
    resultOf .s1 (.dockLine .s1 2#16 1#8 200#32) yard = some ⟨.ok, be 4 19800⟩ ∧
    codeOf .s1 (.dockLine .s1 2#16 1#8 201#32) yard = some .range := by decide +kernel
theorem test_stored_tare_close : codeOf .s1 (.closeOnStoredTare .s1 2#16 1#8) yard = some .ok ∧
    ((after (.closeOnStoredTare .s1 2#16 1#8) yard).ticket 2).map (fun t => (t.state, t.lines.map (·.net))) =
      some (.payable, [48000]) ∧
    codeOf .s1 (.closeOnStoredTare .s1 2#16 2#8) yard = some .sellerIdRequired := by decide +kernel
theorem test_weigh : codeOf .s1 (.weigh .s1 1#8 1#8 1#16 0#8) yard = some .armed ∧
    ((after (.weigh .s1 1#8 1#8 1#16 0#8) yard).ticket 1).bind (·.capture) = some .a ∧
    codeOf .s1 (.weigh .s1 2#8 1#8 1#16 0#8) yard = some .scaleState ∧
    codeOf .s1 (.weigh .s1 1#8 4#8 1#16 0#8) yard = some .range := by decide +kernel
theorem test_weigh_store_tare : codeOf .s1 (.weighStoreTare .s1 1#8 id1) yard = some .armed ∧
    codeOf .s1 (.weighStoreTare .s1 1#8 []) yard = some .range := by decide +kernel
theorem test_cancel_weigh :
    codeOf .s1 (.cancelWeigh .s1 1#8) yard = some .state ∧
    resultOf .s0 (.cancelWeigh .s0 1#8) (after (.weigh .s1 1#8 1#8 1#16 0#8) yard) = some ⟨.ok, [1#8, 0#8, 1#8]⟩ ∧
    ((after (.cancelWeigh .s0 1#8) (after (.weigh .s1 1#8 1#8 1#16 0#8) yard)).ticket 1).bind (·.capture) = none := by
  decide +kernel

/-- A digitizer frame of a bridge whose four counts are equal, with its check byte. -/
def bridgeFrame (sequence count : Nat) : List RxByte :=
  let body := be 1 sequence ++ be 1 4 ++ be 3 count ++ be 3 count ++ be 3 count ++ be 3 count ++ [0#8]
  (0x5A#8 :: body ++ be 1 (byteSum 1 body)).map (fun b => ⟨b, false⟩)

theorem test_good_frame : ((after (.digitizerFrame .a (bridgeFrame 3 10000)) yard).chan .a).weight = some 40000 ∧
    ((after (.digitizerFrame .a (bridgeFrame 3 10000)) yard).chan .a).state = .moving ∧
    ((after (.digitizerFrame .a (bridgeFrame 3 10000)) yard).chan .a).seqRef = some 4 := by decide +kernel
theorem test_uncalibrated_frame : ((after (.digitizerFrame .b (bridgeFrame 3 10000)) yard).chan .b).weight = none := by
  decide +kernel
/-- A frame bad on a later test keeps the count of frames, a failed check byte does not (R3); 15 is followed by 0. -/
theorem test_next_reference :
    let reference (f : List RxByte) := ((after (.digitizerFrame .p f) yard).chan .p).seqRef
    reference (bridgeFrame 15 10000) = some 0 ∧ reference ((bridgeFrame 3 10000).dropLast ++ [⟨0#8, false⟩]) = none := by
  decide +kernel
theorem test_silence : ((after (.silenceEvent .a) yard).chan .a).faultCount = 8 ∧
    ((after (.silenceEvent .a) (yard.updChan .a (fun c => { c with faultCount := 120 }))).chan .a).state = .fault := by
  decide +kernel
theorem test_zero_and_restore : codeOf .s1 (.zeroScale .s1 1#8) yard = some .ok ∧ codeOf .s1 (.restoreScale .s1 1#8) yard = some .ok ∧
    codeOf .s1 (.zeroScale .s1 2#8) yard = some .scaleState := by decide +kernel
/-- The empty limit of A is 10 divisions of 200 units (R1, R16). -/
theorem test_zero_at_the_empty_limit :
    let heavy (w : Int) := yard.updChan .a (fun c => { c with weight := some w })
    codeOf .s1 (.zeroScale .s1 1#8) (heavy 2000) = some .ok ∧
      codeOf .s1 (.zeroScale .s1 1#8) (heavy 2001) = some .scaleState := by decide +kernel
theorem test_read_scale : ((resultOf .s3 (.readScale .s3 1#8) yard).map (fun r => r.data.length)) = some 38 := by decide +kernel
theorem test_calibrate :
    let s := after (.calibrate .s0 1#8 0#32 65536#24 10000#16 10000#16 10000#16 10000#16) (yardIn .config)
    (s.port .s0).state = .busy ∧ s.engine.current = some (.calRecord .a) ∧
      resultOf .s0 (.calibrationRecordWritten .a .good) s = some ⟨.ok, [2#8]⟩ ∧
      codeOf .s0 (.calibrationRecordWritten .a ⟨[], [1#8]⟩) s = some .ok ∧
      codeOf .s0 (.calibrationRecordWritten .a ⟨[], [2#8]⟩) s = some .media := by decide +kernel
/-- A slot that a failed write left blank and a used one after it. -/
def gapArea : CalArea := ⟨memProgram [] 32 [0#8] [] [], 0xFF#8⟩

theorem test_next_blank_slot : calEnd gapArea = 2 ∧ calBlank gapArea 2 = 2 ∧ calBlank gapArea 1 = 2 ∧
    calBlank gapArea 64 = 0 ∧ calEnd .blank = 0 := by decide +kernel
theorem test_lock_calibration :
    let s := after (.lockCalibration .s0 1#8) (yardIn .config)
    s.engine.current = some (.calLock .a) ∧ codeOf .s0 (.calibrationLockWritten .a .good) s = some .ok ∧
      codeOf .s0 (.calibrationLockWritten .a ⟨[0xFF#8], []⟩) s = some .media := by decide +kernel
theorem test_scale_settings :
    ((after (.scaleSettings .s0 1#8 0#8 3#8 10#8 1#8 0#8) (yardIn .config)).chan .a).state = .disabled := by decide +kernel
theorem test_reads : codeOf .s3 (.readTicket .s3 2#16 1#8) yard = some .ok ∧
    (resultOf .s3 (.readTicket .s3 2#16 0#8) yard).map (fun r => r.data.length) = some 66 ∧ codeOf .s3 (.listTickets .s3 0xE0#8) yard = some .range ∧
    (resultOf .s3 (.listTickets .s3 2#8) yard).map (·.data) = some [1#8, 0#8, 2#8, 1#8, 7#8] ∧
    ((resultOf .s3 (.readJournalState .s3) yard).map (fun r => r.data.length)) = some 246 := by decide +kernel
theorem test_claims : resultOf .s2 (.claimTicket .s2 3#16) yard = some ⟨.ok, [0#8, 180#8]⟩ ∧
    codeOf .s1 (.setSeller .s1 3#16 (ascii "S")) (after (.claimTicket .s2 3#16) yard) = some .claimed ∧
    ((after (.claimExpiry 3#16) (after (.claimTicket .s2 3#16) yard)).ticket 3).bind (·.claim) = some ⟨.s2, 180⟩ ∧
    ((after (.claimExpiry 3#16) (yard.updTicket 3 (fun t => { t with claim := some ⟨.s2, 0⟩ }))).ticket 3).bind (·.claim) =
      none := by decide +kernel
theorem test_holds : ((after (.endHold .s0 4#16) yard).ticket 4).map (·.state) = some .payable ∧
    (after (.extendHold .s0 4#16 6000#32) yard).holds = [⟨4, 6000⟩] ∧
    ((after (.setClock .s0 5000#32) yard).ticket 4).map (·.state) = some .payable ∧
    (after .clockAdvance { yard with clock := 4999 }).holds = [] := by decide +kernel

/-! ## A settlement, from its request to its print -/

/-- The yard when SETTLE TICKET on ticket 3 has been taken. -/
def settling : State := after (.settleTicket .s2 3#16) quiet

/-- When the header has been programmed, and the body, and the mark. -/
def headed : State := after (.commitHeader .good .good .good) settling

/-- See `headed`. -/
def bodied : State := after (.commitBody .good .good .good) headed

/-- See `headed`. -/
def committed : State := after (.commitComplete .good .good .good) bodied

/-- When the receipt has been fetched and is being sent. -/
def sending : State := after (.printFetch []) committed

/-- When the end-of-job byte has left. -/
def awaiting : State := after .endOfJobSent sending

theorem test_settle_accepted : (settling.port .s2).state = .busy ∧ (settling.ticket 3).map (·.state) = some .committing ∧
    settling.head.map (fun h => (h.number, h.step, h.sector, h.slot)) = some (3, .header, 0, 2) ∧
    settling.engine.current = some .commitStep := by decide +kernel
theorem test_receipt_committed :
    (headed.head.map (·.step) = some .body ∧ memRead headed.journal 512 = 0x7F#8) ∧
    (bodied.head.map (·.step) = some .complete ∧ headerHolds (bodied.entryBytes 0 2) = true ∧
      bodyHolds (bodied.entryBytes 0 2) = true) ∧
    (committed.ticket 3 = none ∧ (committed.port .s2).result = some ⟨.ok, be 4 3 ++ be 4 97220⟩ ∧
      committed.tally.receipts = 1 ∧ committed.counter = 4 ∧ memRead committed.journal 512 = 0x3F#8) ∧
    (committed.pe.activity = .fetching ∧ committed.engine.current = some (.fetch 3 true)) := by decide +kernel
theorem test_receipt_printed :
    sending.pe.activity = .sending ∧ sending.pe.tx.length % 33 = 1 ∧ awaiting.pe.responseTimer = some 5 ∧
    (((after .err sending).job 0).map (fun j => (j.state, j.attempts, j.wait)) = some (.retryWait, 1, 2) ∧
      (after .responseTimeout awaiting).pe.linkErrors = 16) ∧
    (after .paperOut sending).job 0 = ((sending.job 0).map (fun j => { j with state := .queued, restarted := true })) ∧
    (after .ack awaiting).pendingMarks = [⟨3, 1000⟩] ∧ (after .ack awaiting).engine.current = some (.printedMark false) ∧
    ((after (.printedMark .good .good) (after .ack awaiting)).slotMark 0 2) = .printed := by decide +kernel
theorem test_torn : (after (.commitHeader ⟨[0x80#8], []⟩ .good .good) settling).head.map (fun h => (h.attempt, h.number, h.slot)) =
      some (2, 4, 3) ∧
    memRead (after (.commitHeader ⟨[0x80#8], []⟩ .good .good) settling).journal 512 = 0x6F#8 ∧
    codeOf .s2 (.commitHeader ⟨[0x80#8], []⟩ .good .good) (after (.commitHeader ⟨[0x80#8], []⟩ .good .good) settling) =
      some .media := by decide +kernel
/-- Ticket 3's commit with its entry in the last slot of sector 0, its body in programming. -/
def lastSlot : State :=
  { settling with
    head := settling.head.map (fun h => { h with step := .body, slot := 15 })
    sectors := settling.sectors.set 0 { settling.sector 0 with used := 15 } }

theorem test_torn_in_the_last_slot :
    let t := after (.commitBody ⟨[0x80#8], []⟩ .good .good) lastSlot
    t.head.map (fun h => (h.attempt, h.sector, h.slot, h.step)) = some (2, 1, 0, .header) ∧
    (t.sector 0).state = .full ∧ (t.sector 1).state = .filling ∧ t.fault .journalFull = none := by decide +kernel
theorem test_void : codeOf .s1 (.voidTicket .s1 1#16 1#8) yard = some .ok ∧
    ((after (.voidTicket .s1 1#16 1#8) yard).ticket 1) = none ∧
    ((after (.voidTicket .s1 2#16 1#8) yard).ticket 2).map (·.state) = some .committing ∧
    codeOf .s1 (.voidTicket .s1 3#16 1#8) yard = some .role := by decide +kernel
theorem test_close_shift : (after (.closeShift .s0) yard).commitQueue = [⟨.shift, none, .s0⟩] ∧
    (after (.closeShift .s0) yard).freeSlots = 12 := by decide +kernel

/-! ## The journal's upkeep -/

/-- The yard with its first two entries PRINTED. -/
def printedYard : State := { quiet with sectors := yard.sectors.set 0 ⟨.filling, some 1, 2, .printed :: .printed ::
  List.replicate 14 .blank, List.replicate 16 1#8⟩ }

theorem test_audit : codeOf .s0 (.auditThrough .s0 2#32) yard = some .auditUnprinted ∧
    resultOf .s0 (.auditThrough .s0 2#32) printedYard = some ⟨.ok, be 4 0 ++ be 2 2⟩ ∧
    (after (.auditMark .good) (after (.auditThrough .s0 2#32) printedYard)).pass = some ⟨2, 2, .s0⟩ ∧
    (after (.auditMark .good) (after (.auditMark .good) (after (.auditThrough .s0 2#32) printedYard))).auditMark = 2 := by
  decide +kernel

theorem test_erase_ahead : State.reset.candidate = some 0 ∧
    (after .eraseAheadStart State.reset).engine.current = some .blankCheck ∧
    (after (.blankCheck []) (after .eraseAheadStart State.reset)).aheadRun = [0] ∧
    (after (.blankCheck [(7, 0#8)]) (after .eraseAheadStart State.reset)).engine.current = some .erase ∧
    (after (.eraseDone []) (after (.blankCheck [(7, 0#8)]) (after .eraseAheadStart State.reset))).aheadRun = [0] := by
  decide +kernel

/-- A second erase that fails. -/
def failedErase : State :=
  after (.eraseDone [(7, 0#8)]) (after (.eraseDone [(7, 0#8)]) (after (.blankCheck [(7, 0#8)]) (after .eraseAheadStart State.reset)))

theorem test_erase_fails : (failedErase.sector 0).state = .bad ∧ failedErase.candidate = some 1 ∧
    (failedErase.fault .journalMedia).map (·.detail) = some (.sector 0) := by decide +kernel

theorem test_journal_stream : (after (.readJournal .s3 0#32) yard).engine.current = some (.stream .s3 true) ∧
    ((after (.journalStreamRead .s3 []) (after (.readJournal .s3 2#32) yard)).port .s3).dataOut.length = 514 ∧
    ((after (.readJournal .s3 9#32) yard).port .s3).dataOut.take 2 = [0xB5#8, 1#8] ∧
    ((after (.streamEnd .s3) (after (.readJournal .s3 2#32) yard)).port .s3).stream = none := by decide +kernel

/-- A stream of two entries while an erase runs: each read suspends the erase once, and it resumes between the blocks. -/
theorem test_stream_suspends_an_erase :
    let erasing : State := { quiet with
      engine := { quiet.engine with current := some .erase, erase := some ⟨5, false, false, 0, false⟩ } }
    let read := after (.journalStreamRead .s3 [])
    let opened := after (.readJournal .s3 1#32) erasing
    let between := read opened
    let resumed := after .eraseResume between
    opened.engine = { quiet.engine with current := some (.stream .s3 true), erase := some ⟨5, false, true, 1, false⟩ } ∧
    between.engine = { quiet.engine with erase := some ⟨5, false, true, 1, false⟩ } ∧ (between.port .s3).stream = some 2 ∧
    resumed.engine.current = some .erase ∧ (read resumed).engine.erase = some ⟨5, false, true, 2, false⟩ ∧
    ((read resumed).port .s3).stream = none ∧ ((read resumed).port .s3).dataOut.length = 771 ∧
    (read { resumed with engine := { resumed.engine with erase := some ⟨5, false, false, 16, false⟩ } }).engine =
      { quiet.engine with current := some .erase, reads := [.stream .s3], erase := some ⟨5, false, false, 16, false⟩ } := by
  decide +kernel

/-- The quiet yard with one sector of its ahead run, sector 2 the candidate, and a stream of S3 at an entry. -/
def streaming (n : Nat) (two : Sector) : State :=
  { quiet with sectors := yard.sectors.set 2 two }.updPort .s3 (fun c => { c with stream := some n })

/-- An audited sector of entries 3 to 5. -/
def auditedSector : Sector := ⟨.full, some 3, 3, List.replicate 3 .audited ++ List.replicate 13 .blank, List.replicate 16 1#8⟩

theorem test_erase_start_beside_a_stream :
    (after .eraseAheadStart (streaming 2 Sector.unchecked)).engine.current = some .blankCheck ∧
    (after .eraseAheadStart (streaming 2 auditedSector)).engine.current = some .erase ∧
    (streaming 4 auditedSector).streamIn 2 = true ∧ (streaming 9 auditedSector).streamIn 2 = false ∧
    after .eraseAheadStart (streaming 4 auditedSector) = streaming 4 auditedSector := by decide +kernel

/-! ## The print queue -/

theorem test_printer_status : (after .coverOpen yard).pe.cover = .opened ∧ (after .ready yard).pe.activity = .fetching ∧
    (after .paperLow yard).pe.paper = .low ∧ (after .statusQueryTimeout yard).pe.pauseStart = false := by decide +kernel
theorem test_status_bytes :
    ([0x06#8, 0x15#8, 0x11#8, 0x12#8, 0x13#8, 0x14#8, 0x07#8].map (decodeStatusByte · false)) =
      [some .ack, some .err, some .paperLow, some .paperOut, some .coverOpen, some .ready, none] ∧
    decodeStatusByte 0x06#8 true = none := by decide +kernel
theorem test_retry_wait : ((after (.retryWait 1) yard).job 1).map (·.state) = some .queued := by decide +kernel
theorem test_print_queue : resultOf .s2 (.printReceipt .s2 2#32) yard = some ⟨.ok, [2#8, 1#8]⟩ ∧
    resultOf .s2 (.printReceipt .s2 1#32) yard = some ⟨.ok, [2#8, 0#8]⟩ ∧
    codeOf .s2 (.cancelPrint .s2 0#8 1#8 2#32) yard = some .ok ∧ codeOf .s2 (.cancelPrint .s2 1#8 1#8 2#32) yard = some .role ∧
    codeOf .s2 (.restorePrinter .s2) yard = some .ok ∧ codeOf .s3 (.listPrintQueue .s3) yard = some .ok ∧
    codeOf .s3 (.readPrinter .s3) yard = some .ok := by decide +kernel

/-! ## Catalogue, ports, faults and modes -/

theorem test_grades : resultOf .s0 (.setPrice .s0 1#8 8000#24) yard = some ⟨.ok, be 3 7853 ++ be 3 8000⟩ ∧
    codeOf .s0 (.setPrice .s0 3#8 8000#24) yard = some .grade ∧
    codeOf .s0 (.defineGrade .s0 3#8 (ascii "LEAD    ") 1#8 0#8 100#24) (yardIn .config) = some .ok ∧
    (resultOf .s3 (.readGrade .s3 64#8) yard).map (fun r => r.data.length) = some 20 := by decide +kernel
theorem test_tares : codeOf .s0 (.deleteTare .s0 id1) yard = some .ok ∧ codeOf .s3 (.readTare .s3 (.id 1#8 id1)) yard = some .ok ∧
    resultOf .s3 (.readTare .s3 (.slot 31#8)) yard = some ⟨.ok, [31#8, 0xFF#8]⟩ ∧
    codeOf .s3 (.readTally .s3 1#8 1#8) yard = some .state := by decide +kernel
theorem test_ports : (after (.portDisable .s0 1#8) yard).port .s1 = { yard.port .s1 with enabled := false } ∧
    codeOf .s1 (.readClock .s1) (after (.portDisable .s0 1#8) yard) = some .disabled ∧
    codeOf .s0 (.portDisable .s0 0#8) yard = some .self ∧ codeOf .s0 (.portEnable .s0 4#8) yard = some .range ∧
    codeOf .s3 (.setFilter .s3 0#8 0#8) yard = some .ok ∧ codeOf .s3 (.malformedFrame .s3) yard = some .format ∧
    codeOf .s0 (.setRole .s0 0#8 1#8 7#8 0#8 0#8) (yardIn .config) = some .self := by decide +kernel
theorem test_immediate_reads :
    ((after (.readStatus .s0 7) yard).port .s0).dataOut = [1#8, 0x30#8, 3#8, 0#8, 5#8, 0#8, 4#8] ∧
    ((after (.readResult .s0 3) yard).port .s0).dataOut = [0xFF#8, 0#8, 0#8] ∧
    ((after (.readNotice .s0 30) yard).port .s0).queue.length = 4 ∧
    ((after (.readNotice .s0 29) yard).port .s0).queue.length = 5 := by decide +kernel
theorem test_cut_short_read : decodeFrame .s2 [0x83#8, 0#8, 0#8] false = some (.readStatus .s2 0) ∧
    ((after (.readStatus .s2 0) yard).port .s2).dataOut = [] ∧
    (List.range 3).map (replyByte ((after (.readStatus .s0 1) yard).port .s0)) = [1#8, 0#8, 0#8] := by decide +kernel
theorem test_faults : ((resultOf .s3 (.readFault .s3) State.reset).map (fun r => r.data.length)) = some 134 ∧
    resultOf .s0 (.clearFault .s0 0xFFFF#16 1#8) State.reset = some ⟨.ok, be 2 0x680⟩ ∧
    (after (.clearFault .s0 0xFFFF#16 1#8) State.reset).faultBits = 0 := by decide +kernel
theorem test_modes : codeOf .s0 (.enterConfig .s0) yard = some .ok ∧ (after (.enterConfig .s0) yard).mode = .config ∧
    (after (.enterConfig .s0) settling).mode = .configPending ∧ (after (.leaveConfig .s0) (yardIn .config)).mode = .storing ∧
    codeOf .s0 (.setHeader .s0 4#8 (List.replicate 32 0x41#8)) (yardIn .config) = some .range ∧
    resultOf .s0 (.setFirstReceipt .s0 9#32 30#16 1#8 0#16 0#16) (yardIn .config) = some ⟨.ok, be 4 3⟩ := by decide +kernel

/-- A store write up to its valid mark. -/
def marking : State := after (.storeImageProgram true) (after (.storeErase true) (after (.storeSettings .s0) yard))

theorem test_store_write : marking.engine.current = some .storeMark ∧
    (after (.storeValidMark true) marking).store = ⟨some (copyPrices yard.settings), true⟩ ∧
    (after (.storeValidMark false) marking).engine.current = some .storeErase := by decide +kernel
/-- A PRINTED mark that waits when the erase of a store write ends is taken before the image, and the image after it. -/
theorem test_mark_between_store_operations :
    let s := after (.storeErase true) { after (.storeSettings .s0) quiet with pendingMarks := [⟨1, 900⟩] }
    (s.engine.current, s.engine.writes) = (some (.printedMark false), [.storeImage]) ∧
    (after (.printedMark .good .good) s).engine.current = some .storeImage ∧
    (after (.storeErase true) (after (.storeSettings .s0) quiet)).engine.current = some .storeImage := by decide +kernel
theorem test_reset_n_cut : memRead (after (.resetNLow ⟨[0x80#8], []⟩) settling).journal 512 = 0xFF#8 ∧
    (after (.resetNLow .good) settling).engine.current = none ∧ (after (.resetNLow .good) settling).powered = false := by
  decide +kernel
theorem test_capture_completes :
    let s := { (after (.weigh .s1 1#8 1#8 1#16 0#8) yard) with
      channels := yard.channels.set .a { (after (.weigh .s1 1#8 1#8 1#16 0#8) yard).chan .a with
        reference := some 40000, motion := 9 } }
    ((after (.digitizerFrame .a (bridgeFrame 0 10000)) s).ticket 1).map (fun t => (t.state, t.weighings.map (·.weight))) =
      some (.onYard, [40000]) := by decide +kernel
theorem test_capture_timeout :
    ((after (.captureTimeout .a) (after (.weigh .s1 1#8 1#8 1#16 0#8) yard)).chan .a).capture = none := by decide +kernel
theorem test_idle_second :
    (match step { yard with msPhase := 999 } with
      | .next t => t.pending
      | _ => []) = [.clockAdvance] := by decide +kernel

/-! ## The premises of the statements: for each clause, a state and operands that meet them together -/

theorem test_premises_StepRunsFront : ({ yard with pending := [.ready] } : State).pending = .ready :: [] := rfl

theorem test_premises_IdleStepIsAMillisecond :
    let s := ({ yard with msPhase := 999 }).updChan .a (fun c => { c with silence := 249 })
    s.pending = [] ∧ s.msPhase + 1 = 1000 ∧ s.powered = true ∧ (s.chan .a).state ≠ .disabled ∧ 249 ≤ (s.chan .a).silence ∧
    s.job 1 = some ⟨.duplicate, some 2, some .s0, .retryWait, 1, false, 1, 2⟩ ∧ s.pe.queryTimer.isSome = true := by
  decide +kernel

theorem test_premises_ResetIsFirstColdStart :
    let s := { yard.updChan .b (fun c => { c with state := .fault }) with supply := false }
    s.powered = false ∧ warmStart false true s = false ∧ warmStart true false { s with lostSupply := true } = false ∧
    s.journal = [] ∧ s.cal = ⟨CalArea.blank, CalArea.blank, CalArea.blank⟩ ∧ s.store.valid = none ∧ (s.chan .b).state = .fault ∧
    s.tickets ≠ [] := by decide +kernel

theorem test_premises_CommandsCompleteAndLeaveTheQueue : ∃ t, exec .ready yard = .next t := ⟨_, rfl⟩

theorem test_premises_StepKeepsSound : yard.Sound ∧ ∃ t, step yard = .next t := by
  refine ⟨⟨⟨by decide, by decide, by decide, by decide⟩, ⟨⟨by decide, by decide, by decide⟩, ?_, ?_, by decide, by decide,
    ⟨by decide, by decide⟩, by decide, by decide⟩, ⟨by decide, by decide, by decide, by decide⟩, by decide⟩, _, rfl⟩
  · intro t h
    cases h
  · intro w h
    cases h

theorem test_premises_PowerLost :
    (busyWith .storeErase).powered = true ∧ yard.engine.current = none ∧ ({ yard with supply := false }).powered = false ∧
    Instr.ready ≠ .clockAdvance ∧ (∀ cut, Instr.ready ≠ .mainSupplyLoss cut) ∧ (∀ cut, Instr.ready ≠ .resetNLow cut) ∧
    ∀ r e d, Instr.ready ≠ .start r e d := by
  refine ⟨by decide, by decide, by decide, by decide, ?_, ?_, ?_⟩ <;> intros <;> intro h <;> cases h

/-- The yard at each array operation that a loss of power may cut short. -/
theorem test_premises_PowerLost_operations :
    let printed := { busyWith (.printedMark true) with pendingMarks := [⟨1, 900⟩] }
    let audit := { busyWith (.auditMark false) with pass := some ⟨2, 1, .s0⟩ }
    let erase : State := { busyWith .erase with
      engine := { yard.engine with current := some .erase, erase := some ⟨31, false, false, 0, false⟩ } }
    let cal := { busyWith (.calRecord .p) with calJobs := yard.calJobs.set .p (some (.record .s0 unitCal)) }
    (settling.powered = true ∧ settling.engine.current = some .commitStep ∧ settling.head.isSome = true ∧
      settling.journal.wf = true) ∧
    (printed.powered = true ∧ printed.engine.current = some (.printedMark true) ∧ printed.pendingMarks = [⟨1, 900⟩] ∧
      printed.lookup 1 = some (0, 0)) ∧
    (audit.powered = true ∧ audit.engine.current = some (.auditMark false) ∧ audit.pass = some ⟨2, 1, .s0⟩ ∧
      audit.unaudited 1 = some (0, 0)) ∧
    (erase.powered = true ∧ erase.engine.current = some .erase ∧ erase.engine.erase = some ⟨31, false, false, 0, false⟩) ∧
    (cal.powered = true ∧ cal.engine.current = some (.calRecord .p) ∧ cal.calJobs.get .p = some (.record .s0 unitCal) ∧
      (cal.cal.get .p).slots.wf = true) ∧
    (∀ op ∈ [EngineOp.calLock .b, .storeErase, .storeImage, .storeMark],
      (busyWith op).powered = true ∧ (busyWith op).engine.current = some op) := by decide +kernel

/-- What a loss of power leaves of three operations. -/
theorem test_power_lost :
    let cut : Cells := ⟨[0xE0#8], []⟩
    let audit := { busyWith (.auditMark false) with pass := some ⟨2, 1, .s0⟩, journal := [(0, 0x1F#8)] }
    let erase : State := { busyWith .erase with
      journal := [(4096, 0x00#8), (4097, 0x00#8)]
      engine := { yard.engine with current := some .erase, erase := some ⟨1, false, false, 0, false⟩ } }
    (after (.mainSupplyLoss .good) audit).journal = [(0, 0x17#8)] ∧
    (after (.mainSupplyLoss cut) erase).journal = [(4096, 0xE0#8), (4097, 0x00#8)] ∧
    (after (.resetNLow .good) (busyWith .storeImage)).store = ⟨none, false⟩ := by decide +kernel

theorem test_premises_PowerLost_reads : (busyWith .blankCheck).powered = true ∧
    (∀ again, (busyWith .blankCheck).engine.current ≠ some (.printedMark again)) ∧
    (∀ again, (busyWith .blankCheck).engine.current ≠ some (.auditMark again)) ∧
    (busyWith .blankCheck).engine.current ≠ some .commitStep ∧ (busyWith .blankCheck).engine.current ≠ some .erase ∧
    (∀ sc, (busyWith .blankCheck).engine.current ≠ some (.calRecord sc)) ∧
    (∀ sc, (busyWith .blankCheck).engine.current ≠ some (.calLock sc)) ∧
    (∀ x ∈ [EngineOp.storeErase, .storeImage, .storeMark], (busyWith .blankCheck).engine.current ≠ some x) := by
  simp [busyWith]
  decide +kernel

theorem test_premises_ArrayOperations : Memory.wf [(5, 0x3F#8)] = true ∧ (4 : Nat) ≠ 5 ∧ (4 < 5 ∨ 5 + 2 ≤ 4) ∧
    (5 < 5 ∨ 5 + [0x1F#8, 0#8].length ≤ 7) ∧ 1 < [0x1F#8, 0#8].length ∧ (5 ≤ 6 ∧ 6 < 5 + 2) := by decide

/-- A port whose request is in progress. -/
def busyPort : State := yard.updPort .s1 (fun c => { c with state := .busy })

/-- A port with a result to read. -/
def donePort : State := yard.updPort .s1 (fun c => { c with state := .done, result := some ⟨.ok, [7#8]⟩ })

theorem test_premises_BusyPortDiscardsRequests : busyPort.powered = true ∧ (busyPort.port .s1).state = .busy ∧
    requestPort (.readClock .s1) = some .s1 ∧ (donePort.port .s1).state = .done ∧
    (resultReply (donePort.port .s1)).length ≤ 4 := by decide +kernel

theorem test_premises_DisabledAndMalformed :
    let s := yard.updPort .s1 (fun c => { c with enabled := false })
    requestPort (.readClock .s1) = some .s1 ∧ s.powered = true ∧ (s.port .s1).state ≠ .busy ∧ (s.port .s1).enabled = false := by
  decide +kernel

theorem test_premises_RequestFramesRoundTrip :
    requestPort (.openTicket .s1 0xFF#8 (List.replicate 255 0#8)) = some .s1 ∧
    (Instr.openTicket .s1 0xFF#8 (List.replicate 255 0#8)).wf = true ∧
    decodeFrame .s1 ((encodeFrame (.openTicket .s1 1#8 id1)).elim [] Prod.snd) false = some (.openTicket .s1 1#8 id1) := by
  decide +kernel

theorem test_premises_ImmediateReadsAnswer : donePort.powered = true ∧ (donePort.port .s1).state = .done ∧
    (donePort.port .s1).result = some ⟨.ok, [7#8]⟩ ∧ (yard.port .s1).state ≠ .done ∧ (yard.port .s1).queue = resetQueue ∧
    (({ yard with ports := ⟨{ PortCtx.reset with queue := [] }, .reset, .reset, .reset⟩ }).port .s0).queue = [] := by
  decide +kernel

/-- A notice with the longest detail, eight flags, and the largest and smallest numbers of a byte. -/
theorem test_premises_ImmediateReadsAnswer_bytes :
    let n : Notice := ⟨.weighFailed, some 2, List.replicate 19 7#8, 258⟩
    let flags := [true, false, false, false, false, false, false, true]
    n.detail.length ≤ 19 ∧ noticeBytes n = [2#8, 0#8, 0#8, 0#8, 2#8] ++ List.replicate 19 7#8 ++ [0#8, 0#8, 1#8, 2#8] ∧
    noticeBytes { n with subject := none, detail := [] } =
      2#8 :: List.replicate 4 0xFF#8 ++ List.replicate 19 0#8 ++ [0#8, 0#8, 1#8, 2#8] ∧
    flags.length ≤ 8 ∧ flagByte flags = 0x81#8 ∧ (0 < 3 ∧ clockOut [1#8] 3 = [1#8, 0#8, 0#8]) ∧
    (-(256 ^ 1 : Nat) ≤ 2 * (-128 : Int) ∧ 2 * (-128 : Int) < (256 ^ 1 : Nat) ∧ beInt 1 (-128) = [0x80#8]) ∧
    (-(256 ^ 1 : Nat) ≤ 2 * (127 : Int) ∧ 2 * (127 : Int) < (256 ^ 1 : Nat) ∧ beInt 1 127 = [0x7F#8]) := by decide +kernel

theorem test_premises_BroadcastEntersQueues :
    let scale : Notice := ⟨.scaleState, some 1, [], 0⟩
    let printer : Notice := ⟨.printerState, none, [], 0⟩
    (0#8).getLsbD 2 = false ∧ (0b100#8).getLsbD 2 = true ∧ (0b001#3).getLsbD (1 - 1) = true ∧ (0b110#3).getLsbD (1 - 1) = false ∧
    Filter.all.kinds.getLsbD 3 = true ∧ (printer.kind ≠ .scaleState) ∧
    admits ⟨0#8, 7#3⟩ scale = false ∧ admits ⟨4#8, 6#3⟩ scale = false ∧ admits Filter.all scale = true ∧
    admits Filter.all printer = true ∧
    (∃ m ∈ [scale], m.kind = .scaleState ∧ m.subject = scale.subject) ∧ (∃ m ∈ [printer], m.kind = .printerState) ∧
    (yard.port .s0).queue.length < 8 ∧ 8 ≤ (List.replicate 8 scale).length ∧ yard.attention .s0 = true ∧
    ({ yard with supply := false }).attention .s0 = false ∧
    (yard.updPort .s0 (fun c => { c with queue := [] })).attention .s0 = false := by decide +kernel

theorem test_premises_PortAndHeaderSettings : Taking .s0 (yardIn .config) ∧ (yardIn .config).role .s0 = .office ∧
    codeOf .s0 (.setRole .s0 1#8 1#8 7#8 0#8 0#8) (yardIn .config) = some .ok ∧
    codeOf .s0 (.setHeader .s0 3#8 (List.replicate 32 0x7E#8)) (yardIn .config) = some .ok := by decide +kernel

theorem test_premises_PortEnableAnswers : Taking .s0 yard ∧ codeOf .s0 (.portEnable .s0 3#8) yard = some .ok := by decide +kernel

theorem test_premises_PortDisableAnswers : Taking .s1 yard ∧ yard.role .s1 ≠ .office ∧ Taking .s0 yard ∧ yard.role .s0 = .office ∧
    Taking .s0 (yardIn .starting) ∧ (yardIn .starting).mode = .starting ∧ yard.mode ≠ .starting ∧ portOf 4#8 = none ∧
    portOf 0#8 = some .s0 ∧ portOf 2#8 = some .s2 ∧ Port.s2 ≠ .s0 ∧ (yard.port .s2).enabled = true ∧
    ((yard.updPort .s2 (fun c => { c with enabled := false })).port .s2).enabled = false ∧
    yard.job 0 = some ⟨.duplicate, some 2, some .s2, .queued, 0, false, 0, 0⟩ ∧
    yard.job 1 = some ⟨.duplicate, some 2, some .s0, .retryWait, 1, false, 1, 2⟩ := by decide +kernel

/-- A capture armed on A for ticket 1. -/
def armed : State := after (.weigh .s1 1#8 1#8 1#16 0#8) (yard.updPort .s1 (fun c => { c with state := .idle }))

/-- A second capture of the same port, one that stores a tare, on B. -/
def armedTwice : State :=
  armed.updChan .b (fun c => { c with capture := some ⟨.storeTare, none, some id1, none, .s1, 1000, 45, false⟩ })

theorem test_premises_PortDisableAnswers_captures :
    Taking .s0 armedTwice ∧ armedTwice.role .s0 = .office ∧ armedTwice.mode ≠ .starting ∧ portOf 1#8 = some .s1 ∧
    (armedTwice.port .s1).enabled = true ∧
    ((armedTwice.chan .a).capture.map (fun k => (k.port, k.ticket))) = some (.s1, some 1) ∧
    ((armedTwice.chan .b).capture.map (fun k => (k.port, k.ticket))) = some (.s1, none) := by decide +kernel

/-- Disabling that port: its captures fail in the order A, B, and the ticket loses its capture. -/
theorem test_port_disable_captures :
    let t := after (.portDisable .s0 1#8) armedTwice
    ((t.port .s1).queue.drop 5).map (fun n => (n.kind, n.subject, n.detail.take 3)) =
      [(.weighFailed, some 1, [1#8, 1#8, 8#8]), (.weighFailed, some 0, [2#8, 4#8, 8#8])] ∧
    (t.ticket 1).bind (·.capture) = none := by decide +kernel

theorem test_premises_FaultSettingEvent : yard.faults.length = 11 ∧ FaultKind.journalFull ≠ .journalMedia ∧
    (State.reset.fault .clockUnset).isSome = true ∧ yard.fault .clockUnset = none ∧ yard.masked .clockUnset = false ∧
    ({ yard with settings := { yard.settings with faultMasks := 0x400#11 } }).masked .clockUnset = true ∧
    State.reset.faultOutput = true ∧ yard.faultOutput = false ∧
    ({ State.reset with settings := { State.reset.settings with faultMasks := 0x7FF#11 } }).faultOutput = false := by
  decide +kernel

theorem test_premises_ClearFaultAnswers : Taking .s0 yard ∧ yard.role .s0 = .office ∧ yard.mode ≠ .starting ∧ Taking .s1 yard ∧
    yard.role .s1 ≠ .office := by decide +kernel

theorem test_premises_SetFirstReceiptAnswers : Taking .s0 (yardIn .config) ∧ (yardIn .config).role .s0 = .office ∧
    (yardIn .config).mode = .config ∧ 1#32 ≠ 0#32 ∧ 30 ≤ (30#16).toNat ∧ (600#16).toNat ≤ 600 ∧ 1 ≤ (1#8).toNat ∧
    (90#8).toNat ≤ 90 ∧ (29#16).toNat < 30 ∧ 600 < (601#16).toNat ∧ yard.mode ≠ .config ∧
    (yardIn .config).newest ≠ none ∧
    (let empty (c : Sector) : State := { yardIn .config with sectors := List.replicate 32 c }
     (empty Sector.erased).newest = none ∧ 32 ≤ (empty Sector.erased).space ∧ (empty Sector.unchecked).newest = none ∧
       (empty Sector.unchecked).space = 0 ∧ (empty Sector.unchecked).lowFlag = false ∧
       ({ empty Sector.unchecked with lowFlag := true }).space < 32) := by decide +kernel

/-- SET FIRST RECEIPT on an empty journal: the counter is no longer exhausted, the space is 0, and JOURNAL_LOW is offered when the
low flag was clear. -/
theorem test_first_receipt_of_empty_journal :
    let s := ({ yardIn .config with
      sectors := List.replicate 32 Sector.unchecked, lowFlag := false, exhausted := true }).updPort .s2 (fun c => { c with queue := [] })
    let t := after (.setFirstReceipt .s0 9#32 30#16 1#8 0#16 0#16) s
    t.counter = 9 ∧ t.exhausted = false ∧ t.lowFlag = true ∧ (t.port .s0).result = some ⟨.ok, be 4 9⟩ ∧
      (t.port .s2).queue.map (fun n => (n.kind, n.detail)) = [(.journalLow, [0#8, 0#8])] := by decide +kernel

theorem test_premises_EnterConfigAnswers :
    let pending := (yardIn .configPending).updChan .a (fun c => { c with state := .fault, weight := none, faultCount := 200 })
    Taking .s0 yard ∧ yard.role .s0 = .office ∧ yard.mode = .run ∧ yard.drained = true ∧
    Taking .s0 settling ∧ settling.role .s0 = .office ∧ settling.mode = .run ∧ settling.drained = false ∧
    Taking .s0 (yardIn .storing) ∧ Taking .s0 (yardIn .config) ∧ (yard.scaleSettings .a).enabled = true ∧
    (({ yard with settings := { yard.settings with
      scales := yard.settings.scales.set .b { ScaleSettings.default with enabled := false } } }).scaleSettings .b).enabled =
        false ∧
    (pending.mode = .configPending ∧ pending.drained = true ∧ (pending.scaleSettings .a).enabled = true ∧
      (pending.chan .a).state = .fault ∧ (pending.chan .b).state ≠ .fault) := by decide +kernel

theorem test_premises_StoreWritesBegin : Taking .s0 yard ∧ yard.role .s0 = .office ∧ yard.mode = .run ∧ yard.storeWrite = none ∧
    Taking .s0 marking ∧ marking.storeWrite.isSome = true ∧ Taking .s0 (yardIn .config) ∧ (yardIn .config).mode = .config ∧
    Taking .s0 (yardIn .configPending) ∧ Taking .s0 (yardIn .storing) ∧ Taking .s0 (yardIn .starting) := by decide +kernel

theorem test_premises_StoreWriteSteps : marking.powered = true ∧ marking.storeWrite = some ⟨copyPrices yard.settings, 1⟩ ∧
    marking.faults.length = 11 ∧ marking.engine.current = some .storeMark ∧ marking.mode = .run ∧
    (after (.storeSettings .s0) yard).engine.current = some .storeErase ∧
    (after (.storeErase true) (after (.storeSettings .s0) yard)).engine.current = some .storeImage ∧
    (after (.storeErase false) (after (.storeSettings .s0) yard)).storeWrite.map (·.attempt) = some 2 ∧
    (after (.leaveConfig .s0) (yardIn .config)).mode = .storing ∧
    (after (.leaveConfig .s0) (yardIn .config)).engine.current = some .storeErase := by decide +kernel

theorem test_premises_StartCompletes :
    let area : CalArea := ⟨memProgram (memProgram [] 0 (calBytes unitCal) [] []) 64 [0#8] [] [], 0#8⟩
    let s := { yard with cal := yard.cal.set .b area, storeRecord := true }
    let t := after (.start true true []) s
    warmStart true false yard = true ∧ warmStart true false { yard with lostSupply := true } = false ∧
    s.faults.length = 11 ∧ s.storeRecord = true ∧ s.store.valid = none ∧
    (((t.chan .b).slotsUsed, (t.chan .b).calCounter, (t.chan .b).live, (t.chan .b).calLocked) =
      (2, 1, some unitCal, true)) ∧ (t.chan .a).live = none ∧
    t.fault .storeMedia = some ⟨.storeInterrupted, 1000⟩ := by decide +kernel

/-- A slot of 32 bytes whose check holds, with the largest sequence and a negative zero sum, and one whose check fails. -/
theorem test_premises_StartCompletes_slots :
    let r : CalRecord := ⟨255, -1, 65536, [9000, 10000, 11000, 65535], 4294967295⟩
    let bs := calBytes r ++ List.replicate 10 0xFF#8
    bs.length = 32 ∧ calRecordOf bs = some r ∧ (bs.set 21 0#8).length = 32 ∧ calRecordOf (bs.set 21 0#8) = none ∧
    r.trims = [9000, 10000, 11000, 65535] ∧ (calBytes r).length = 22 ∧
    ({ yard with lostSupply := true }).lostSupply = true ∧ warmStart true true { yard with lostSupply := true } = true ∧
    warmStart false true yard = false ∧ yard.lostSupply = false := by decide +kernel

theorem test_premises_GoodFrameMakesAWeight :
    let frame := bridgeFrame 3 10000
    GoodFrameArrives .a frame yard ∧ GoodFrameArrives .b frame yard ∧ (yard.chan .b).live = none ∧
    GoodFrameArrives .a (frame.drop 5) (yard.updChan .a (fun c => { c with rx := frame.take 5 })) ∧
    GoodFrameArrives .a frame (yard.updChan .a (fun c => { c with state := .fault, weight := none, faultCount := 1 })) ∧
    GoodFrameArrives .a frame (yardIn .configPending) ∧ (yard.chan .a).capture = none ∧
    GoodFrameArrives .a (bridgeFrame 3 1) yard ∧ (frameChannel .a (bridgeFrame 3 1) yard).zeroOffset = 4 ∧
    unitCal.trims = [10000, 10000, 10000, 10000] ∧ unitCal.trims.head? = some 10000 := by decide +kernel

theorem test_premises_FrameTestsAndMotion : (yard.chan .a).reference = some 0 ∧ (200 - 0 : Int).natAbs ≤ division .a ∧
    division .a < (201 - 0 : Int).natAbs ∧ (yard.chan .b).reference = none ∧
    (bridgeFrame 3 10000).length = 5 + 3 * 4 ∧ (parseFrame (bridgeFrame 3 10000)).count = 4 := by decide +kernel

theorem test_premises_BadFrameEvents :
    let frame := bridgeFrame 3 10000
    yard.powered = true ∧ (yard.chan .a).state ≠ .disabled ∧ yard.faults.length = 11 ∧
    BadFrameArrives .p frame .cells yard ∧
    BadFrameArrives .p (frame.drop 5) .cells (yard.updChan .p (fun c => { c with rx := frame.take 5 })) ∧
    BadFrameArrives .p frame .cells (yardIn .configPending) ∧
    (yard.updChan .p (fun c => { c with state := .disabled })).powered = true ∧
    ((yard.updChan .p (fun c => { c with state := .disabled })).chan .p).state = .disabled ∧
    128 ≤ min 255 (120 + 8) ∧ (yard.chan .a).state ≠ .fault := by decide +kernel

/-- A silence event that takes A into FAULT with a capture armed: its notices in R12's order, and the capture's end. -/
theorem test_silence_into_fault :
    let s := (armed.updChan .a (fun c => { c with faultCount := 120 })).updPort .s1 (fun c => { c with queue := [] })
    let t := after (.silenceEvent .a) s
    (t.port .s1).queue.map (·.kind) = [.scaleState, .fault, .weighFailed] ∧ (t.chan .a).state = .fault ∧
    (t.chan .a).capture = none ∧ (t.ticket 1).bind (·.capture) = none := by decide +kernel

theorem test_premises_RestoreAndZeroScale : Taking .s1 yard ∧ yard.maskAdmits .s1 1#8 = true ∧ yard.maskAdmits .s3 1#8 = false ∧
    yard.mode ≠ .starting ∧ scaleOf 1#8 = some .a ∧ scaleOf 4#8 = none ∧ yard.maskAdmits .s0 4#8 = true ∧
    (yard.chan .a).state ≠ .disabled ∧ (yard.chan .a).state ≠ .fault ∧
    ((after (.silenceEvent .a) (yard.updChan .a (fun c => { c with faultCount := 120 }))).chan .a).state = .fault ∧
    ((after (.scaleSettings .s0 1#8 0#8 3#8 10#8 1#8 0#8) (yardIn .config)).chan .a).state = .disabled := by decide +kernel

theorem test_premises_ScaleSettingsAnswers : Taking .s0 (yardIn .config) ∧ (yardIn .config).role .s0 = .office ∧
    (yardIn .config).mode = .config ∧ scaleOf 1#8 = some .a ∧ ((yardIn .config).scaleSettings .a).enabled = true ∧
    (1#8).toNat ≤ 1 ∧ (3 ≤ (3#8).toNat ∧ (20#8).toNat ≤ 20) ∧ (10 ≤ (10#8).toNat ∧ (120#8).toNat ≤ 120) ∧
    (1 ≤ (1#8).toNat ∧ (50#8).toNat ≤ 50) ∧
    ((after (.scaleSettings .s0 1#8 0#8 3#8 10#8 1#8 0#8) (yardIn .config)).scaleSettings .a).enabled = false := by
  decide +kernel

theorem test_premises_CalibrationRequests : Taking .s0 (yardIn .config) := by decide +kernel

theorem test_premises_CalibrationWritesEnd :
    ∀ m ∈ [Mode.config, .configPending],
      let s := { after (.calibrate .s0 1#8 0#32 65536#24 10000#16 10000#16 10000#16 10000#16) (yardIn .config) with mode := m }
      let u := { after (.lockCalibration .s0 1#8) (yardIn .config) with mode := m }
      let r : CalRecord := ⟨2, 0, 65536, [10000, 10000, 10000, 10000], 1000⟩
      let reads (c : Cells) := memProgramVerify (s.cal.get .a).slots (32 * ((s.chan .a).nextSlot - 1)) (calBytes r) c
      (s.powered = true ∧ s.engine.current = some (.calRecord .a) ∧ s.calJobs.get .a = some (.record .s0 r) ∧
        (reads .good).2 = true ∧ (reads ⟨[0xFF#8], []⟩).2 = false) ∧
      (u.powered = true ∧ u.engine.current = some (.calLock .a) ∧ u.calJobs.get .a = some (.lock .s0) ∧
        (u.cal.get .a).lock = 0xFF#8) := by decide +kernel

theorem test_premises_WeighArmsACapture : Taking .s1 yard := by decide +kernel

theorem test_premises_CapturesEnd : Taking .s1 armed ∧ Taking .s0 armed ∧ armed.maskAdmits .s1 1#8 = true ∧
    armed.mode ≠ .starting ∧ scaleOf 1#8 = some .a ∧ (armed.chan .a).capture = some ⟨.gross, some 1, none, none, .s1, 1000, 45, false⟩ ∧
    (armed.chan .b).capture = none ∧ armed.role .s0 = .office ∧ armed.powered = true ∧ Taking .s0 { armed with mode := .configPending } ∧
    armed.maskAdmits .s3 1#8 = false ∧ armed.maskAdmits .s0 4#8 = true ∧ scaleOf 4#8 = none := by decide +kernel

theorem test_premises_OpenTicketAnswers : Taking .s1 yard ∧ 1 ≤ yard.nextTicket ∧ yard.nextTicket ≤ 9999 ∧
    yard.tickets.length ≤ 47 := by decide +kernel

theorem test_premises_TicketChanges : Taking .s1 yard := by decide +kernel

theorem test_premises_StoredTareClose : Taking .s1 yard ∧ (yard.ticket 2).isSome = true ∧
    holdHours yard [⟨1, 48000, 0, none, none⟩] = 0 ∧ 0 < holdHours yard [⟨2, 48000, 0, none, none⟩] ∧
    yard.clock + holdHours yard [⟨2, 48000, 0, none, none⟩] * 3600 < 2 ^ 32 ∧
    (ticketOf 1 .opened [] []).weighings = [] ∧ (ticketOf 2 .onYard [gross] []).weighings = [] ++ [gross] ∧
    (∃ l ∈ [(⟨2, 48000, 0, none, none⟩ : Line)], l.grade = 2) ∧
    ∀ l ∈ [(⟨2, 48000, 0, none, none⟩ : Line)], l.grade ≠ 1 := by decide +kernel

theorem test_premises_ReadRequestsAnswer : Taking .s3 yard ∧ yard.mode ≠ .starting ∧ scaleOf 1#8 = some .a ∧ scaleOf 4#8 = none ∧
    (yard.chan .a).weight = some 0 ∧ (yard.chan .b).weight = none ∧ Taking .s3 (yardIn .starting) ∧
    ((yard.updChan .a (fun c => { c with weight := some (2 ^ 31) })).chan .a).weight = some (2 ^ 31) := by decide +kernel

theorem test_premises_ClaimsAreHeld : Taking .s2 yard ∧ yard.powered = true ∧ (yard.ticket 3).bind (·.claim) = none ∧
    (∀ n ∈ [0, 180], ((yard.updTicket 3 (fun t => { t with claim := some ⟨.s2, n⟩ })).ticket 3).bind (·.claim) =
      some ⟨.s2, n⟩) := by decide +kernel

theorem test_premises_HoldsEndAndMove : Taking .s0 yard ∧ yard.holds.Pairwise (fun a b => a.expiry ≤ b.expiry) := by
  refine ⟨by decide +kernel, ?_⟩
  simp [yard]

theorem test_premises_YardClock : Taking .s0 yard ∧ yard.role .s0 = .office ∧ yard.mode ≠ .starting ∧ yard.role .s1 ≠ .office ∧
    4294967295 ≤ ({ yard with clock := 4294967295 }).clock ∧ yard.clock < 4294967295 ∧ yard.powered = true ∧
    (yardIn .starting).mode = .starting := by decide +kernel

theorem test_premises_CommitRequestsRefuse : Taking .s2 yard ∧ Taking .s0 yard ∧
    ((yard.sectors.find? (fun c => c.state == .filling)).isSome = true ∧ yard.exhausted = false) ∧
    ((∀ c ∈ State.reset.sectors, c.state ≠ .filling) ∧ State.reset.exhausted = false) ∧
    ({ yard with exhausted := true }).exhausted = true ∧ State.reset.space < 32 ∧
    State.reset.lowFlag = true ∧ ({ State.reset with lowFlag := false }).lowFlag = false ∧ 32 ≤ yard.space := by decide +kernel

/-- The yard with a DROP of ticket 2 armed on A by S1. -/
def dropArmed : State :=
  (yard.updChan .a (fun c => { c with capture := some ⟨.drop, some 2, none, some 1, .s1, 1000, 45, false⟩ })).updTicket 2
    (fun t => { t with capture := some .a })

/-- The void of that ticket: its capture leaves the scale and the ticket, and S1 hears WEIGH_FAILED with VOIDED and no weight. -/
theorem test_void_of_an_armed_ticket :
    let t := after (.voidTicket .s0 2#16 1#8) dropArmed
    (t.chan .a).capture = none ∧ (t.ticket 2).map (fun t => (t.state, t.capture)) = some (.committing, none) ∧
    ((t.port .s1).queue.getLast?).map (fun n => (n.kind, n.subject, n.detail)) =
      some (.weighFailed, some 2, [1#8, 2#8, 7#8, 0xFF#8, 0xFF#8, 0xFF#8, 0xFF#8, 0xFF#8]) := by decide +kernel

theorem test_premises_CommitsAreAccepted : Taking .s2 yard ∧ Taking .s0 yard ∧ yard.mode = .run ∧ 1 ≤ yard.space ∧
    yard.role .s2 = .window ∧ ((yard.ticket 3).map (·.state)) = some .payable ∧ 2 ≤ yard.freeSlots ∧ yard.role .s0 = .office ∧
    yard.noTallyJob = true ∧ ((yard.ticket 2).map (fun t => (t.state, claimedByOther .s0 t, t.weighings.isEmpty))) =
      some (.onYard, false, false) ∧ ((yard.ticket 4).map (·.state)) = some .held ∧ yard.head = none ∧ yard.settlements = [] ∧
    yard.commitQueue = [] ∧
    (Taking .s0 settling ∧ settling.mode = .run ∧ 1 ≤ settling.space ∧ settling.role .s0 = .office ∧
      settling.noTallyJob = true ∧ 2 ≤ settling.freeSlots ∧ settling.head.isSome = true) ∧
    (Taking .s0 dropArmed ∧ dropArmed.mode = .run ∧ 1 ≤ dropArmed.space ∧ (dropArmed.ticket 2).bind (·.capture) = some .a ∧
      (dropArmed.chan .a).capture = some ⟨.drop, some 2, none, some 1, .s1, 1000, 45, false⟩) := by decide +kernel

/-- Ticket 3's commit at a step of an attempt, its entry's earlier bytes left unread. -/
def attempting (step : HeadStep) (attempt : Nat) : State :=
  { settling with head := settling.head.map (fun h => { h with step := step, attempt := attempt }) }

theorem test_premises_CommitStepsProgram : settling.powered = true ∧ settling.engine.current = some .commitStep ∧
    settling.head.map (fun h => (h.step, h.entry.length)) = some (.header, 256) ∧
    settling.commitQueue = [⟨.payout, some 3, .s2⟩] ∧
    (settling.ticket 3).map (fun t => (t.lines.length, t.vehicle, t.seller)) = some (1, some id1, none) ∧
    (∀ x ∈ [(HeadStep.header, 0), (.body, 16)], let s := attempting x.1 1
      s.powered = true ∧ s.engine.current = some .commitStep ∧ s.commitQueue = [⟨.payout, some 3, .s2⟩] ∧
      s.head.map (·.step) = some x.1 ∧
      (memProgramVerify s.journal (entryAddr 0 2 + x.2) ((s.head.map stepBytes).elim [] Prod.snd) .good).2 = true) := by
  decide +kernel

/-- An entry of each kind, as a commit builds it, and what a changed byte makes of its checks. -/
theorem test_premises_CommitStepsProgram_reading :
    let entry (k : EntryKind) := buildEntry settling ⟨k, if k = .shift then none else some 3, .s2⟩ 7
    (∀ k ∈ [EntryKind.payout, .void, .shift], (entry k).length = 256 ∧ ((entry k).getD 5 0#8).toNat = entryKindCode k ∧
      entryKind (entry k) = k ∧ headerHolds (entry k) = true ∧ bodyHolds (entry k) = true ∧
      headerHolds ((entry k).set 9 0xAA#8) = false ∧ bodyHolds ((entry k).set 251 0xAA#8) = false ∧
      markOf (entry k) = .blank ∧ markOf ((entry k).set 0 0x2F#8) = .torn ∧ carriesTorn ((entry k).set 0 0x2F#8) = true) ∧
    (entryText (entry .payout) 28 10 = some id1 ∧ entryText (entry .payout) 39 16 = none) ∧
    (252 + 4 ≤ 256 ∧ 252 + 3 < 256 ∧ entryNat (entry .payout) 1 4 = 7) ∧
    readMark 0x5F#8 = .started ∧ readMark 0x77#8 = .audited ∧ readMark 0x67#8 = .audited ∧ readMark 0xBF#8 = .started := by
  decide +kernel

theorem test_premises_CommitAttemptsEnd :
    let good := attempting .complete 1
    let bad : Cells := ⟨[0x80#8], []⟩
    (good.powered = true ∧ good.engine.current = some .commitStep ∧ good.head.map (·.step) = some .complete ∧
      good.commitQueue = [⟨.payout, some 3, .s2⟩] ∧ good.settlements = [⟨.payout, some 3, .s2, [0], some 3, []⟩] ∧
      (memProgramVerify good.journal (entryAddr 0 2) [0x3F#8] .good).2 = true) ∧
    (∀ x ∈ [(HeadStep.header, 0, [0x7F#8]), (.body, 16, ((settling.head.map (·.entry)).getD []).drop 16), (.complete, 0, [0x3F#8])],
      ∀ attempt ∈ [1, 2], let s := attempting x.1 attempt
        s.powered = true ∧ s.engine.current = some .commitStep ∧ s.commitQueue = [⟨.payout, some 3, .s2⟩] ∧
        s.settlements = [⟨.payout, some 3, .s2, [0], some 3, []⟩] ∧ s.head.map (fun h => (h.step, h.attempt)) = some (x.1, attempt) ∧
        s.exhausted = false ∧ (memProgramVerify s.journal (entryAddr 0 2 + x.2.1) x.2.2 bad).2 = false) ∧
    ({ settling with exhausted := true }).exhausted = true := by decide +kernel

/-- The next commit, with the counter exhausted or not, a slot in the FILLING sector, an ERASED sector ahead, one in erasure, and an
empty run. -/
theorem test_premises_CommitAttemptsEnd_next :
    let q : CommitReq := ⟨.shift, none, .s0⟩
    let r : Settlement := ⟨.shift, none, .s0, [], none, []⟩
    let s : State := { yard with commitQueue := [q], settlements := [r] }
    let sectors (c : Sector) : State := { s with sectors := (s.sectors.set 0 { s.sector 0 with state := .full }).set 1 c }
    let spent : State := { s with exhausted := true }
    let places (s : State) := (nextHead s).head.map (fun h => (h.step, h.attempt, h.number, h.sector, h.slot))
    (s.head = none ∧ s.commitQueue = q :: [] ∧ s.exhausted = false ∧ places s = some (.header, 1, 3, 0, 2)) ∧
    (places (sectors Sector.erased) = some (.header, 1, 3, 1, 0) ∧ (nextHead (sectors Sector.erased)).counter = 4 ∧
      (places (sectors { Sector.erased with state := .erasing })).map Prod.fst = some .waitErasing ∧
      (places (sectors Sector.unchecked)).map Prod.fst = some .waitEmpty) ∧
    (∀ u ∈ [s, sectors Sector.erased, sectors { Sector.erased with state := .erasing }, sectors Sector.unchecked,
      { s with counter := 4294967295 }], nextHead u = numbered q 1 u) ∧
    (spent.exhausted = true ∧ spent.settlements = r :: [] ∧ (nextHead spent).commitQueue = [] ∧
      (nextHead spent).fault .journalFull ≠ none ∧ (nextHead { spent with settlements := [] }).commitQueue = []) ∧
    (settling.head ≠ none ∧ quiet.commitQueue = []) := by decide +kernel

/-- An array with an entry STARTED in sector 0, an erased pattern in sector 1 and the rest blank. -/
def scanned : Memory := [(0, 0x7F#8), (4096, 0x00#8)]

theorem test_premises_StartReadsTheJournal :
    let s := { yard with journal := scanned, eraseRecord := some 2 }
    s.journal.wf = true ∧ s.faults.length = 11 ∧ warmStart true true s = true ∧ warmStart false true s = false ∧
    tornPlaces (some 2) s.journal = [(0, 0)] ∧ (memBytes s.journal (entryAddr 1 0) 256).headD 0xFF#8 = 0x00#8 ∧
    markOf (memBytes s.journal (entryAddr 3 0) 256) = .blank ∧
    (yard.job 1).map (·.state) = some .retryWait ∧ yard.settlements = [] := by decide +kernel

/-- A warm start of that array when ticket 3's commit has the torn entry's number. -/
theorem test_start_reads_the_journal :
    let t := after (.start true true []) { settling with
      journal := scanned, eraseRecord := some 2
      settlements := [⟨.payout, some 3, .s2, [0], some 3, []⟩], settings := { settling.settings with firstReceipt := 3 } }
    memRead t.journal 0 = 0x6F#8 ∧ (t.sector 0).state = .filling ∧ (t.sector 0).used = 1 ∧ t.slotMark 0 0 = .torn ∧
    (t.sector 1).state = .bad ∧ (t.sector 2).state = .erasing ∧ (t.sector 3).state = .blankUnchecked ∧ t.counter = 4 ∧
    t.fault .tornFound = some ⟨.receipt 3, 1000⟩ ∧ t.tally.torn = 1 ∧ (t.ticket 3).map (·.state) = some .payable ∧
    t.job 0 = none ∧ t.settlements = [] := by decide +kernel

theorem test_premises_AuditThroughAnswers : Taking .s0 printedYard ∧ printedYard.role .s0 = .office ∧ printedYard.mode = .run ∧
    printedYard.pass = none ∧ 0 ≤ printedYard.auditMark ∧ printedYard.auditMark < 2 ∧ 2 ≤ printedYard.newest.getD 0 ∧
    printedYard.newest.getD 0 < 3 ∧ yard.auditMark < 1 ∧ 1 ≤ yard.newest.getD 0 ∧
    (yard.places 1 = [(0, 0)] ∧ yard.slotMark 0 0 = .complete) ∧
    (after (.auditThrough .s0 2#32) printedYard).pass.isSome = true ∧ State.reset.newest = none ∧
    (∀ c ∈ State.reset.sectors, c.used = 0 ∧ c.state ≠ .filling ∧ c.state ≠ .full) ∧ State.reset.newestDone = none ∧
    (yard.newest, yard.oldest, yard.newestDone) = (some 2, some 1, some 2) ∧
    (headed.head.map (·.step) = some .body ∧ headed.places 3 = [(0, 2)] ∧ headed.newest = some 3 ∧ headed.newestDone = some 2) := by
  decide +kernel

/-- The quiet yard with entries 1 and 2 and entry 33, and nothing retained between them. -/
def gapYard (low high : Mark) : State := { quiet with sectors := (yard.sectors.set 0 ⟨.full, some 1, 2, low :: low ::
  List.replicate 14 .blank, List.replicate 16 1#8⟩).set 2 ⟨.filling, some 33, 1, high :: List.replicate 15 .blank,
    List.replicate 16 1#8⟩ }

theorem test_audit_over_a_gap :
    (gapYard .audited .printed).auditMark = 32 ∧ (gapYard .audited .audited).auditMark = 33 ∧
    (gapYard .printed .printed).auditMark = 0 ∧
    resultOf .s0 (.auditThrough .s0 33#32) (gapYard .printed .printed) = some ⟨.ok, be 4 0 ++ be 2 3⟩ ∧
    resultOf .s0 (.auditThrough .s0 33#32) (gapYard .printed .complete) = some ⟨.auditUnprinted, be 4 33⟩ ∧
    ([1, 2].foldl (fun s _ => after (.auditMark .good) s)
      (after (.auditThrough .s0 33#32) (gapYard .printed .printed))).pass = some ⟨33, 33, .s0⟩ := by decide +kernel

/-- The quiet yard with entries 1 to 3 in sector 0, and entries 1 to 8 in sector 5, whose first number the scan guessed. -/
def overlapYard (low high : Mark) : State := { quiet with sectors := (yard.sectors.set 0 ⟨.full, some 1, 3,
  List.replicate 3 low ++ List.replicate 13 .blank, List.replicate 16 1#8⟩).set 5 ⟨.full, some 1, 8,
    List.replicate 8 high ++ List.replicate 8 .blank, List.replicate 16 1#8⟩ }

theorem test_numbers_that_two_sectors_carry :
    let s := overlapYard .audited .torn
    s.places 3 = [(0, 2), (5, 2)] ∧ s.lookup 3 = some (0, 2) ∧ s.lookup 8 = some (5, 7) ∧ s.lookup 9 = none ∧
    s.newest = some 8 ∧ s.current = some 5 ∧ s.auditMark = 0 ∧ s.unaudited 3 = some (5, 2) ∧
    (backfillAudited s).auditMark = 2 ∧ ((settleNewest s).sector 5).state = .filling ∧
    resultOf .s0 (.auditThrough .s0 8#32) s = some ⟨.auditUnprinted, be 4 1⟩ ∧
    resultOf .s0 (.auditThrough .s0 8#32) (overlapYard .torn .torn) = some ⟨.ok, be 4 0 ++ be 2 11⟩ := by decide +kernel

theorem test_audit_of_a_number_that_two_sectors_carry :
    let s := after (.auditMark .good) (after (.auditThrough .s0 8#32) (overlapYard .torn .torn))
    s.slotMark 0 0 = .audited ∧ s.pass = some ⟨8, 1, .s0⟩ ∧ s.unaudited 1 = some (5, 0) ∧ s.auditMark = 0 ∧
    (after (.auditMark .good) s).pass = some ⟨8, 2, .s0⟩ ∧ (after (.auditMark .good) s).auditMark = 1 := by decide +kernel

theorem test_premises_MarksAreProgrammed :
    ∀ again : Bool, ∀ target ∈ [1, 2],
      let s := { busyWith (.printedMark again) with pendingMarks := [⟨1, 900⟩] }
      let u := { printedYard with
        engine := { yard.engine with current := some (.auditMark again) }, pass := some ⟨target, 1, .s0⟩ }
      (s.powered = true ∧ s.faults.length = 11 ∧ (s.sector 0).marks.length = 16 ∧ s.sectors.length = 32 ∧
        s.engine.current = some (.printedMark again) ∧ s.pendingMarks = [⟨1, 900⟩] ∧ s.lookup 1 = some (0, 0) ∧
        (memProgramVerify s.journal 0 [0x1F#8] .good).2 = true ∧
        (memProgramVerify s.journal 0 [0x1F#8] ⟨[0xFF#8], []⟩).2 = false) ∧
      (u.powered = true ∧ u.faults.length = 11 ∧ (u.sector 0).marks.length = 16 ∧ u.sectors.length = 32 ∧
        u.engine.current = some (.auditMark again) ∧ u.pass = some ⟨target, 1, .s0⟩ ∧ u.unaudited 1 = some (0, 0) ∧
        u.places 2 = [(0, 1)] ∧ u.slotMark 0 1 ≠ .audited ∧
        readMark (memRead (memProgram u.journal 0 [0x77#8] [] []) 0) = .audited ∧
        readMark (memRead (memProgram u.journal 0 [0x77#8] [0xFF#8] []) 0) ≠ .audited) := by decide +kernel

theorem test_premises_EraseAheadRuns_start :
    let starts (s : State) (i : Nat) (before after : List Nat) : Prop := s.powered = true ∧ s.sectors.length = 32 ∧
      ringOf s = before ++ i :: after ∧ before.length < 2 ∧ (∀ x ∈ before, (s.sector x).state = .erased) ∧
      (∀ m ∈ (s.sector i).marks, m = .blank ∨ m = .audited) ∧ s.engine.current = none ∧ s.engine.reads = [] ∧
      s.engine.writes = [] ∧ s.engine.erase = none ∧ s.pendingMarks = [] ∧ s.pass = none
    (starts State.reset 0 [] ((List.range 31).map (· + 1)) ∧ (State.reset.sector 0).state = .blankUnchecked ∧
      ∀ p ∈ [Port.s0, .s1, .s2, .s3], (State.reset.port p).stream = none) ∧
    (let s := streaming 2 auditedSector
     starts s 2 [1] ((List.range 29).map (· + 3)) ∧ (s.sector 2).state = .full ∧ (s.port .s3).stream = some 2 ∧
     s.lookup 2 = some (0, 1)) ∧
    (aheadOf quiet).length = 2 ∧ (busyWith .commitStep).engine.current ≠ none := by decide +kernel

theorem test_premises_EraseAheadRuns_ends :
    let t := after .eraseAheadStart State.reset
    let u := { t with engine := { t.engine with current := none, erase := some ⟨0, false, true, 1, false⟩ } }
    let v (retried : Bool) := { t with engine := { t.engine with
      current := some .erase, erase := some ⟨0, false, false, 0, retried⟩ } }
    let blank (j : Memory) := (List.range 4096).all (fun k => memRead j k == 0xFF#8)
    (t.powered = true ∧ t.sectors.length = 32 ∧ t.journal.wf = true ∧ t.engine.current = some .blankCheck ∧
      t.engine.erase = some ⟨0, true, false, 0, false⟩) ∧
    (u.powered = true ∧ u.engine.erase = some ⟨0, false, true, 1, false⟩ ∧ u.engine.current = none ∧ u.engine.reads = [] ∧
      u.engine.writes = [] ∧ t.engine.erase.map (·.suspended) = some false) ∧
    (∀ b : Bool, (v b).powered = true ∧ (v b).sectors.length = 32 ∧ (v b).journal.wf = true ∧
      (v b).engine.current = some .erase ∧ (v b).engine.erase = some ⟨0, false, false, 0, b⟩) ∧
    blank (memDecay (memErase t.journal 0 4096) 0 4096 []) = true ∧
    blank (memDecay (memErase t.journal 0 4096) 0 4096 [(7, 0#8)]) = false := by decide +kernel

/-- A commit that waits for the erase of sector 0 selects its slot 0 when the erase is good, and goes on waiting when it is BAD. -/
theorem test_waiting_commit_selects_again :
    let s : State := { State.reset with
      sectors := State.reset.sectors.set 0 { Sector.unchecked with state := .erasing }
      commitQueue := [⟨.shift, none, .s0⟩], head := some ⟨1, 1, .waitErasing, 0, 0, List.replicate 256 0#8⟩, lowFlag := true
      engine := { State.reset.engine with current := some .erase, erase := some ⟨0, false, false, 0, true⟩ } }
    let good := after (.eraseDone []) s
    let bad := after (.eraseDone [(7, 0#8)]) s
    good.head.map (fun h => (h.step, h.sector, h.slot)) = some (.header, 0, 0) ∧ good.engine.current = some .commitStep ∧
    ((good.sector 0).state, (good.sector 0).first) = (.filling, some 1) ∧
    bad.head.map (·.step) = some .waitEmpty ∧ (bad.sector 0).state = .bad ∧
    (bad.fault .journalFull).map (·.detail) = some (.commitKind .shift) := by decide +kernel

theorem test_premises_JournalStreams :
    let s := { (busyWith (.stream .s3 true)).updPort .s3 (fun c => { c with stream := some 1 }) with mode := .run }
    s.powered = true ∧ s.scanned = true ∧ s.newestDone = some 2 ∧ max (0#32).toNat (s.oldest.getD 0) ≤ 2 ∧
    2 < max (3#32).toNat (s.oldest.getD 0) ∧ ({ s with scanned := false }).scanned = false ∧
    s.engine.current = some (.stream .s3 true) ∧ (s.port .s3).stream = some 1 ∧ s.lookup 1 = some (0, 0) ∧ 1 + 1 ≤ 2 ∧
    s.lookup 2 = some (0, 1) ∧
    (busyWith (.stream .s3 false)).engine.current = some (.stream .s3 false) ∧
    ({ gapYard .printed .printed with engine := { yard.engine with current := some (.stream .s3 true) } }.updPort .s3
      (fun c => { c with stream := some 9 })).lookup 9 = none ∧
    (let idle := streaming 2 Sector.erased
     let busy := { idle with engine := { idle.engine with current := some .commitStep } }
     ∀ x ∈ [(idle, some (EngineOp.stream .s3 true)), (busy, some .commitStep)],
       x.1.powered = true ∧ (x.1.port .s3).stream = some 2 ∧ .stream .s3 ∉ x.1.engine.reads ∧
       (∀ live, x.1.engine.current ≠ some (.stream .s3 live)) ∧ (settle (blockBoundary .s3 2 x.1)).engine.current = x.2) ∧
    (quiet.port .s3).stream = none ∧ (∀ live, quiet.engine.current ≠ some (.stream .s3 live)) ∧
    ReadReq.stream .s3 ∈ ({ quiet with engine := { quiet.engine with reads := [.stream .s3] } } : State).engine.reads := by decide +kernel

theorem test_stream_read_discarded_and_in_a_gap :
    let on (live : Bool) (s : State) : State :=
      { s with engine := { yard.engine with current := some (.stream .s3 live) } }.updPort .s3
        (fun c => { c with stream := if live then some 9 else none })
    let gap := after (.journalStreamRead .s3 []) (on true (gapYard .printed .printed))
    (gap.port .s3).stream = some 10 ∧ (gap.port .s3).dataOut = ((gapYard .printed .printed).port .s3).dataOut ∧
    ((after (.journalStreamRead .s3 []) (on false quiet)).port .s3).dataOut = (quiet.port .s3).dataOut ∧
    (after (.journalStreamRead .s3 []) (on false quiet)).engine.current = none := by decide +kernel

theorem test_premises_EndsOfNothing :
    let s := { yard with pe := { yard.pe with queryTimer := none } }
    s.engine.current = none ∧ s.pe.activity = .idle ∧ s.pe.queryTimer = none ∧ (s.port .s3).stream = none := by decide +kernel

/-- The quiet yard with work for the program engine. -/
def waiting (reads : List ReadReq) (writes : List WriteReq) : State :=
  { quiet with engine := { quiet.engine with reads := reads, writes := writes } }

/-- The quiet yard with so many PRINTED marks pending. -/
def marksPending (n : Nat) (s : State) : State := { s with pendingMarks := List.replicate n ⟨1, 900⟩ }

theorem test_premises_EventEndsQuietly_prints :
    let s := { quiet with jobs := yard.jobs }
    let tally := { s with jobs := s.jobs.set 0 (some ⟨.tally, none, some .s0, .queued, 0, false, 0, 0⟩) }
    (∀ x ∈ [s, tally], x.pe.activity = .idle ∧ paused x.pe = false ∧ x.pe.link ≠ .offline ∧ x.mode = .run ∧
      (x.job 0).map (fun j => (j.state, j.age)) = some (.queued, 0) ∧ (x.job 1).map (·.state) ≠ some .queued) ∧
    (pumpOnce s).map (fun t => (t.pe.activity, t.engine.reads)) = some (.fetching, [.fetch]) ∧
    (pumpOnce tally).map (fun t => (t.pe.activity, t.engine.reads)) = some (.sending, []) ∧
    ((yardIn .configPending).mode = .configPending ∧ (yardIn .configPending).drained = true) ∧
    (settling.drained = false ∧ ∀ x ∈ quiet.jobs, x = none) := by decide +kernel

theorem test_premises_EventEndsQuietly_suspends :
    let s (count : Nat) : State := { waiting [.stream .s3] [] with
      engine := { (waiting [.stream .s3] []).engine with current := some .erase, erase := some ⟨1, false, false, count, false⟩ } }
    (∀ n ∈ [0, 15, 16], (s n).pe.activity = .idle ∧ (∀ x ∈ (s n).jobs, x = none) ∧ (s n).engine.current = some .erase ∧
      (s n).engine.erase = some ⟨1, false, false, n, false⟩) ∧
    (pumpOnce (s 15)).map (fun t => t.engine.erase) = some (some ⟨1, false, true, 16, false⟩) ∧ pumpOnce (s 16) = none ∧
    pumpOnce (marksPending 16 { s 0 with engine := { (s 0).engine with reads := [.fetch] } }) = none := by decide +kernel

theorem test_premises_EventEndsQuietly_reads :
    let s := marksPending 16 (waiting [.fetch, .stream .s3] [.storeErase])
    let fetch (n : Nat) : State := { waiting [.fetch] [] with
      jobs := yard.jobs.set 0 (some ⟨.duplicate, some n, some .s2, .printing, 0, false, 0, 0⟩)
      pe := { quiet.pe with activity := .fetching, job := some 0 } }
    (s.pe.activity = .idle ∧ (∀ x ∈ s.jobs, x = none) ∧ s.engine.current = none ∧
      s.engine.reads = [.fetch] ++ .stream .s3 :: [] ∧ 16 ≤ s.pendingMarks.length) ∧
    (pumpOnce s).map (fun t => (t.engine.current, t.engine.reads)) = some (some (.stream .s3 true), [.fetch]) ∧
    ((fetch 2).pe.activity ≠ .idle ∧ (fetch 2).engine.current = none ∧ (fetch 2).lookup 2 ≠ none ∧
      (fetch 2).engine.reads = [] ++ .fetch :: []) ∧
    ((fetch 9).pe.activity ≠ .idle ∧ (fetch 9).engine.current = none ∧ (fetch 9).lookup 9 = none) := by decide +kernel

/-- A calibration area whose next blank slot is its third, and one whose last slots are used and whose first is blank. -/
theorem test_premises_EventEndsQuietly_slots :
    let used : CalArea := ⟨memProgram [] (32 * 63) [0#8] [] [], 0xFF#8⟩
    (∀ k, k < 32 → memRead gapArea.slots (32 * 2 + k) = 0xFF#8) ∧ memRead gapArea.slots 32 ≠ 0xFF#8 ∧ calBlank gapArea 1 = 2 ∧
    memRead used.slots (32 * 63) ≠ 0xFF#8 ∧ (∀ k, k < 32 → memRead used.slots k = 0xFF#8) ∧ calBlank used 63 = 0 := by
  decide +kernel

theorem test_premises_EventEndsQuietly_writes :
    (∀ x ∈ [WriteReq.commitStep, .storeErase, .storeImage, .storeMark, .calLock .a, .calRecord .b],
      let s := waiting [] [x]
      s.pe.activity = .idle ∧ (∀ x ∈ s.jobs, x = none) ∧ s.engine.current = none ∧ s.engine.reads = [] ∧
      s.engine.writes = [x] ∧ ((pumpOnce s).map (fun t => t.engine.writes)) = some []) ∧
    (let s := waiting [] []
     let held : State := { s with engine := { s.engine with erase := some ⟨1, false, true, 1, false⟩ } }
     let audit := { s with pass := some ⟨2, 1, .s0⟩ }
     s.engine.writes = [] ∧ s.engine.erase = none ∧ s.pendingMarks = [] ∧ pumpOnce s = none ∧
     held.engine.erase ≠ none ∧ held.engine.current = none ∧ pumpOnce (marksPending 1 held) = none ∧
     s.entryMark 1 = some .complete ∧ s.entryMark 2 ≠ some .complete ∧
     (pumpOnce (marksPending 1 s)).map (·.engine.current) = some (some (.printedMark false)) ∧
     (pumpOnce { s with pendingMarks := [⟨2, 900⟩] }).map (fun t => (t.engine.current, t.pendingMarks)) = some (none, []) ∧
     audit.pass ≠ none ∧ (pumpOnce audit).map (·.engine.current) = some (some (.auditMark false))) := by decide +kernel

/-- The yard with its job 0 in hand. -/
def printing (a : Activity) : State :=
  { yard with
    jobs := yard.jobs.set 0 (some ⟨.duplicate, some 2, some .s2, .printing, 0, false, 0, 0⟩)
    pe := { yard.pe with activity := a, job := some 0, pauseStart := false, queryTimer := none } }

theorem test_premises_PrintJobsProceed :
    let fetching := { printing .fetching with engine := { yard.engine with current := some (.fetch 2 true) } }
    let whole := { fetching with journal := memProgram [] (entryAddr 0 1 + 252) (be 4 (236 * 0xFF)) [] [] }
    let third (a : Activity) : State := { printing a with
      jobs := yard.jobs.set 0 (some ⟨.duplicate, some 2, some .s2, .printing, 2, false, 0, 0⟩)
      pe := { (printing a).pe with linkErrors := 120 } }
    (∀ a ∈ [Activity.fetching, .sending, .awaiting], (printing a).powered = true ∧ (printing a).pe.job = some 0 ∧
      (printing a).job 0 = some ⟨.duplicate, some 2, some .s2, .printing, 0, false, 0, 0⟩ ∧ (printing a).pe.activity = a ∧
      (third a).pe.job = some 0 ∧ ((third a).job 0).map (·.attempts) = some 2 ∧ (third a).pe.activity = a ∧
      128 ≤ min 255 ((third a).pe.linkErrors + 16) ∧ (third a).pe.link ≠ .offline ∧ (printing a).pe.linkErrors < 48) ∧
    (yard.powered = true ∧ yard.inHand = none ∧ yard.pe.pauseStart = true) ∧
    (fetching.engine.current = some (.fetch 2 true) ∧ fetching.lookup 2 = some (0, 1) ∧
      bodyHolds (memBytes (memDecay fetching.journal (entryAddr 0 1) 256 []) (entryAddr 0 1) 256) = false) ∧
    (whole.powered = true ∧ whole.pe.job = some 0 ∧ (whole.job 0).isSome = true ∧
      whole.engine.current = some (.fetch 2 true) ∧ whole.lookup 2 = some (0, 1) ∧
      bodyHolds (memBytes (memDecay whole.journal (entryAddr 0 1) 256 []) (entryAddr 0 1) 256) = true) ∧
    (({ fetching with engine := { yard.engine with current := some (.fetch 9 true) } }).lookup 9 = none ∧
      ({ fetching with engine := { yard.engine with current := some (.fetch 2 false) } }).engine.current =
        some (.fetch 2 false)) := by decide +kernel

theorem test_premises_PrintJobsProceed_text :
    (ascii "AMOUNT").length + (ascii "972.20").length ≤ 32 ∧ (ascii "STORED TARE WEIGHT").length ≤ 32 ∧
    32 < (ascii "STORED TARE WEIGHT").length + 15 ∧
    (∀ k ∈ [EntryKind.payout, .void, .shift], entryKind (0x3F#8 :: headerBytes 7 k 1000) = k) ∧
    (yard.tally.grades.getD 0 ⟨1, 0, 0, 0⟩).lines = 0 := by decide +kernel

/-- A capture of port S1. -/
def captureOf (kind : CaptureKind) (ticket : Option Nat) (vehicle : Option (List Byte)) (grade : Option Nat) : Capture :=
  ⟨kind, ticket, vehicle, grade, .s1, 1000, 45, false⟩

/-- The yard with a capture on A whose last weight was `w`, settled. -/
def weighing (k : Capture) (w : Int) : State :=
  yard.updChan .a (fun c => { c with capture := some k, reference := some w, motion := 20 })

/-- Whether that state, with the frame of a weight, leaves A in a state with that weight. -/
def weighs (k : Capture) (w : Nat) (state : ScaleState) : Bool :=
  let s := weighing k w
  let c := frameChannel .a (bridgeFrame 3 (w / 4)) s
  decide (GoodFrameArrives .a (bridgeFrame 3 (w / 4)) s ∧ (s.chan .a).capture = some k) && c.state == state && c.weight == some (w : Int)

/-- A frame of the platform. -/
def platformFrame (count : Nat) : List RxByte :=
  let body := be 1 3 ++ be 1 1 ++ be 3 count ++ [0#8]
  (0x5A#8 :: body ++ be 1 (byteSum 1 body)).map (fun b => ⟨b, false⟩)

theorem test_premises_CapturesComplete :
    let gross := captureOf .gross (some 1) none none
    let drop := captureOf .drop (some 2) none (some 1)
    let hours (g : Nat) := (yard.ticket 2).map (fun t => holdHours yard (attributeWeight g 200 t.lines))
    (weighs gross 3000 .stable ∧ (3000 : Int) < minimumLoad .a) ∧ (weighs gross 4000 .stable ∧ (minimumLoad .a : Int) ≤ 4000) ∧
    (yard.ticket 2).map lastWeight = some 40000 ∧ (weighs drop 40000 .stable ∧ (40000 : Int) - 40000 < division .a) ∧
    (weighs drop 39800 .stable ∧ (division .a : Int) ≤ 40000 - 39800) ∧
    (weighs (captureOf .tare (some 2) none (some 1)) 39800 .stable ∧ hours 1 = some 0) ∧
    (weighs (captureOf .tare (some 2) none (some 2)) 39800 .stable ∧ hours 2 = some 24) ∧
    (weighs (captureOf .drop (some 99) none (some 1)) 40000 .stable ∧ yard.ticket 99 = none) := by decide +kernel

theorem test_premises_CapturesComplete_table :
    let full (time : Nat) : State :=
      { yard with clock := 9000000, tares := List.replicate 32 (some ⟨id1, .bridge, 12000, time⟩) }
    (weighs (captureOf .storeTare none (some id1) none) 12000 .stable ∧ yard.tareSlot id1 = some 0) ∧
    (yard.tareSlot (ascii "X") = none ∧ yard.tares.findIdx? Option.isNone = some 1) ∧
    ((full 900).tareSlot (ascii "X") = none ∧ (full 900).tares.findIdx? Option.isNone = none ∧
      (full 900).oldestExpired = some 0 ∧ (full 8999999).oldestExpired = none) := by decide +kernel

theorem test_premises_CapturesComplete_states :
    let drop := captureOf .drop (some 2) none (some 1)
    let moved := (weighing drop 40000).updChan .a (fun c => { c with motion := 0 })
    let failed := (weighing drop 40000).updChan .a (fun c => { c with state := .fault, faultCount := 200 })
    let platform (motion : Nat) : State := yard.updChan .p (fun c => { c with
      live := some unitCal, capture := some (captureOf .tare (some 2) none (some 1)), reference := some 0, motion := motion })
    let left (motion : Nat) := frameChannel .p (platformFrame 0) (platform motion)
    (GoodFrameArrives .a (bridgeFrame 3 10000) moved ∧ (frameChannel .a (bridgeFrame 3 10000) moved).state = .moving) ∧
    weighs drop 640000 .overload ∧ weighs drop 2000 .empty ∧
    (GoodFrameArrives .a (bridgeFrame 3 10000) failed ∧ (frameChannel .a (bridgeFrame 3 10000) failed).state = .fault) ∧
    (GoodFrameArrives .p (platformFrame 0) (platform 20) ∧ (left 20).state = .empty ∧ (left 20).weight = some 0 ∧
      ((platform 20).scaleSettings .p).settle ≤ (left 20).motion) ∧
    (GoodFrameArrives .p (platformFrame 0) (platform 0) ∧ (left 0).motion < ((platform 0).scaleSettings .p).settle) := by
  decide +kernel

theorem test_premises_StatusBytes : yard.powered = true ∧ yard.inHand = none ∧ yard.pe.queryTimer ≠ none ∧
    (printing .sending).inHand = some (0, ⟨.duplicate, some 2, some .s2, .printing, 0, false, 0, 0⟩) := by decide +kernel

theorem test_premises_PrintQueueRequests : Taking .s2 yard ∧ yard.powered = true ∧
    yard.job 1 = some ⟨.duplicate, some 2, some .s0, .retryWait, 1, false, 1, 2⟩ ∧
    ((yard.job 0).map (·.state)) = some .queued ∧ yard.jobs.findIdx? Option.isNone = some 2 ∧
    yard.ageCounter + 1 < 2 ^ 32 ∧ none ∉ (List.replicate 16 (yard.job 0)) := by decide +kernel

/-- CANCEL PRINT: a job that its port may cancel, one of another port, one RESERVED, one in hand, a TALLY, and no such job. -/
theorem test_premises_PrintQueueRequests_cancel :
    let code (k : JobKind) : Byte := BitVec.ofNat 8 (jobKindCode k)
    let tally : State := { quiet with
      jobs := quiet.jobs.set 15 (some ⟨.tally, none, some .s0, .queued, 0, false, 0, 0⟩), snapshot := some ⟨yard.tally, 5⟩ }
    let cancelled := after (.cancelPrint .s0 15#8 (code .tally) 0#32) tally
    codeOf .s2 (.cancelPrint .s2 0#8 (code .duplicate) 2#32) yard = some .ok ∧
    codeOf .s2 (.cancelPrint .s2 1#8 (code .duplicate) 2#32) yard = some .role ∧
    (∀ x ∈ [(16#8, .duplicate, 2#32), (0#8, .original, 2#32), (0#8, .duplicate, 3#32), (2#8, .duplicate, 2#32)],
      codeOf .s2 (.cancelPrint .s2 x.1 (code x.2.1) x.2.2) yard = some .range) ∧
    codeOf .s0 (.cancelPrint .s0 0#8 (code .original) 0#32) settling = some .state ∧
    codeOf .s0 (.cancelPrint .s0 0#8 (code .duplicate) 2#32)
      { yard with jobs := yard.jobs.set 0 ((yard.job 0).map (fun j => { j with state := .printing })) } = some .tooLate ∧
    (cancelled.port .s0).result = some ⟨.ok, code .tally :: be 4 0⟩ ∧ cancelled.snapshot = none ∧ cancelled.job 15 = none := by
  decide +kernel

/-- A yard with six COMPLETE entries, of each kind and a damaged one, and the backlog walk at the first. -/
def backlogged : State := { quiet with
  sectors := yard.sectors.set 0 ⟨.filling, some 1, 6, List.replicate 6 .complete ++ List.replicate 10 .blank,
    [1#8, 2#8, 3#8, 9#8] ++ List.replicate 12 1#8⟩
  counter := 7, backlog := some ⟨1, 3⟩ }

/-- The walk stands, passes over an entry, queues one, and goes on at a slot that a cancelled job frees. -/
theorem test_premises_PrintQueueRequests_backlog :
    let full : State := { backlogged with jobs := List.replicate 16 (yard.job 0) }
    let first : State := createJob .original (some 1) none .queued { quiet with jobs := State.reset.jobs }
    (quiet.backlog = none ∧ none ∉ full.jobs ∧ testBacklog full = full) ∧
    (let eight : State := { backlogged with jobs := List.replicate 8 (first.job 0) ++ List.replicate 8 none }
     8 ≤ eight.jobs.countP (fun x => x.any (fun j => j.port.isNone)) ∧ testBacklog eight = eight) ∧
    (let ended : State := { backlogged with backlog := some ⟨5, 4⟩ }
     testBacklog ended = ended) ∧
    (backlogged.entryMark 1 = some .complete ∧ backlogged.lookup 1 = some (0, 0) ∧ backlogged.markPending 1 = false ∧
      backlogged.hasFirstPrint 1 = false) ∧
    ((testBacklog backlogged).jobs.take 4 = [some ⟨.original, some 1, none, .queued, 0, false, 2, 0⟩,
        some ⟨.voidSlip, some 2, none, .queued, 0, false, 3, 0⟩, some ⟨.shiftReport, some 3, none, .queued, 0, false, 4, 0⟩,
        none] ∧ (testBacklog backlogged).backlog = none ∧ (testBacklog backlogged).ageCounter = 5) ∧
    (∀ u ∈ [{ yard with backlog := some ⟨2, 2⟩ }, { backlogged with backlog := some ⟨9, 9⟩ },
        { backlogged with backlog := some ⟨1, 1⟩, pendingMarks := [⟨1, 900⟩] },
        { backlogged with backlog := some ⟨1, 1⟩, jobs := first.jobs }], testBacklog u = { u with backlog := none }) ∧
    (let t := after (.cancelPrint .s2 3#8 (BitVec.ofNat 8 (jobKindCode .duplicate)) 2#32) full
     t.job 3 = some ⟨.original, some 1, none, .queued, 0, false, 2, 0⟩ ∧ t.backlog = some ⟨2, 3⟩) := by decide +kernel

theorem test_premises_SetPriceAnswers : Taking .s0 yard ∧ codeOf .s0 (.setPrice .s0 1#8 99999#24) yard = some .ok := by
  decide +kernel

theorem test_premises_DefineGradeAnswers : Taking .s0 (yardIn .config) ∧
    codeOf .s0 (.defineGrade .s0 64#8 (ascii "LEAD    ") 3#8 72#8 99999#24) (yardIn .config) = some .ok := by decide +kernel

theorem test_premises_ReadGradeAnswers : Taking .s3 yard ∧ codeOf .s3 (.readGrade .s3 1#8) yard = some .ok := by decide +kernel

theorem test_premises_StoredTareRequests : Taking .s0 yard ∧ yard.mode ≠ .starting ∧ Taking .s0 (yardIn .starting) ∧
    31 < (32#8).toNat ∧ (31#8).toNat ≤ 31 ∧
    yard.tareAt 31 = none ∧ yard.tareAt 0 = some ⟨id1, .bridge, 12000, 900⟩ ∧ (0#8).toNat ≤ 31 ∧ idOk 1 10 id1 = true ∧
    yard.tareSlot id1 = some 0 ∧ yard.tareSlot (ascii "X") = none ∧ idOk 1 10 [] = false ∧
    900 + yard.settings.tareValidity * 86400 < 2 ^ 32 ∧
    2 ^ 32 ≤ 4294967295 + yard.settings.tareValidity * 86400 := by decide +kernel

end Sys2Proof.Tests
end

section
/-! PROOFS. The checks of a request as an `if` chain, and the requests on the grade table (R26 to R30). -/

namespace Sys2Proof.Machine

/-! ## The first check of a request -/

/-- The first check refuses exactly in the case that is named `bad`; otherwise the checks behind it decide. -/
theorem guarded_cons_of_iff {ok : Bool} {bad : Prop} [Decidable bad] (h : ok = false ↔ bad) (p : Port) (code : ResultCode)
    (cs : List (Bool × ResultCode)) (f : State → State) (s : State) :
    guarded p ((ok, code) :: cs) f s = if bad then refuse p code s else guarded p cs f s := by
  cases ok with
  | false => rw [guarded_cons_false, if_pos (h.mp rfl)]
  | true => rw [guarded_cons_true, if_neg (fun b => Bool.noConfusion (h.mpr b))]

/-- A taken request that a check refuses is answered with the check's code and no data. -/
theorem refuse_taken (p : Port) (code : ResultCode) (s : State) : refuse p code (taken p s) = answered p code [] s := rfl

/-! ## When a check of a request on the grade table fails -/

/-- The OFFICE check fails for every other role (R181). -/
theorem isOffice_eq_false_iff (s : State) (p : Port) : s.isOffice p = false ↔ s.role p ≠ .office := beq_eq_false_iff_ne

/-- The RUN check fails in every other mode. -/
theorem isRun_eq_false_iff (s : State) : s.isRun = false ↔ s.mode ≠ .run := beq_eq_false_iff_ne

/-- A grade code is out of range when it is 0 or above 64 (R26). -/
theorem gradeOk_eq_false_iff (g : Byte) : gradeOk g = false ↔ g.toNat = 0 ∨ 64 < g.toNat := by
  rw [← Bool.not_eq_true, gradeOk, Bool.and_eq_true, decide_eq_true_iff, decide_eq_true_iff]
  omega

/-- A price is out of range when it is above 99,999 (R26). -/
theorem priceOk_eq_false_iff (n : Nat) : decide (n ≤ maxPrice) = false ↔ 99999 < n := by
  rw [decide_eq_false_iff_not, Nat.not_le, maxPrice]

/-- The RANGE check of SET PRICE: the code or the price is out of range (R28 check 3). -/
theorem setPriceRange_eq_false_iff (g : Byte) (n : Nat) :
    (gradeOk g && decide (n ≤ maxPrice)) = false ↔ g.toNat = 0 ∨ 64 < g.toNat ∨ 99999 < n := by
  rw [Bool.and_eq_false_iff, gradeOk_eq_false_iff, priceOk_eq_false_iff, or_assoc]

/-- The GRADE check fails for a grade that is not both defined and active (R27). -/
theorem gradeActive_eq_false_iff (s : State) (g : Nat) :
    s.gradeActive g = false ↔ ¬ ((s.grade g).defined ∧ (s.grade g).active) := by
  rw [← Bool.not_eq_true, State.gradeActive, Bool.and_eq_true]

/-! ## SET PRICE (R28) -/

/-- A change of the grade table by a taken request replaces the one entry, sets the dirty flag and leaves all else (R30). -/
theorem setGrade_taken (p : Port) (g : Nat) (f : Grade → Grade) (s : State) :
    setGrade g f (taken p s) = { taken p s with
      dirty := true, settings := { s.settings with grades := s.settings.grades.set (g - 1) (f (s.grade g)) } } := rfl

/-- SET PRICE is handed to its owner as a request of its port. -/
theorem exec_setPrice (p : Port) (grade : Byte) (price : Tri) (s : State) :
    exec (.setPrice p grade price) s = request p s (setPrice p grade price) := rfl

/-- SET PRICE with its four checks in order, each by the case that it refuses (R28). -/
theorem setPrice_eq (p : Port) (grade : Byte) (price : Tri) (s : State) :
    setPrice p grade price s =
      if s.role p ≠ .office then refuse p .role s
      else if s.mode ≠ .run then refuse p .mode s
      else if grade.toNat = 0 ∨ 64 < grade.toNat ∨ 99999 < price.toNat then refuse p .range s
      else if ¬ ((s.grade grade.toNat).defined ∧ (s.grade grade.toNat).active) then refuse p .grade s
      else reply p .ok (be 3 (s.grade grade.toNat).live ++ be 3 price.toNat)
        (setGrade grade.toNat (fun e => { e with live := price.toNat }) s) := by
  rw [setPrice, guarded_cons_of_iff (isOffice_eq_false_iff s p), guarded_cons_of_iff (isRun_eq_false_iff s),
    guarded_cons_of_iff (setPriceRange_eq_false_iff grade price.toNat),
    guarded_cons_of_iff (gradeActive_eq_false_iff s grade.toNat), guarded_nil]

/-- Settles O57: the request is taken, its checks read only what taking it left as it was, and the one change is that of
`setGrade_taken`. -/
theorem setPriceAnswers : Obligations.SetPriceAnswers := by
  intro p grade price s taking
  rw [exec_setPrice, request_taking taking, setPrice_eq, taken_role, taken_mode, taken_grade, setGrade_taken]
  simp only [refuse_taken]

end Sys2Proof.Machine
end

section
/-! PROOFS. What notices and a start leave of the port contexts: the shared operations change a port context by its notices
alone. -/

namespace Sys2Proof.Machine

/-! ## The port contexts without their notices -/

/-- A port context without its notices: the queue empty and nothing counted as dropped. -/
def PortCtx.plain (c : PortCtx) : PortCtx := { c with queue := [], overflow := 0 }

/-- Every port context without its notices. -/
def State.plainPorts (s : State) : Port → PortCtx := fun p => (s.port p).plain

@[simp] theorem plain_enqueue (n : Notice) (c : PortCtx) : (enqueue n c).plain = c.plain := by
  unfold enqueue
  split <;> rfl

@[simp] theorem plain_hear (n : Notice) (c : PortCtx) : (hear n c).plain = c.plain := by
  unfold hear
  split
  · split
    · rfl
    · exact plain_enqueue n c
  · rfl

/-- A change of one port that touches its notices alone. -/
theorem plainPorts_updPort {f : PortCtx → PortCtx} (hf : ∀ c, (f c).plain = c.plain) (p : Port) (s : State) :
    (s.updPort p f).plainPorts = s.plainPorts := by
  funext q
  by_cases h : q = p
  · subst h
    exact (congrArg PortCtx.plain (updPort_port_same s q f)).trans (hf _)
  · exact congrArg PortCtx.plain (updPort_port_other s h f)

/-- A fold of steps that change no port context but by its notices. -/
theorem plainPorts_foldl {α : Type} {f : State → α → State} (hf : ∀ s a, (f s a).plainPorts = s.plainPorts) (l : List α)
    (s : State) : (l.foldl f s).plainPorts = s.plainPorts := by
  induction l generalizing s with
  | nil => rfl
  | cons a l ih => exact (ih _).trans (hf s a)

/-! ## Notices and the fault status (R185, R191) -/

@[simp] theorem plainPorts_offerTo (p : Port) (n : Notice) (s : State) : (offerTo p n s).plainPorts = s.plainPorts :=
  plainPorts_updPort (plain_enqueue n) p s

@[simp] theorem plainPorts_broadcast (n : Notice) (s : State) : (broadcast n s).plainPorts = s.plainPorts := by
  funext q
  cases q <;> exact plain_hear n _

@[simp] theorem plainPorts_broadcastOffice (e : Option Port) (n : Notice) (s : State) :
    (broadcastOffice e n s).plainPorts = s.plainPorts := by
  refine plainPorts_foldl (fun s p => ?_) _ s
  split
  · exact plainPorts_updPort (plain_hear n) p s
  · rfl

@[simp] theorem plainPorts_setFault (k : FaultKind) (d : FaultDetail) (s : State) :
    (setFault k d s).plainPorts = s.plainPorts := by
  unfold setFault
  dsimp only
  split
  · exact plainPorts_broadcast ..
  · rfl

/-! ## The print queue and the print engine (R144, R146, R148, R165) -/

@[simp] theorem plainPorts_testBacklog (s : State) : (testBacklog s).plainPorts = s.plainPorts := by
  rw [testBacklog_frame]
  rfl

@[simp] theorem plainPorts_removeJob (slot : Nat) (s : State) : (removeJob slot s).plainPorts = s.plainPorts :=
  plainPorts_testBacklog _

@[simp] theorem plainPorts_offerAbandoned (slot : Nat) (j : Job) (reason : Nat) (s : State) :
    (offerAbandoned slot j reason s).plainPorts = s.plainPorts := by
  refine (plainPorts_broadcastOffice ..).trans ?_
  split
  · exact plainPorts_offerTo ..
  · rfl

@[simp] theorem plainPorts_releaseJob (s : State) : (releaseJob s).plainPorts = s.plainPorts := rfl

@[simp] theorem plainPorts_abandonFetch (reason : Nat) (s : State) : (abandonFetch reason s).plainPorts = s.plainPorts := by
  unfold abandonFetch
  split
  · rfl
  · split
    · exact plainPorts_releaseJob s
    · rw [plainPorts_releaseJob, plainPorts_offerAbandoned, plainPorts_removeJob]

@[simp] theorem plainPorts_updPrinter (f : PrintEngine → PrintEngine) (s : State) :
    (updPrinter f s).plainPorts = s.plainPorts := by
  unfold updPrinter
  dsimp only
  split
  · rfl
  · exact plainPorts_broadcast ..

@[simp] theorem plainPorts_takeJob (slot : Nat) (j : Job) (s : State) : (takeJob slot j s).plainPorts = s.plainPorts := by
  unfold takeJob
  dsimp only
  split <;> rfl

/-! ## The program engine (R127, R128) -/

@[simp] theorem plainPorts_takeRead (r : ReadReq) (s : State) : (takeRead r s).plainPorts = s.plainPorts := by
  cases r with
  | stream p => rfl
  | fetch =>
    unfold takeRead
    dsimp only
    split
    · rfl
    · exact plainPorts_abandonFetch ..

@[simp] theorem plainPorts_beginWrite (w : WriteReq) (s : State) : (beginWrite w s).plainPorts = s.plainPorts := by
  cases w <;> rfl

theorem plainPorts_takeWaiting {s t : State} (h : takeWaiting s = some t) : t.plainPorts = s.plainPorts := by
  unfold takeWaiting at h
  split at h
  · cases h
    exact plainPorts_takeRead ..
  · split at h
    · cases h
      exact plainPorts_beginWrite ..
    · split at h
      · cases h
      · split at h
        · split at h <;> cases h <;> rfl
        · split at h <;> cases h
          rfl

theorem plainPorts_pumpOnce {s t : State} (h : pumpOnce s = some t) : t.plainPorts = s.plainPorts := by
  unfold pumpOnce at h
  split at h
  · obtain ⟨j, -, rfl⟩ := Option.map_eq_some_iff.mp h
    exact plainPorts_takeJob ..
  · split at h
    · cases h
      rfl
    · split at h
      · exact plainPorts_takeWaiting h
      · cases h

@[simp] theorem plainPorts_pump (fuel : Nat) (s : State) : (pump fuel s).plainPorts = s.plainPorts := by
  induction fuel generalizing s with
  | zero => rfl
  | succ fuel ih =>
    unfold pump
    split
    case h_1 t h => exact (ih t).trans (plainPorts_pumpOnce h)
    case h_2 => rfl

/-! ## Modes and the end of an event (R196, R198) -/

@[simp] theorem plainPorts_setMode (m : Mode) (s : State) : (setMode m s).plainPorts = s.plainPorts := plainPorts_broadcast ..

@[simp] theorem plainPorts_offerScaleState (sc : Scale) (s : State) : (offerScaleState sc s).plainPorts = s.plainPorts :=
  plainPorts_broadcast ..

@[simp] theorem plainPorts_updScale (sc : Scale) (f : Channel → Channel) (s : State) :
    (updScale sc f s).plainPorts = s.plainPorts := by
  unfold updScale
  dsimp only
  split
  · rfl
  · exact plainPorts_offerScaleState ..

@[simp] theorem plainPorts_configScale (sc : Scale) (s : State) : (configScale sc s).plainPorts = s.plainPorts := by
  unfold configScale
  split
  · exact plainPorts_updScale ..
  · rfl

@[simp] theorem plainPorts_enterConfigMode (s : State) : (enterConfigMode s).plainPorts = s.plainPorts := by
  have counts (s : State) (p : Port) : (s.updPort p (fun c => { c with overflow := 0 })).plainPorts = s.plainPorts :=
    plainPorts_updPort (fun _ => by rfl) p s
  refine (plainPorts_foldl counts _ _).trans ?_
  simp only [plainPorts_updPrinter, plainPorts_configScale, plainPorts_setMode]

/-- The end of an event changes no port context but by its notices. -/
@[simp] theorem plainPorts_settle (s : State) : (settle s).plainPorts = s.plainPorts := by
  refine Eq.trans ?_ (plainPorts_pump 128 s)
  unfold settle drainTest
  split
  · exact plainPorts_enterConfigMode _
  · rfl

/-! ## Tickets, holds and settlement records (R61, R93, R107, R109) -/

@[simp] theorem plainPorts_examineEntries (hs : List HoldEntry) (s : State) :
    (examineEntries hs s).plainPorts = s.plainPorts := by
  induction hs generalizing s with
  | nil => rfl
  | cons h hs ih =>
    unfold examineEntries
    split
    · exact (ih _).trans (plainPorts_broadcast ..)
    · rfl

@[simp] theorem plainPorts_returnTicket (n : Nat) (s : State) : (returnTicket n s).plainPorts = s.plainPorts := by
  unfold returnTicket
  split
  · rfl
  · split
    · rfl
    · dsimp only
      split
      · split
        · rfl
        · exact plainPorts_broadcast ..
      · exact plainPorts_broadcast ..
      · rfl

@[simp] theorem plainPorts_queueReserved (n : Nat) (s : State) (slot : Nat) :
    (queueReserved n s slot).plainPorts = s.plainPorts := by
  unfold queueReserved
  split <;> rfl

@[simp] theorem plainPorts_tallyCompletion (k : EntryKind) (t : Option Ticket) (n : Nat) (s : State) :
    (tallyCompletion k t n s).plainPorts = s.plainPorts := by
  cases k with
  | payout => cases t <;> rfl
  | void => rfl
  | shift => rfl

@[simp] theorem plainPorts_completeRecord (r : Settlement) (n : Nat) (s : State) :
    (completeRecord r n s).plainPorts = s.plainPorts := by
  unfold completeRecord
  dsimp only
  rw [plainPorts_broadcast, plainPorts_tallyCompletion, plainPorts_foldl (plainPorts_queueReserved n)]
  split <;> rfl

@[simp] theorem plainPorts_failRecord (r : Settlement) (s : State) : (failRecord r s).plainPorts = s.plainPorts := by
  unfold failRecord
  dsimp only
  rw [plainPorts_foldl (fun s slot => plainPorts_removeJob slot s)]
  split
  · exact plainPorts_returnTicket ..
  · rfl

/-! ## The activities of a start (R141, R142, R173, R208) -/

@[simp] theorem plainPorts_coldFaults (s : State) : (coldFaults s).plainPorts = s.plainPorts := by
  unfold coldFaults
  dsimp only
  split <;> simp only [plainPorts_setFault] <;> rfl

@[simp] theorem plainPorts_warmFaults (s : State) : (warmFaults s).plainPorts = s.plainPorts := by
  unfold warmFaults
  split
  · exact plainPorts_setFault ..
  · rfl

@[simp] theorem plainPorts_settleNewest (s : State) : (settleNewest s).plainPorts = s.plainPorts := by
  unfold settleNewest
  split <;> rfl

@[simp] theorem plainPorts_backfillAudited (s : State) : (backfillAudited s).plainPorts = s.plainPorts := by
  unfold backfillAudited
  split
  · rfl
  · refine plainPorts_foldl (fun s e => ?_) _ s
    split <;> rfl

@[simp] theorem plainPorts_startCounter (s : State) : (startCounter s).plainPorts = s.plainPorts := by
  unfold startCounter
  split
  · split <;> rfl
  · rfl

@[simp] theorem plainPorts_evalSpace (s : State) : (evalSpace s).plainPorts = s.plainPorts := by
  unfold evalSpace
  split
  · split
    · rfl
    · exact plainPorts_broadcast ..
  · rfl

@[simp] theorem plainPorts_restartErase (s : State) : (restartErase s).plainPorts = s.plainPorts := by
  unfold restartErase
  split <;> rfl

@[simp] theorem plainPorts_reportTorn (warm : Bool) (torn : List Nat) (s : State) :
    (reportTorn warm torn s).plainPorts = s.plainPorts := by
  unfold reportTorn
  split
  · rfl
  · dsimp only
    split
    · rw [plainPorts_foldl (fun s _ => (rfl : (tallyTorn s).plainPorts = s.plainPorts)), plainPorts_setFault]
    · exact plainPorts_setFault ..

@[simp] theorem plainPorts_scanJournal (warm : Bool) (decay : List (Nat × Byte)) (s : State) :
    (scanJournal warm decay s).plainPorts = s.plainPorts := by
  unfold scanJournal
  dsimp only
  rw [plainPorts_restartErase, plainPorts_evalSpace, plainPorts_startCounter, plainPorts_backfillAudited,
    plainPorts_settleNewest, plainPorts_reportTorn]
  rfl

@[simp] theorem plainPorts_startScales (s : State) : (startScales s).plainPorts = s.plainPorts := by
  refine plainPorts_foldl (fun s sc => ?_) _ _
  unfold offerLeft
  split
  · exact plainPorts_offerScaleState ..
  · rfl

@[simp] theorem plainPorts_resolveRecord (s : State) (r : Settlement) : (resolveRecord s r).plainPorts = s.plainPorts := by
  unfold resolveRecord
  split
  · exact plainPorts_completeRecord ..
  · exact plainPorts_failRecord ..

@[simp] theorem plainPorts_warmResolve (s : State) : (warmResolve s).plainPorts = s.plainPorts :=
  (plainPorts_examineEntries ..).trans (plainPorts_foldl plainPorts_resolveRecord s.settlements s)

@[simp] theorem plainPorts_warmTickets (s : State) : (warmTickets s).plainPorts = s.plainPorts := rfl

theorem plainPorts_jobs (s : State) (js : List (Option Job)) : { s with jobs := js }.plainPorts = s.plainPorts := rfl

@[simp] theorem plainPorts_warmActivities (decay : List (Nat × Byte)) (s : State) :
    (warmActivities decay s).plainPorts = s.plainPorts := by
  unfold warmActivities
  dsimp only
  rw [plainPorts_warmResolve, plainPorts_testBacklog, plainPorts_warmTickets, plainPorts_startScales, plainPorts_jobs,
    plainPorts_scanJournal, plainPorts_warmFaults]

@[simp] theorem plainPorts_setBacklog (s : State) : (setBacklog s).plainPorts = s.plainPorts := by
  unfold setBacklog
  split
  · exact plainPorts_testBacklog _
  · rfl

@[simp] theorem plainPorts_rebuildTally (s : State) : (rebuildTally s).plainPorts = s.plainPorts := rfl

@[simp] theorem plainPorts_coldActivities (decay : List (Nat × Byte)) (s : State) :
    (coldActivities decay s).plainPorts = s.plainPorts := by
  rw [coldActivities, plainPorts_rebuildTally, plainPorts_setBacklog, plainPorts_startScales, plainPorts_scanJournal,
    plainPorts_coldFaults]

/-! ## A start (R175, R208) -/

/-- A port context that is set up, which holds no notice, is as R175 sets it up from the port's settings. -/
theorem plainPorts_startPorts (s : State) (q : Port) :
    (startPorts s).plainPorts q = startPort (s.portSettings q) (s.port q) := by
  cases q <;> rfl

/-- What a start leaves of a port context, its notices aside, is what R175 sets up. -/
theorem plainPorts_startPart (retained sense : Bool) (decay : List (Nat × Byte)) (s : State) (q : Port) :
    ∃ cfg, (startPart retained sense decay s).plainPorts q = startPort cfg (s.port q) := by
  unfold startPart
  dsimp only
  rw [plainPorts_settle, plainPorts_setMode]
  split
  · exact ⟨_, (congrFun (plainPorts_warmActivities ..) q).trans (plainPorts_startPorts _ q)⟩
  · exact ⟨_, (congrFun (plainPorts_coldActivities ..) q).trans (plainPorts_startPorts _ q)⟩

/-- A start is carried out whole, in every state. -/
theorem exec_start (retained sense : Bool) (decay : List (Nat × Byte)) (s : State) :
    exec (.start retained sense decay) s = .next (startPart retained sense decay s) := rfl

theorem startPart_overrun (retained sense : Bool) (decay : List (Nat × Byte)) (s : State) (q : Port) :
    ((startPart retained sense decay s).port q).overrun = false := by
  obtain ⟨cfg, h⟩ := plainPorts_startPart retained sense decay s q
  exact congrArg PortCtx.overrun h

theorem startPart_enabled (retained sense : Bool) (decay : List (Nat × Byte)) (s : State) (q : Port) :
    ((startPart retained sense decay s).port q).enabled = true := by
  obtain ⟨cfg, h⟩ := plainPorts_startPart retained sense decay s q
  exact congrArg PortCtx.enabled h

end Sys2Proof.Machine
end

section
/-! PROOFS. The station ports: what a BUSY port does with frames, and PORT ENABLE (R178, R183). -/

namespace Sys2Proof.Machine

/-! ## Requests on a BUSY port (R178) -/

/-- The command of a well-formed request frame is a request of its port. -/
theorem exec_of_requestPort {c : Instr} {p : Port} (h : requestPort c = some p) (s : State) :
    ∃ f, exec c s = request p s f := by
  cases c <;> cases h <;> exact ⟨_, rfl⟩

/-- A malformed frame is answered FORMAT by a port that takes it (R177). -/
theorem exec_malformedFrame {p : Port} {s : State} (powered : s.powered = true) :
    exec (.malformedFrame p) s = .next (takeFrame p (refuse p .format) s) := event_powered powered _

/-- A request frame on a BUSY port, well formed or not, clocks out the summary byte and sets the overrun flag. -/
theorem exec_requestFrame_busy {c : Instr} {p : Port} {s : State} (frame : requestPort c = some p ∨ c = .malformedFrame p)
    (powered : s.powered = true) (busy : (s.port p).state = .busy) :
    exec c s = .next (s.updPort p (fun x => { x with overrun := true, summaryOut := summaryByte x, dataOut := [] })) := by
  have discarded : (beginFrame p s).updPort p (fun c => { c with overrun := true }) =
      s.updPort p (fun x => { x with overrun := true, summaryOut := summaryByte x, dataOut := [] }) := updPort_updPort ..
  rcases frame with request | rfl
  · obtain ⟨f, owner⟩ := exec_of_requestPort request s
    rw [owner, request_busy powered busy, discarded]
  · rw [exec_malformedFrame powered, takeFrame_busy busy, discarded]

/-! ## Immediate reads (R176, R179, R188) -/

/-- A port's state, its overrun flag and the summary byte of its latest frame. -/
def PortCtx.status (c : PortCtx) : PortState × Bool × Byte := (c.state, c.overrun, c.summaryOut)

/-- A frame has put out the summary byte of a port, and left the port's state and its overrun flag. -/
abbrev SummaryRead (p : Port) (s t : State) : Prop :=
  (t.port p).status = ((s.port p).state, (s.port p).overrun, summaryByte (s.port p))

theorem summaryRead_iff {p : Port} {s t : State} : SummaryRead p s t ↔ (t.port p).state = (s.port p).state ∧
    (t.port p).overrun = (s.port p).overrun ∧ (t.port p).summaryOut = summaryByte (s.port p) := by
  simp only [SummaryRead, PortCtx.status, Prod.mk.injEq]

/-- A change of one port that leaves its status. -/
theorem status_updPort {f : PortCtx → PortCtx} (hf : ∀ c, (f c).status = c.status) (p : Port) (s : State) :
    ((s.updPort p f).port p).status = (s.port p).status :=
  (congrArg PortCtx.status (updPort_port_same s p f)).trans (hf _)

theorem summaryRead_beginFrame (p : Port) (s : State) : SummaryRead p s (beginFrame p s) :=
  congrArg PortCtx.status (updPort_port_same s p _)

theorem summaryRead_answerRead (p : Port) (bytes : List Byte) (n : Nat) (s : State) :
    SummaryRead p s (answerRead p bytes n s) := congrArg PortCtx.status (updPort_port_same s p _)

/-- READ RESULT of a port that is not DONE only answers. -/
theorem readResult_of_not_done {p : Port} {s : State} (notDone : (s.port p).state ≠ .done) (n : Nat) :
    readResult p n s = answerRead p (resultReply (s.port p)) n s := if_neg (fun h => notDone h.1)

/-- READ RESULT that returns the whole result clears the overrun flag. -/
theorem readResult_overrun {p : Port} {n : Nat} {s : State} (done : (s.port p).state = .done)
    (whole : (resultReply (s.port p)).length ≤ n) : ((readResult p n s).port p).overrun = false := by
  unfold readResult
  dsimp only
  rw [if_pos ⟨done, whole⟩, updPort_port_same]

theorem summaryRead_readNotice (p : Port) (n : Nat) (s : State) : SummaryRead p s (readNotice p n s) := by
  unfold readNotice
  dsimp only
  split
  · exact (status_updPort (fun _ => by rfl) p _).trans (summaryRead_answerRead ..)
  · exact summaryRead_answerRead ..

/-! ## READ JOURNAL (R137) -/

theorem status_sendBlock (p : Port) (bytes : List Byte) (s : State) :
    ((sendBlock p bytes s).port p).status = (s.port p).status := status_updPort (fun _ => by rfl) p s

theorem status_moveStream (p : Port) (n : Nat) (s : State) : ((moveStream p n s).port p).status = (s.port p).status := by
  unfold moveStream
  split
  · exact status_updPort (fun _ => by rfl) p s
  · exact (status_sendBlock ..).trans (status_updPort (fun _ => by rfl) p s)

theorem status_blockBoundary (p : Port) (n : Nat) (s : State) :
    ((blockBoundary p n s).port p).status = (s.port p).status := by
  refine Eq.trans ?_ (status_moveStream p n s)
  unfold blockBoundary
  dsimp only
  split <;> rfl

theorem status_endStream (p : Port) (s : State) : ((endStream p s).port p).status = (s.port p).status :=
  status_updPort (f := fun c => { c with stream := none }) (fun _ => rfl) p s

theorem status_settle (p : Port) (s : State) : ((settle s).port p).status = (s.port p).status := by
  show ((settle s).plainPorts p).status = (s.plainPorts p).status
  rw [plainPorts_settle]

/-- Opening a stream puts out the summary byte and leaves the port's state and its overrun flag. -/
theorem summaryRead_openStream (p : Port) (n : Nat) (s : State) : SummaryRead p s (openStream p n s) := by
  have ended : SummaryRead p s (endStream p (beginFrame p s)) := (status_endStream ..).trans (summaryRead_beginFrame p s)
  unfold openStream
  dsimp only
  split
  · exact (status_sendBlock ..).trans ended
  · exact (status_blockBoundary ..).trans ended

/-- An immediate read of a port that is not DONE puts out the summary byte and leaves the port's state and its overrun flag. -/
theorem exec_immediateRead {p : Port} {n : Nat} {receipt : Word} {s : State} (powered : s.powered = true)
    (notDone : (s.port p).state ≠ .done) {c : Instr}
    (hc : c ∈ [Instr.readStatus p n, .readResult p n, .readNotice p n, .readJournal p receipt]) :
    ∃ t, exec c s = .next t ∧ SummaryRead p s t := by
  simp only [List.mem_cons, List.not_mem_nil, or_false] at hc
  rcases hc with rfl | rfl | rfl | rfl
  · exact ⟨_, event_powered powered _, summaryRead_answerRead ..⟩
  · refine ⟨_, event_powered powered _, ?_⟩
    rw [readResult_of_not_done notDone]
    exact summaryRead_answerRead ..
  · exact ⟨_, event_powered powered _, summaryRead_readNotice ..⟩
  · exact ⟨_, event_powered powered (fun s => settle (openStream p receipt.toNat s)),
      (status_settle p _).trans (summaryRead_openStream ..)⟩

/-- Settles O9: a BUSY port discards each request frame, and its overrun flag falls with a whole result or a start, not with an
immediate read. -/
theorem busyPortDiscardsRequests : Obligations.BusyPortDiscardsRequests := by
  refine ⟨fun c p s frame powered busy => exec_requestFrame_busy frame powered busy,
    fun p n s powered done whole => ⟨_, event_powered powered _, readResult_overrun done whole⟩,
    fun p retained sense decay s => ⟨_, exec_start .., startPart_overrun retained sense decay s p⟩,
    fun p n receipt s powered busy c hc => ?_⟩
  obtain ⟨t, next, status⟩ := exec_immediateRead powered (by simp [busy]) hc
  obtain ⟨state, overrun, summary⟩ := summaryRead_iff.mp status
  exact ⟨t, next, summary, overrun, state.trans busy⟩

/-! ## PORT ENABLE (R183) -/

/-- The mode check fails in STARTING alone. -/
theorem started_eq_false_iff (s : State) : s.started = false ↔ s.mode = .starting := by
  rw [State.started, bne_eq_false_iff_eq]

/-- PORT ENABLE is handed to its owner as a request of its port. -/
theorem exec_portEnable (p : Port) (port : Byte) (s : State) :
    exec (.portEnable p port) s = request p s (portEnable p port) := rfl

/-- Taking a request leaves the enabled flag of every port. -/
theorem taken_enabled (p q : Port) (s : State) : ((taken p s).port q).enabled = (s.port q).enabled := by
  by_cases h : q = p
  · rw [h, taken_eq, updPort_port_same]
  · rw [taken_eq, updPort_port_other _ h]

/-- PORT ENABLE with its checks in order, each by the case that it refuses (R183). The `rfl` is for a module of its own, where the
statement's `match` is not the definition's. -/
theorem portEnable_eq (p : Port) (port : Byte) (s : State) :
    portEnable p port s =
      if s.role p ≠ .office then refuse p .role s
      else if s.mode = .starting then refuse p .mode s
      else match portOf port with
        | none => refuse p .range s
        | some q => reply p .ok [flag (s.port q).enabled] (s.updPort q (fun c => { c with enabled := true })) := by
  rw [portEnable, guarded_cons_of_iff (isOffice_eq_false_iff s p), guarded_cons_of_iff (started_eq_false_iff s), guarded_nil] <;>
    rfl

/-- Settles O15: the request is taken and its checks read what taking it left; every start sets up every port enabled. -/
theorem portEnableAnswers : Obligations.PortEnableAnswers := by
  refine ⟨fun p port s taking => ?_,
    fun q retained sense decay s => ⟨_, exec_start .., startPart_enabled retained sense decay s q⟩⟩
  rw [exec_portEnable, request_taking taking, portEnable_eq, taken_role, taken_mode]
  simp only [taken_enabled, refuse_taken] <;> rfl

end Sys2Proof.Machine
end

section
/-! PROOFS. Every command answers a next state, and it keeps the queue and the shape of the state. -/

namespace Sys2Proof.Machine

/-! ## Commands that keep -/

/-- An outcome of a state is a next state, which keeps its queue and its shape. -/
abbrev Completes (s : State) (o : Host.Outcome State Fault Refusal) : Prop := ∃ t, o = .next t ∧ Keeps s t

/-- A command that is an event completes, by what the event's effect keeps. -/
theorem completes_event {o : Host.Outcome State Fault Refusal} {s : State} {f : State → State} (h : o = event s f) (hf : Keeps s (f s)) :
    Completes s o := ⟨_, h, .ite hf (.refl s)⟩

/-- A command that is a request completes, by what its owner keeps. -/
theorem completes_request {o : Host.Outcome State Fault Refusal} {p : Port} {s : State} {f : State → State} (h : o = request p s f)
    (hf : ∀ s, Keeps s (f s)) : Completes s o :=
  completes_event h (keeps_takeFrame p (fun s => .ite (hf s) (keeps_refuse ..)) s)

theorem silenceEvent_keeps (sc : Scale) (s : State) : Completes s (execSilenceEvent sc s) :=
  completes_event rfl (.ite (.refl s)
    ((keeps_updChan s sc _).trans ((keeps_takeBad sc .silence _).trans (keeps_drainTest _))))

theorem recordWritten_keeps (sc : Scale) (cells : Cells) (s : State) : Completes s (execCalibrationRecordWritten sc cells s) := by
  refine completes_event rfl ?_
  split
  · exact .ite (keeps_recordWritten ..) (.refl s)
  · exact .refl s

theorem lockWritten_keeps (sc : Scale) (cells : Cells) (s : State) : Completes s (execCalibrationLockWritten sc cells s) := by
  refine completes_event rfl ?_
  split
  · exact .ite (keeps_lockWritten ..) (.refl s)
  · exact .refl s

theorem clockAdvance_keeps (s : State) : Completes s (execClockAdvance s) := by
  by_cases last : s.clock < lastSecond
  · refine ⟨_, if_pos last, ?_⟩
    exact (keeps_clock last).trans (.ite (keeps_examineHolds _) (.refl _))
  · exact ⟨_, if_neg last, .refl s⟩

theorem printedMark_keeps (cells time : Cells) (s : State) : Completes s (execPrintedMark cells time s) := by
  refine completes_event rfl ?_
  split
  · split
    · exact keeps_markPrinted ..
    · exact (keeps_endOp s).trans ((keeps_dropMark _).trans (keeps_settle _))
  · exact .refl s

theorem auditMark_keeps (cells : Cells) (s : State) : Completes s (execAuditMark cells s) := by
  refine completes_event rfl ?_
  split
  · split
    · exact keeps_markAudited ..
    · exact (keeps_endOp s).trans ((keeps_auditDone ..).trans (keeps_settle _))
  · exact .refl s

theorem eraseAheadStart_keeps (s : State) : Completes s (execEraseAheadStart s) := by
  refine completes_event rfl ?_
  split
  · exact .ite (keeps_startErase ..) (.refl s)
  · exact .refl s

theorem eraseResume_keeps (s : State) : Completes s (execEraseResume s) := by
  refine completes_event rfl ?_
  split
  · exact .ite (.same rfl) (.refl s)
  · exact .refl s

theorem blankCheck_keeps (decay : List (Nat × Byte)) (s : State) : Completes s (execBlankCheck decay s) := by
  refine completes_event rfl ?_
  split
  · exact keeps_blankRead ..
  · exact .refl s

theorem eraseDone_keeps (remains : List (Nat × Byte)) (s : State) : Completes s (execEraseDone remains s) := by
  refine completes_event rfl ?_
  split
  · exact keeps_eraseVerified ..
  · exact .refl s

theorem printFetch_keeps (decay : List (Nat × Byte)) (s : State) : Completes s (execPrintFetch decay s) := by
  refine completes_event rfl ?_
  split
  · exact (keeps_endOp s).trans ((keeps_fetchRead ..).trans (keeps_settle _))
  · exact .refl s

theorem endOfJobSent_keeps (s : State) : Completes s (execEndOfJobSent s) :=
  completes_event rfl (.ite (.same rfl) (.refl s))

theorem ack_keeps (s : State) : Completes s (execAck s) := by
  refine completes_event rfl ((keeps_updPrinter answerQuery s).trans (.trans ?_ (keeps_settle _)))
  split
  · exact .ite (keeps_finishJob ..) (.refl _)
  · exact .refl _

theorem err_keeps (s : State) : Completes s (execErr s) :=
  completes_event rfl ((keeps_updPrinter answerQuery s).trans
    (.trans (.ite (keeps_countAttempt ..) (.refl _)) (keeps_settle _)))

theorem storeErase_keeps (good : Bool) (s : State) : Completes s (execStoreErase good s) := by
  refine completes_event rfl ?_
  split
  · exact keeps_storeErased good ‹_›
  · exact .refl s

theorem storeImageProgram_keeps (good : Bool) (s : State) : Completes s (execStoreImageProgram good s) := by
  refine completes_event rfl ?_
  split
  · exact keeps_imageProgrammed good ‹_›
  · exact .refl s

theorem storeValidMark_keeps (good : Bool) (s : State) : Completes s (execStoreValidMark good s) := by
  refine completes_event rfl ?_
  split
  · exact keeps_markProgrammed good ‹_›
  · exact .refl s

theorem digitizerFrame_keeps (sc : Scale) (bytes : List RxByte) (s : State) : Completes s (execDigitizerFrame sc bytes s) :=
  completes_event rfl ((keeps_foldl _ (keeps_takeByte sc) bytes s).trans (keeps_drainTest _))

theorem captureTimeout_keeps (sc : Scale) (s : State) : Completes s (execCaptureTimeout sc s) :=
  completes_event rfl ((keeps_failArmed sc .timeout s).trans (keeps_drainTest _))

theorem readJournal_keeps (p : Port) (receipt : Word) (s : State) : Completes s (execReadJournal p receipt s) :=
  completes_event rfl ((keeps_openStream p _ s).trans (keeps_settle _))

theorem journalStreamRead_keeps (p : Port) (decay : List (Nat × Byte)) (s : State) : Completes s (execJournalStreamRead p decay s) :=
  completes_event rfl ((keeps_reachBoundary p s).trans (keeps_endStreamRead p decay _))

theorem streamEnd_keeps (p : Port) (s : State) : Completes s (execStreamEnd p s) :=
  completes_event rfl ((keeps_endStream p s).trans (keeps_settle _))

theorem paperLow_keeps (s : State) : Completes s (execPaperLow s) :=
  completes_event rfl ((keeps_updPrinter _ s).trans (keeps_settle _))

theorem ready_keeps (s : State) : Completes s (execReady s) :=
  completes_event rfl ((keeps_updPrinter printerReady s).trans (keeps_settle _))

theorem statusQueryTimeout_keeps (s : State) : Completes s (execStatusQueryTimeout s) :=
  completes_event rfl (.ite ((keeps_updPrinter printerReady s).trans (keeps_settle _)) (.refl s))

theorem responseTimeout_keeps (s : State) : Completes s (execResponseTimeout s) :=
  completes_event rfl (.ite ((keeps_countAttempt true s).trans (keeps_settle _)) (.refl s))

/-- Every command completes, and keeps the queue and the shape: one arm for each, by what its meaning is built from. -/
theorem exec_completes (c : Instr) (s : State) : Completes s (exec c s) := by
  cases c with
  | digitizerFrame sc bytes => exact digitizerFrame_keeps sc bytes s
  | silenceEvent sc => exact silenceEvent_keeps sc s
  | captureTimeout sc => exact captureTimeout_keeps sc s
  | readStatus p clocked => exact completes_event rfl (keeps_answerRead p _ clocked s)
  | readResult p clocked => exact completes_event rfl (keeps_readResult p clocked s)
  | readNotice p clocked => exact completes_event rfl (keeps_readNotice p clocked s)
  | readJournal p receipt => exact readJournal_keeps p receipt s
  | journalStreamRead p decay => exact journalStreamRead_keeps p decay s
  | streamEnd p => exact streamEnd_keeps p s
  | malformedFrame p => exact completes_event rfl (keeps_takeFrame p (keeps_refuse p .format) s)
  | openTicket _ _ _ => exact completes_request rfl (fun _ => keeps_openTicket ..)
  | setVehicle _ _ _ => exact completes_request rfl (fun _ => keeps_setVehicle ..)
  | setSeller _ _ _ => exact completes_request rfl (fun _ => keeps_setSeller ..)
  | weigh _ _ _ _ _ => exact completes_request rfl (fun _ => keeps_weigh ..)
  | weighStoreTare _ _ _ => exact completes_request rfl (fun _ => keeps_weighStoreTare ..)
  | cancelWeigh _ _ => exact completes_request rfl (fun _ => keeps_cancelWeigh ..)
  | readScale _ _ => exact completes_request rfl (fun _ => keeps_readScale ..)
  | zeroScale _ _ => exact completes_request rfl (fun _ => keeps_zeroScale ..)
  | restoreScale _ _ => exact completes_request rfl (fun _ => keeps_restoreScale ..)
  | calibrate _ _ _ _ _ _ _ _ => exact completes_request rfl (fun _ => keeps_calibrate ..)
  | calibrationRecordWritten sc cells => exact recordWritten_keeps sc cells s
  | lockCalibration _ _ => exact completes_request rfl (fun _ => keeps_lockCalibration ..)
  | calibrationLockWritten sc cells => exact lockWritten_keeps sc cells s
  | scaleSettings _ _ _ _ _ _ _ => exact completes_request rfl (fun _ => keeps_scaleSettingsRequest ..)
  | dockLine _ _ _ _ => exact completes_request rfl (fun _ => keeps_dockLine ..)
  | closeOnStoredTare _ _ _ => exact completes_request rfl (fun _ => keeps_closeOnStoredTare ..)
  | voidTicket _ _ _ => exact completes_request rfl (fun _ => keeps_voidTicket ..)
  | readTicket _ _ _ => exact completes_request rfl (fun _ => keeps_readTicket ..)
  | listTickets _ _ => exact completes_request rfl (fun _ => keeps_listTickets ..)
  | claimTicket _ _ => exact completes_request rfl (fun _ => keeps_claimTicket ..)
  | releaseTicket _ _ => exact completes_request rfl (fun _ => keeps_releaseTicket ..)
  | claimExpiry ticket => exact completes_event rfl (keeps_expireClaim ticket.toNat s)
  | endHold _ _ => exact completes_request rfl (fun _ => keeps_endHold ..)
  | extendHold _ _ _ => exact completes_request rfl (fun _ => keeps_extendHold ..)
  | setClock _ _ => exact completes_request rfl (fun _ => keeps_setClock ..)
  | readClock _ => exact completes_request rfl (fun _ => keeps_readClock ..)
  | clockAdvance => exact clockAdvance_keeps s
  | settleTicket _ _ => exact completes_request rfl (fun _ => keeps_settleTicket ..)
  | commitHeader cells torn check => exact completes_event rfl (keeps_endStep .header cells torn check s)
  | commitBody cells torn check => exact completes_event rfl (keeps_endStep .body cells torn check s)
  | commitComplete cells torn check => exact completes_event rfl (keeps_endStep .complete cells torn check s)
  | printedMark cells time => exact printedMark_keeps cells time s
  | auditThrough _ _ => exact completes_request rfl (fun _ => keeps_auditThrough ..)
  | auditMark cells => exact auditMark_keeps cells s
  | eraseAheadStart => exact eraseAheadStart_keeps s
  | eraseResume => exact eraseResume_keeps s
  | blankCheck decay => exact blankCheck_keeps decay s
  | eraseDone remains => exact eraseDone_keeps remains s
  | readJournalState _ => exact completes_request rfl (fun _ => keeps_readJournalState ..)
  | printFetch decay => exact printFetch_keeps decay s
  | endOfJobSent => exact endOfJobSent_keeps s
  | responseTimeout => exact responseTimeout_keeps s
  | ack => exact ack_keeps s
  | err => exact err_keeps s
  | paperLow => exact paperLow_keeps s
  | paperOut => exact completes_event rfl (keeps_pauseEngine _ s)
  | coverOpen => exact completes_event rfl (keeps_pauseEngine _ s)
  | ready => exact ready_keeps s
  | statusQueryTimeout => exact statusQueryTimeout_keeps s
  | retryWait slot => exact completes_event rfl (keeps_retryEnded slot s)
  | printReceipt _ _ => exact completes_request rfl (fun _ => keeps_printReceipt ..)
  | cancelPrint _ _ _ _ => exact completes_request rfl (fun _ => keeps_cancelPrint ..)
  | listPrintQueue _ => exact completes_request rfl (fun _ => keeps_listPrintQueue ..)
  | readPrinter _ => exact completes_request rfl (fun _ => keeps_readPrinter ..)
  | restorePrinter _ => exact completes_request rfl (fun _ => keeps_restorePrinter ..)
  | closeShift _ => exact completes_request rfl (fun _ => keeps_closeShift ..)
  | readTally _ _ _ => exact completes_request rfl (fun _ => keeps_readTally ..)
  | setPrice _ _ _ => exact completes_request rfl (fun _ => keeps_setPrice ..)
  | defineGrade _ _ _ _ _ _ => exact completes_request rfl (fun _ => keeps_defineGrade ..)
  | readGrade _ _ => exact completes_request rfl (fun _ => keeps_readGrade ..)
  | deleteTare _ _ => exact completes_request rfl (fun _ => keeps_deleteTare ..)
  | readTare _ _ => exact completes_request rfl (fun _ => keeps_readTare ..)
  | setFilter _ _ _ => exact completes_request rfl (fun _ => keeps_setFilter ..)
  | setRole _ _ _ _ _ _ => exact completes_request rfl (fun _ => keeps_setRole ..)
  | portEnable _ _ => exact completes_request rfl (fun _ => keeps_portEnable ..)
  | portDisable _ _ => exact completes_request rfl (fun _ => keeps_portDisable ..)
  | readFault _ => exact completes_request rfl (fun _ => keeps_readFault ..)
  | clearFault _ _ _ => exact completes_request rfl (fun _ => keeps_clearFault ..)
  | setHeader _ _ _ => exact completes_request rfl (fun _ => keeps_setHeader ..)
  | setFirstReceipt _ _ _ _ _ _ => exact completes_request rfl (fun _ => keeps_setFirstReceipt ..)
  | enterConfig _ => exact completes_request rfl (fun _ => keeps_enterConfig ..)
  | leaveConfig _ => exact completes_request rfl (fun _ => keeps_leaveConfig ..)
  | storeSettings _ => exact completes_request rfl (fun _ => keeps_storeSettings ..)
  | storeErase good => exact storeErase_keeps good s
  | storeImageProgram good => exact storeImageProgram_keeps good s
  | storeValidMark good => exact storeValidMark_keeps good s
  | mainSupplyLoss cut => exact ⟨_, rfl, (keeps_stopPart cut s).trans (.same rfl)⟩
  | resetNLow cut => exact ⟨_, rfl, (keeps_stopPart cut s).trans (.same rfl)⟩
  | start retained sense decay => exact ⟨_, rfl, keeps_startPart retained sense decay s⟩

theorem keeps_exec {c : Instr} {s t : State} (h : exec c s = .next t) : Keeps s t := by
  obtain ⟨u, next, keeps⟩ := exec_completes c s
  cases h.symm.trans next
  exact keeps

/-- Settles O3. -/
theorem commandsCompleteAndLeaveTheQueue : Obligations.CommandsCompleteAndLeaveTheQueue :=
  ⟨fun c s => (exec_completes c s).imp fun _ h => h.1, fun _ _ _ h => (keeps_exec h).pending⟩

/-! ## Steps -/

/-- A queue alone does not touch the shape. -/
theorem sound_pending {s : State} (h : s.Sound) (cs : List Instr) : State.Sound { s with pending := cs } :=
  ⟨h.arrays, h.tables, h.ports, h.clock⟩

theorem sound_tickMs {s : State} (h : s.Sound) : (tickMs s).Sound := ⟨h.arrays, h.tables, h.ports, h.clock⟩

theorem sound_tickSecond {s : State} (h : s.Sound) : (tickSecond s).Sound :=
  ⟨h.arrays, { h.tables with tickets := by simpa [tickSecond] using h.tables.tickets,
                             jobs := by simpa [tickSecond] using h.tables.jobs }, h.ports, h.clock⟩

theorem sound_ite {s t : State} {c : Prop} [Decidable c] (hs : s.Sound) (ht : t.Sound) : (if c then s else t).Sound := by
  split
  · exact hs
  · exact ht

/-- A millisecond keeps the shape: the timers count, and the queue grows. -/
theorem sound_tick {s : State} (h : s.Sound) : (tick s).Sound := by
  unfold tick
  generalize (s.msPhase + 1 == 1000) = second
  have counted : State.Sound { s with msPhase := if second then 0 else s.msPhase + 1 } :=
    ⟨h.arrays, h.tables, h.ports, h.clock⟩
  have ticked := sound_ite (c := s.powered = true) (sound_tickMs counted) counted
  have advances {u : State} (h : u.Sound) : State.Sound { u with pending := u.pending ++ [.clockAdvance] } := sound_pending h _
  have queued := sound_ite (c := second = true) (advances ticked) ticked
  exact sound_ite (sound_tickSecond queued) queued

/-- Settles O4: the front command keeps the shape by `keeps_exec`, and a millisecond by `sound_tick`. -/
theorem stepKeepsSound : Obligations.StepKeepsSound := by
  intro s t sound next
  unfold step at next
  split at next
  · cases next
    exact sound_tick sound
  · exact (keeps_exec next).sound (sound_pending sound _)

/-- Settles O1. -/
theorem stepRunsFront : Obligations.StepRunsFront := by
  intro c cs s front
  rw [step, front]

end Sys2Proof.Machine
end

section
/-! PROOFS. The state after reset. -/

namespace Sys2Proof.Machine

theorem sound_portReset : PortCtx.reset.Sound := ⟨by decide, Nat.zero_le _⟩

/-- Settles O5: the arrays are blank, every table is a list of its size, and five notices wait. -/
theorem resetIsSound : Obligations.ResetIsSound where
  arrays := ⟨rfl, rfl, rfl, rfl⟩
  tables :=
    { settings := sound_default
      image := fun _ h => nomatch h
      staged := fun _ h => nomatch h
      tares := List.length_replicate
      tickets := Nat.zero_le _
      sectors := ⟨List.length_replicate, fun _ h => List.eq_of_mem_replicate h ▸ List.length_replicate⟩
      jobs := List.length_replicate
      faults := rfl }
  ports := ⟨sound_portReset, sound_portReset, sound_portReset, sound_portReset⟩
  clock := Nat.zero_le _

/-- Settles O6: the values that `State.reset` lists, and those that its blank journal gives. -/
theorem resetValues : Obligations.ResetValues := by
  refine ⟨rfl, rfl, rfl, rfl, rfl, rfl, by decide, by decide, rfl, rfl, rfl, rfl, rfl, rfl, rfl, rfl, rfl, rfl, by decide,
    by decide, fun sc => by cases sc <;> exact ⟨rfl, rfl⟩, rfl, rfl, rfl, rfl, rfl, 
    fun p => by cases p <;> exact ⟨rfl, rfl, rfl, rfl⟩, by decide, rfl, rfl, rfl⟩
end Sys2Proof.Machine
end

section
/-! PROOFS. A step on an empty queue is one millisecond. -/

namespace Sys2Proof.Machine

/-- What an optional value has, decided. -/
theorem decide_exists_mem {α : Type} (o : Option α) (f : α → Prop) [DecidablePred f] [Decidable (∃ x ∈ o, f x)] :
    decide (∃ x ∈ o, f x) = o.any (fun x => decide (f x)) := by
  cases o <;> simp

/-- The thousandth millisecond of a powered part runs every timer. -/
theorem tick_second {s : State} (on : s.powered = true) (second : s.msPhase + 1 = 1000) :
    tick s = tickSecond { tickMs { s with msPhase := 0 } with
      pending := (tickMs { s with msPhase := 0 }).pending ++ [.clockAdvance] } := by
  have thousandth : (s.msPhase + 1 == 1000) = true := beq_iff_eq.mpr second
  have powered (n : Nat) : State.powered { s with msPhase := n } = true := on
  have timed (n : Nat) (cs : List Instr) : State.powered { tickMs { s with msPhase := n } with pending := cs } = true := on
  simp only [tick, thousandth, powered, timed, if_true, Bool.and_self]

/-- Any other millisecond of a powered part runs the silence timers. -/
theorem tick_ms {s : State} (on : s.powered = true) (second : s.msPhase + 1 ≠ 1000) :
    tick s = tickMs { s with msPhase := s.msPhase + 1 } := by
  have other : (s.msPhase + 1 == 1000) = false := beq_false_of_ne second
  unfold tick
  rw [other]
  exact if_pos on

/-- Without power the yard clock alone is timed. -/
theorem tick_off {s : State} (off : s.powered = false) :
    tick s = { s with
      msPhase := if s.msPhase + 1 = 1000 then 0 else s.msPhase + 1
      pending := s.pending ++ if s.msPhase + 1 = 1000 then [.clockAdvance] else [] } := by
  have unpowered (n : Nat) : State.powered { s with msPhase := n } = false := off
  have unpowered' (n : Nat) (cs : List Instr) : State.powered { s with msPhase := n, pending := cs } = false := off
  by_cases second : s.msPhase + 1 = 1000
  · have thousandth : (s.msPhase + 1 == 1000) = true := beq_iff_eq.mpr second
    simp only [tick, second, unpowered, unpowered', if_true, Bool.false_eq_true, if_false, Bool.and_false, beq_self_eq_true]
  · have other : (s.msPhase + 1 == 1000) = false := beq_false_of_ne second
    simp only [tick, other, second, unpowered, Bool.false_eq_true, if_false, Bool.false_and, List.append_nil]

/-- The silence timers that the next millisecond brings to 250. -/
theorem silencesDue_eq (s : State) :
    s.silencesDue = ([Scale.a, .b, .p].filter (fun sc => (s.chan sc).state ≠ .disabled ∧
      249 ≤ (s.chan sc).silence)).map .silenceEvent := by
  refine congrArg (List.map _) (List.filter_congr (fun sc _ => ?_))
  rw [Bool.eq_iff_iff, Bool.and_eq_true, bne_iff_ne, decide_eq_true_iff, decide_eq_true_iff]
  exact ⟨fun h => ⟨h.1, by omega⟩, fun h => ⟨h.1, by omega⟩⟩

theorem retries_eq : (fun j : Job => decide (j.state = .retryWait ∧ j.wait ≤ 1)) = retryDue :=
  funext fun j => by rw [retryDue, Bool.decide_and, beq_eq_decide]

/-- A millisecond of the silence timers leaves the captures. -/
theorem tickMs_capture (c : Channel) : c.tickMs.capture = c.capture := by
  unfold Channel.tickMs
  split <;> rfl

theorem tickMs_eq : Channel.tickMs = fun c =>
    { c with silence := if c.state ≠ .disabled then min 250 (c.silence + 1) else c.silence } :=
  funext fun c => by
    unfold Channel.tickMs
    split
    · rw [if_neg (not_not_intro ‹_›)]
    · rfl

theorem tickSecond_tickMs (c : Channel) : c.tickMs.tickSecond = { c with
    silence := if c.state ≠ .disabled then min 250 (c.silence + 1) else c.silence
    capture := c.capture.map (fun k => { k with remaining := k.remaining - 1 }) } := by
  rw [tickMs_eq]
  rfl

theorem tickSecond_job : Job.tickSecond = fun j => { j with wait := if j.state = .retryWait then j.wait - 1 else j.wait } :=
  funext fun j => by by_cases waits : j.state = .retryWait <;> simp [Job.tickSecond, waits]

/-- The silence timers' millisecond brings no timer of seconds to its end. -/
theorem secondsDue_tickMs (s : State) (n : Nat) (cs : List Instr) :
    State.secondsDue { tickMs { s with msPhase := n } with pending := cs } = s.secondsDue := by
  have captures (sc : Scale) : (State.chan { tickMs { s with msPhase := n } with pending := cs } sc).capture =
      (s.chan sc).capture := by cases sc <;> exact tickMs_capture _
  simp only [State.secondsDue, captures]
  rfl

/-- The timers of seconds that the next second brings to 0. -/
theorem secondsDue_eq (s : State) :
    s.secondsDue =
      ([Scale.a, .b, .p].filter (fun sc => ∃ k ∈ (s.chan sc).capture, k.remaining ≤ 1)).map .captureTimeout ++
      (s.tickets.filter (fun t => ∃ c ∈ t.claim, c.remaining ≤ 1)).map (fun t => .claimExpiry (BitVec.ofNat 16 t.number)) ++
      ((List.range 16).filter (fun i => ∃ j ∈ s.job i, j.state = .retryWait ∧ j.wait ≤ 1)).map .retryWait ++
      (if ∃ n ∈ s.pe.responseTimer, n ≤ 1 then [.responseTimeout] else []) ++
      (if ∃ n ∈ s.pe.queryTimer, n ≤ 1 then [.statusQueryTimeout] else []) := by
  have captures : [Scale.a, .b, .p].filter (fun sc => ∃ k ∈ (s.chan sc).capture, k.remaining ≤ 1) =
      allScales.filter (fun sc => (s.chan sc).capture.any (fun k => k.remaining ≤ 1)) :=
    List.filter_congr (fun sc _ => decide_exists_mem ..)
  have claims : s.tickets.filter (fun t => ∃ c ∈ t.claim, c.remaining ≤ 1) =
      s.tickets.filter (fun t => t.claim.any (fun c => c.remaining ≤ 1)) :=
    List.filter_congr (fun t _ => decide_exists_mem ..)
  have retries : (List.range 16).filter (fun i => ∃ j ∈ s.job i, j.state = .retryWait ∧ j.wait ≤ 1) =
      (List.range 16).filter (fun i => (s.job i).any retryDue) :=
    List.filter_congr (fun i _ => (decide_exists_mem ..).trans (congrArg (Option.any · (s.job i)) retries_eq))
  rw [captures, claims, retries, State.secondsDue]
  simp only [Option.any_eq_true, decide_eq_true_eq, Option.mem_def]

/-- Settles O2: the part without power, the thousandth millisecond and every other. -/
theorem idleStepIsAMillisecond : Obligations.IdleStepIsAMillisecond := by
  intro s idle
  have steps : step s = .next (tick s) := by rw [step, idle]
  rw [steps]
  refine congrArg Host.Outcome.next ?_
  cases on : s.powered with
  | false =>
    rw [tick_off on]
    simp only [idle, Bool.false_eq_true, false_and, if_false]
    congr 1
    simp
  | true =>
    have silences := silencesDue_eq s
    by_cases second : s.msPhase + 1 = 1000
    · rw [tick_second on second, tickSecond, secondsDue_tickMs, secondsDue_eq]
      simp only [second, idle, tickMs, if_true, true_and, and_self]
      congr 1
      case e_pending =>
        rw [← silences]
        rfl
      case e_channels => simp only [PerScale.map, tickSecond_tickMs]
      case e_jobs => rw [tickSecond_job]
    · rw [tick_ms on second]
      simp only [second, idle, tickMs, if_false, and_false, true_and]
      congr 1
      case e_pending =>
        rw [List.nil_append, List.append_nil, List.append_nil]
        exact silences
      case e_channels => rw [tickMs_eq]

end Sys2Proof.Machine
end

section
/-! PROOFS. The nonvolatile array, byte by byte (R116, R123). -/

namespace Sys2Proof.Machine

/-- A byte inside the range of a programming is programmed with its own byte, stuck bits and lost bits. -/
theorem memRead_memProgram_inside {m : Memory} (h : m.wf = true) (a : Nat) (bs stuck lost : List Byte) {i : Nat}
    (hi : i < bs.length) : memRead (memProgram m a bs stuck lost) (a + i) =
      memRead m (a + i) &&& (bs.getD i 0#8 ||| stuck.getD i 0#8) &&& ~~~(lost.getD i 0#8) := by
  induction bs generalizing m a stuck lost i with
  | nil => exact absurd hi (Nat.not_lt_zero _)
  | cons b bs ih =>
    rw [memProgram]
    cases i with
    | zero =>
      simp only [Nat.add_zero]
      rw [memRead_memProgram_outside _ _ (.inl (Nat.lt_add_one a)), memRead_memWrite_same h]
      cases stuck <;> cases lost <;> rfl
    | succ i =>
      rw [show a + (i + 1) = a + 1 + i by omega, ih (wf_memWrite h ..) _ _ _ (Nat.lt_of_succ_lt_succ hi),
        memRead_memWrite_other (by omega)]
      cases stuck <;> cases lost <;> rfl

/-- A block of bytes, read one by one. -/
theorem memBytes_eq (m : Memory) (a n : Nat) : memBytes m a n = (List.range n).map (fun i => memRead m (a + i)) := by
  refine List.map_congr_left (fun i hi => ?_)
  have inside : i < n := List.mem_range.mp hi
  rw [memRead_filter m (fun x => decide (a ≤ x) && decide (x < a + n)), if_pos]
  simpa using inside

/-- Settles O8: one law of the array for each operation. -/
theorem arrayOperations : Obligations.ArrayOperations := by
  intro m a wf
  refine ⟨fun v => ⟨wf_memWrite wf a v, memRead_memWrite_same wf a v, fun x other => memRead_memWrite_other other v⟩,
    fun bs stuck lost => ⟨wf_memProgram wf .., fun x outside => memRead_memProgram_outside stuck lost outside,
      fun i hi => memRead_memProgram_inside wf a bs stuck lost hi⟩,
    memBytes_eq m a, fun bs cells => ⟨rfl, beq_iff_eq⟩, fun n => ⟨rfl, fun k v d => rfl⟩, fun bs i hi => ?_,
    fun n => ⟨wf_memErase wf a n, fun x => memRead_memErase_inside, fun x => memRead_memErase_outside⟩⟩
  rw [memRead_memProgram_inside wf a bs [] [] hi]
  have kept : ~~~(0#8) = BitVec.allOnes 8 := rfl
  rw [List.getD_nil, BitVec.or_zero, kept, BitVec.and_allOnes]

end Sys2Proof.Machine
end

section
/-! PROOFS. What a request and an answer leave of a port, and the settings of a port and of the header (R177, R185 to R190, R203,
R204). -/

namespace Sys2Proof.Machine

/-! ## Requests and answers (R177) -/

theorem updPort_port (s : State) (p q : Port) (f : PortCtx → PortCtx) :
    (s.updPort p f).port q = if q = p then f (s.port q) else s.port q := by
  split
  · rename_i same
    rw [same, updPort_port_same]
  · exact updPort_port_other s ‹_› f

/-- Settles O10: the two ways in which a frame is answered at once, and the states `taken` and `answered` field by field. -/
theorem disabledAndMalformed : Obligations.DisabledAndMalformed := by
  refine ⟨fun p q f s => updPort_port s p q f, fun p code data s => ⟨?_, rfl, ?_⟩,
    fun c p s isRequest powered notBusy disabled => ?_, fun p s powered notBusy => ?_⟩
  · rw [taken_eq]
  · rw [answered, reply, taken_eq, updPort_updPort]
  · obtain ⟨f, owner⟩ := exec_of_requestPort isRequest s
    rw [owner, request_disabled powered notBusy disabled]
  · rw [exec_malformedFrame powered, takeFrame_taken notBusy, refuse_taken]

/-! ## Broadcasts (R185 to R187, R190) -/

/-- The filter of a port, bit by bit (R210). -/
theorem admits_iff (f : Filter) (n : Notice) : admits f n = true ↔
    (∀ x ∈ [(NoticeKind.ticketPayable, 0), (.receiptCommitted, 1), (.scaleState, 2), (.printerState, 3),
      (.journalLow, 4), (.modeChange, 5), (.fault, 6), (.printAbandoned, 7)], n.kind = x.1 → f.kinds.getLsbD x.2 = true) ∧
    (n.kind = .scaleState → f.scales.getLsbD (n.subject.getD 0 - 1) = true) := by
  cases kind : n.kind <;> simp [admits, broadcastBit, kind]

/-- The notice that stands for another in a queue (R186). -/
theorem coalesces_iff (n : Notice) (q : List Notice) : coalesces n q = true ↔
    (n.kind = .scaleState ∧ ∃ m ∈ q, m.kind = .scaleState ∧ m.subject = n.subject) ∨
    (n.kind = .printerState ∧ ∃ m ∈ q, m.kind = .printerState) := by
  simp [coalesces]

theorem broadcast_port (n : Notice) (s : State) (p : Port) : (broadcast n s).port p = hear n (s.port p) := by
  cases p <;> rfl

theorem attention_iff (s : State) (p : Port) :
    s.attention p = true ↔ s.powered = true ∧ ((s.port p).queue ≠ [] ∨ (s.port p).state = .done) := by
  simp [State.attention]

/-- Settles O13: the tests of `hear` in their order. -/
theorem broadcastEntersQueues : Obligations.BroadcastEntersQueues := by
  refine ⟨attention_iff, fun n s p => ?_⟩
  dsimp only
  rw [← admits_iff, ← coalesces_iff, broadcast_port]
  refine ⟨fun stopped => if_neg stopped, fun passes stands => ?_, fun passes alone => ?_, rfl, rfl, updPort_port_same ..,
    fun q other => updPort_port_other s (Ne.symm other) _, rfl, rfl, rfl⟩
  · rw [hear, if_pos passes, if_pos stands]
  · rw [hear, if_pos passes, if_neg alone]
    rfl

end Sys2Proof.Machine
end

section
/-! PROOFS. When a check of a request fails, and the settings of a port and of the header (R189, R203, R204). -/

namespace Sys2Proof.Machine

/-! ## When a check fails -/

theorem isConfig_eq_false_iff (s : State) : s.isConfig = false ↔ s.mode ≠ .config := beq_eq_false_iff_ne

theorem notView_eq_false_iff (s : State) (p : Port) : s.notView p = false ↔ s.role p = .view := bne_eq_false_iff_eq

theorem isScaleOrOffice_eq_false_iff (s : State) (p : Port) :
    s.isScaleOrOffice p = false ↔ s.role p ≠ .scale ∧ s.role p ≠ .office := by
  rw [State.isScaleOrOffice, Bool.or_eq_false_iff, beq_eq_false_iff_ne, beq_eq_false_iff_ne]

theorem isWindowOrOffice_eq_false_iff (s : State) (p : Port) :
    s.isWindowOrOffice p = false ↔ s.role p ≠ .window ∧ s.role p ≠ .office := by
  rw [State.isWindowOrOffice, Bool.or_eq_false_iff, beq_eq_false_iff_ne, beq_eq_false_iff_ne]

/-- A character that is not printable (R45). -/
theorem printable_eq_false_iff (b : Byte) : printable b = false ↔ b.toNat < 0x20 ∨ 0x7E < b.toNat := by
  simp only [printable, Bool.and_eq_false_iff, decide_eq_false_iff_not, Nat.not_le]

theorem all_printable_eq_false_iff (t : List Byte) :
    t.all printable = false ↔ ∃ b ∈ t, b.toNat < 0x20 ∨ 0x7E < b.toNat := by
  simp only [List.all_eq_false, Bool.not_eq_true, printable_eq_false_iff]

/-- A text is no ID of `lo` to `hi` printable characters. -/
theorem idOk_eq_false_iff (lo hi : Nat) (t : List Byte) :
    idOk lo hi t = false ↔ t.length < lo ∨ hi < t.length ∨ ∃ b ∈ t, b.toNat < 0x20 ∨ 0x7E < b.toNat := by
  rw [idOk, Bool.and_eq_false_iff, Bool.and_eq_false_iff, all_printable_eq_false_iff, decide_eq_false_iff_not,
    decide_eq_false_iff_not, Nat.not_le, Nat.not_le, or_assoc]

/-- The claim of another port. -/
theorem not_claimedByOther_eq_false_iff (p : Port) (t : Ticket) :
    (!claimedByOther p t) = false ↔ ∃ c ∈ t.claim, c.port ≠ p := by
  rw [claimedByOther]
  cases t.claim <;> simp

/-! ## SET FILTER, SET ROLE and SET HEADER (R189, R203, R204) -/

theorem exec_setFilter (p : Port) (kinds scales : Byte) (s : State) :
    exec (.setFilter p kinds scales) s = request p s (setFilter p kinds scales) := rfl

theorem exec_setRole (p : Port) (port role scales kinds noticeScales : Byte) (s : State) :
    exec (.setRole p port role scales kinds noticeScales) s = request p s (setRole p port role scales kinds noticeScales) := rfl

theorem exec_setHeader (p : Port) (line : Byte) (text : List Byte) (s : State) :
    exec (.setHeader p line text) s = request p s (setHeader p line text) := rfl

theorem taken_filter (p q : Port) (s : State) : ((taken p s).port q).filter = (s.port q).filter := by
  by_cases h : q = p
  · rw [h, taken_eq, updPort_port_same]
  · rw [taken_eq, updPort_port_other _ h]

/-- A change of the settings by a taken request makes them dirty and leaves all else (R30). -/
theorem changeSettings_taken (p : Port) (f : Settings → Settings) (s : State) :
    changeSettings f (taken p s) = { taken p s with dirty := true, settings := f s.settings } := rfl

theorem setFilter_eq (p : Port) (kinds scales : Byte) (s : State) :
    setFilter p kinds scales s =
      if s.mode = .starting then refuse p .mode s
      else reply p .ok (filterData (s.port p).filter)
        (s.updPort p (fun c => { c with filter := ⟨kinds, maskOf scales⟩ })) := by
  rw [setFilter, guarded_cons_of_iff (started_eq_false_iff s), guarded_nil]

theorem selfCheck_eq_false_iff (p q : Port) (r : Role) : (q != p || r == .office) = false ↔ q = p ∧ r ≠ .office := by
  rw [Bool.or_eq_false_iff, bne_eq_false_iff_eq, beq_eq_false_iff_ne]

theorem setRole_eq (p : Port) (port role scales kinds noticeScales : Byte) (s : State) :
    setRole p port role scales kinds noticeScales s =
      if s.role p ≠ .office then refuse p .role s
      else if s.mode ≠ .config then refuse p .mode s
      else match portOf port, roleOf role with
        | some q, some r =>
          if q = p ∧ r ≠ .office then refuse p .self s
          else reply p .ok (roleData (s.portSettings q)) (changeSettings (fun t =>
            { t with ports := t.ports.set q ⟨r, maskOf scales, ⟨kinds, maskOf noticeScales⟩⟩ }) s)
        | _, _ => refuse p .range s := by
  rw [setRole, guarded_cons_of_iff (isOffice_eq_false_iff s p), guarded_cons_of_iff (isConfig_eq_false_iff s), guarded_nil]
  cases portOf port with
  | none => rfl
  | some q => cases roleOf role with
    | none => rfl
    | some r => simp only [guarded_cons_of_iff (selfCheck_eq_false_iff p q r), guarded_nil]

theorem headerCheck_eq_false_iff (line : Byte) (text : List Byte) :
    (decide (1 ≤ line.toNat) && decide (line.toNat ≤ 3) && text.length == 32 && text.all printable) = false ↔
      line.toNat = 0 ∨ 3 < line.toNat ∨ text.length ≠ 32 ∨ ∃ b ∈ text, b.toNat < 0x20 ∨ 0x7E < b.toNat := by
  rw [Bool.and_eq_false_iff, all_printable_eq_false_iff, Bool.and_eq_false_iff, beq_eq_false_iff_ne, Bool.and_eq_false_iff,
    decide_eq_false_iff_not, decide_eq_false_iff_not, Nat.not_le, Nat.not_le, Nat.lt_one_iff, or_assoc, or_assoc]

theorem setHeader_eq (p : Port) (line : Byte) (text : List Byte) (s : State) :
    setHeader p line text s =
      if s.role p ≠ .office then refuse p .role s
      else if s.mode ≠ .config then refuse p .mode s
      else if line.toNat = 0 ∨ 3 < line.toNat ∨ text.length ≠ 32 ∨ ∃ b ∈ text, b.toNat < 0x20 ∨ 0x7E < b.toNat then
        refuse p .range s
      else reply p .ok [] (changeSettings (fun t => { t with headers := t.headers.set (line.toNat - 1) text }) s) := by
  rw [setHeader, guarded_cons_of_iff (isOffice_eq_false_iff s p), guarded_cons_of_iff (isConfig_eq_false_iff s),
    guarded_cons_of_iff (headerCheck_eq_false_iff line text), guarded_nil]

/-- Settles O14: three requests, each by its checks in their order. -/
theorem portAndHeaderSettings : Obligations.PortAndHeaderSettings := by
  refine ⟨fun p kinds scales s taking => ?_, fun p port role scales kinds noticeScales s taking => ?_,
    fun p line text s taking => ?_⟩
  · rw [exec_setFilter, request_taking taking, setFilter_eq, taken_mode, taken_filter, refuse_taken]
    rfl
  · rw [exec_setRole, request_taking taking, setRole_eq, taken_role, taken_mode]
    simp only [changeSettings_taken, taken_portSettings, refuse_taken, roleData, filterData, ← List.append_assoc] <;> rfl
  · rw [exec_setHeader, request_taking taking, setHeader_eq, taken_role, taken_mode, changeSettings_taken]
    simp only [refuse_taken]

end Sys2Proof.Machine
end

section
/-! PROOFS. The immediate reads, the bytes of fields and notices, and every code (R176, R179, R180, R188, R209 to R212). -/

namespace Sys2Proof.Machine

/-! ## Fields (R209) -/

/-- The number that flags make, bit i for the i-th. -/
def flagNat (bs : List Bool) : Nat := bs.foldr (fun b n => 2 * n + b.toNat) 0

theorem testBit_flagNat (bs : List Bool) (k : Nat) : (flagNat bs).testBit k = bs.getD k false := by
  induction bs generalizing k with
  | nil => simp [flagNat]
  | cons b bs ih =>
    have cons : flagNat (b :: bs) = 2 * flagNat bs + b.toNat := rfl
    cases k with
    | zero => cases b <;> simp [cons, Nat.testBit_zero]
    | succ k =>
      rw [cons, Nat.testBit_succ, show (2 * flagNat bs + b.toNat) / 2 = flagNat bs by have := Bool.toNat_le b; omega, ih]
      rfl

theorem flagByte_bit {bs : List Bool} (fits : bs.length ≤ 8) (k : Nat) : (flagByte bs).getLsbD k = bs.getD k false := by
  rw [show flagByte bs = BitVec.ofNat 8 (flagNat bs) from rfl, BitVec.getLsbD_ofNat, testBit_flagNat]
  by_cases inside : k < 8
  · simp [inside]
  · simp [inside, List.getElem?_eq_none (show bs.length ≤ k by omega)]

theorem be_one (n : Nat) : be 1 n = [BitVec.ofNat 8 n] := by simp [be]

theorem length_be (w n : Nat) : (be w n).length = w := by
  induction w with
  | zero => rfl
  | succ w ih => simp [be, ih]

/-- The summary byte, a present flag adding its weight (R210). -/
theorem summaryByte_eq (c : PortCtx) : summaryByte c = BitVec.ofNat 8 (64 * portStateCode c.state +
    (if c.enabled = true then 32 else 0) + (if c.queue = [] then 0 else 16) + (if c.overrun = true then 8 else 0)) := by
  have weight (k : Nat) (b : Bool) : k * b.toNat = if b = true then k else 0 := by cases b <;> simp
  have waiting : 16 * (!c.queue.isEmpty).toNat = if c.queue = [] then 0 else 16 := by cases c.queue <;> rfl
  rw [summaryByte, waiting, weight, weight]

theorem length_clockOut (bytes : List Byte) (n : Nat) : (clockOut bytes n).length = n := by
  simp [clockOut]

theorem clockOut_byte (bytes : List Byte) {n k : Nat} (inside : k < n) :
    (clockOut bytes n)[k]? = some (bytes.getD k 0x00#8) := by
  rw [clockOut, List.getElem?_take_of_lt inside, List.getElem?_append, List.getD_eq_getElem?_getD]
  split
  · rename_i listed
    rw [List.getElem?_eq_getElem listed]
    rfl
  · rename_i behind
    rw [List.getElem?_replicate, if_pos (by omega), List.getElem?_eq_none (Nat.le_of_not_lt behind)]
    rfl

/-! ## Notices (R212) -/

theorem length_beOpt (w : Nat) (x : Option Nat) : (beOpt w x).length = w := by
  cases x with
  | none => exact List.length_replicate
  | some n => exact length_be w n

/-- A detail that fits is filled with 0x00. -/
theorem noticeDetail_eq {d : List Byte} (fits : d.length ≤ 19) :
    (d ++ List.replicate 19 0#8).take 19 = d ++ List.replicate (19 - d.length) 0#8 := by
  rw [List.take_append, List.take_of_length_le fits, List.take_replicate, Nat.min_eq_left (Nat.sub_le _ _)]

theorem noticeBytes_eq {n : Notice} (fits : n.detail.length ≤ 19) :
    noticeBytes n = be 1 (noticeCode n.kind) ++ beOpt 4 n.subject ++ n.detail ++
      List.replicate (19 - n.detail.length) 0x00#8 ++ be 4 n.time := by
  rw [noticeBytes, noticeDetail_eq fits, be_one]
  simp only [List.append_assoc, List.cons_append, List.nil_append]

theorem length_noticeBytes {n : Notice} (fits : n.detail.length ≤ 19) : (noticeBytes n).length = 28 := by
  rw [noticeBytes_eq fits]
  simp only [List.length_append, length_be, length_beOpt, List.length_replicate]
  omega

/-! ## The reads (R179, R180, R188) -/

theorem updPort_congr {s : State} {p : Port} {f g : PortCtx → PortCtx} (h : f (s.port p) = g (s.port p)) :
    s.updPort p f = s.updPort p g := by
  rw [State.updPort, State.updPort, show f (s.ports.get p) = g (s.ports.get p) from h]

theorem exec_readStatus {p : Port} {s : State} (powered : s.powered = true) (n : Nat) :
    exec (.readStatus p n) s = .next (answerRead p (statusReply s p) n s) := event_powered powered _

theorem exec_readResult {p : Port} {s : State} (powered : s.powered = true) (n : Nat) :
    exec (.readResult p n) s = .next (readResult p n s) := event_powered powered _

theorem exec_readNotice {p : Port} {s : State} (powered : s.powered = true) (n : Nat) :
    exec (.readNotice p n) s = .next (readNotice p n s) := event_powered powered _

theorem resultReply_done {c : PortCtx} {r : Result} (done : c.state = .done) (held : c.result = some r) :
    resultReply c = be 1 (resultCode r.code) ++ be 1 r.data.length ++ r.data ++ [flag c.overrun] := by
  rw [resultReply, done, held]

theorem resultReply_not_done {c : PortCtx} (h : c.state ≠ .done) :
    resultReply c = [0xFF#8] ++ be 1 (portStateCode c.state) ++ [flag c.overrun] := by
  unfold resultReply
  split
  · exact absurd ‹c.state = .done› h
  · rfl

theorem noticeReply_cons {c : PortCtx} {x : Notice} {xs : List Notice} (h : c.queue = x :: xs) :
    noticeReply c = noticeBytes x ++ be 1 xs.length ++ be 1 c.overflow := by rw [noticeReply, h]

theorem noticeReply_nil {c : PortCtx} (h : c.queue = []) :
    noticeReply c = [0x00#8, 0x00#8, BitVec.ofNat 8 c.overflow] := by
  rw [noticeReply, h, be_one]
  rfl

/-- Settles O12: the laws of the fields and of a notice, the codes by evaluation, and each read by the reply it puts out. -/
theorem immediateReadsAnswer : Obligations.ImmediateReadsAnswer := by
  refine ⟨fun w n i b => ⟨rfl, be_succ w n, beInt_eq, rfl, rfl, rfl, rfl, rfl⟩, fun bs k fits => flagByte_bit fits k,
    fun t => ⟨?_, rfl, rfl⟩, summaryByte_eq, fun bytes n => ⟨length_clockOut bytes n, fun k => clockOut_byte bytes⟩,
    fun n fits => ⟨?_, length_noticeBytes fits⟩, rfl, by decide,
    ⟨rfl, rfl, rfl, rfl, rfl, rfl, rfl, rfl, rfl, rfl, rfl, rfl, fun _ => rfl, rfl, rfl, rfl, rfl, rfl, rfl, rfl, rfl, rfl⟩,
    fun p n s powered => ?_, ⟨fun p n s r powered done held => ?_, fun p n s powered notDone => ?_⟩,
    fun p n s x xs powered waits => ?_, fun p n s powered none => ?_⟩
  · rw [be_one]
    rfl
  · rw [noticeBytes_eq fits]
    cases n.subject <;> rfl
  · rw [exec_readStatus powered]
    exact congrArg _ (updPort_congr rfl)
  · rw [exec_readResult powered, readResult, ← resultReply_done done held]
    by_cases whole : (resultReply (s.port p)).length ≤ n
    · simp only [done, whole, and_self, if_true, answerRead, updPort_updPort]
    · simp only [whole, and_false, if_false, answerRead]
  · rw [exec_readResult powered, readResult_of_not_done notDone]
    exact congrArg _ (updPort_congr (by rw [resultReply_not_done notDone]))
  · rw [exec_readNotice powered, readNotice, ← noticeReply_cons waits]
    refine congrArg _ ?_
    by_cases whole : (noticeReply (s.port p)).length ≤ n
    · simp only [whole, if_true, answerRead, updPort_updPort]
      exact updPort_congr (by rw [waits]; rfl)
    · simp only [whole, if_false, answerRead]
      exact updPort_congr (by rw [← waits])
  · rw [exec_readNotice powered, readNotice, noticeReply_nil none]
    refine congrArg _ ?_
    have stays : (s.port p).queue.tail = (s.port p).queue := by rw [none]; rfl
    by_cases whole : [0x00#8, 0x00#8, BitVec.ofNat 8 (s.port p).overflow].length ≤ n
    · simp only [whole, if_true, answerRead, updPort_updPort]
      exact updPort_congr (by rw [stays])
    · simp only [whole, if_false, answerRead]
      exact updPort_congr rfl

end Sys2Proof.Machine
end

section
/-! PROOFS. Every well-formed request has a frame that spells it (R210). -/

namespace Sys2Proof

/-! ## Fields -/

/-- Neighbouring parts of a word, put together again. -/
theorem extractLsb'_append {w : Nat} (x : BitVec w) (k m n : Nat) :
    x.extractLsb' (k + n) m ++ x.extractLsb' k n = x.extractLsb' k (m + n) := by
  refine BitVec.eq_of_getLsbD_eq (fun i hi => ?_)
  rw [BitVec.getLsbD_append]
  by_cases low : i < n
  · simp [low, show i < m + n by omega]
  · simp [low, hi, show i - n < m by omega, show k + n + (i - n) = k + i by omega]

theorem extractLsb'_whole {w : Nat} (x : BitVec w) : x.extractLsb' 0 w = x := by
  refine BitVec.eq_of_getLsbD_eq (fun i hi => ?_)
  simp [hi]

theorem half_bytes (h : Half) : half (h.extractLsb' 8 8) (h.extractLsb' 0 8) = h :=
  (extractLsb'_append h 0 8 8).trans (extractLsb'_whole h)

theorem tri_bytes (t : Tri) : tri (t.extractLsb' 16 8) (t.extractLsb' 8 8) (t.extractLsb' 0 8) = t :=
  (congrArg (t.extractLsb' 16 8 ++ ·) (extractLsb'_append t 0 8 8)).trans
    ((extractLsb'_append t 0 8 16).trans (extractLsb'_whole t))

theorem word_bytes (w : Word) :
    word (w.extractLsb' 24 8) (w.extractLsb' 16 8) (w.extractLsb' 8 8) (w.extractLsb' 0 8) = w := by
  have low : tri (w.extractLsb' 16 8) (w.extractLsb' 8 8) (w.extractLsb' 0 8) = w.extractLsb' 0 24 :=
    (congrArg (w.extractLsb' 16 8 ++ ·) (extractLsb'_append w 0 8 8)).trans (extractLsb'_append w 0 8 16)
  exact (congrArg (w.extractLsb' 24 8 ++ ·) low).trans ((extractLsb'_append w 0 8 24).trans (extractLsb'_whole w))

/-- The characters of an ID that fits its length byte. -/
theorem idOf_idBytes {t : List Byte} (fits : idWf t = true) : idOf (idBytes t) = some t := by
  have short : t.length ≤ 255 := by simpa [idWf] using fits
  rw [idBytes, idOf, BitVec.toNat_ofNat, Nat.mod_eq_of_lt (by omega), if_pos rfl]

/-! ## Frames -/

/-- A frame spells a request when its code is no read's and its operands are the request's. -/
theorem frame_spells {c : Instr} {p : Port} {code : Byte} {bs : List Byte} (encoded : encodeFrame c = some (p, code :: bs))
    (noRead : decodeRead p code bs = none) (spelt : decodeRequest p code bs = some c) :
    ∃ bytes, encodeFrame c = some (p, bytes) ∧ decodeFrame p bytes false = some c := by
  refine ⟨_, encoded, ?_⟩
  simp only [decodeFrame, noRead, spelt, Bool.false_eq_true, if_false, Option.getD_some]

theorem list_of_length_eight {α : Type} {l : List α} (h : l.length = 8) :
    ∃ a b c d e f g i, l = [a, b, c, d, e, f, g, i] := by
  match l, h with
  | [a, b, c, d, e, f, g, i], _ => exact ⟨a, b, c, d, e, f, g, i, rfl⟩

namespace Machine

/-- Settles O11: the frame of each request, by its layout (R210). -/
theorem requestFramesRoundTrip : Obligations.RequestFramesRoundTrip := by
  intro c p isRequest wf
  cases c with
  | openTicket q c v =>
    cases isRequest
    exact frame_spells rfl rfl (congrArg (Option.map _) (idOf_idBytes wf))
  | setVehicle q t v =>
    cases isRequest
    refine frame_spells rfl rfl ((congrArg (Option.map _) (idOf_idBytes wf)).trans ?_)
    exact congrArg (fun t => some (Instr.setVehicle p t v)) (half_bytes t)
  | setSeller q t v =>
    cases isRequest
    refine frame_spells rfl rfl ((congrArg (Option.map _) (idOf_idBytes wf)).trans ?_)
    exact congrArg (fun t => some (Instr.setSeller p t v)) (half_bytes t)
  | weigh q sc k t g =>
    cases isRequest
    have kind : k ≠ 4#8 := by simpa [Instr.wf] using wf
    refine frame_spells rfl rfl ((if_neg kind).trans ?_)
    exact congrArg (fun t => some (Instr.weigh p sc k t g)) (half_bytes t)
  | weighStoreTare q sc v =>
    cases isRequest
    exact frame_spells rfl rfl (congrArg (Option.map _) (idOf_idBytes wf))
  | deleteTare q v =>
    cases isRequest
    exact frame_spells rfl rfl (congrArg (Option.map _) (idOf_idBytes wf))
  | readTare q k =>
    cases isRequest
    cases k with
    | slot n => exact frame_spells rfl rfl rfl
    | id x v =>
      obtain ⟨selector, fits⟩ : x ≠ 0#8 ∧ idWf v = true := by simpa [Instr.wf] using wf
      exact frame_spells rfl rfl ((if_neg selector).trans (congrArg (Option.map _) (idOf_idBytes fits)))
  | setHeader q n t =>
    cases isRequest
    have size : t.length = 32 := by simpa [Instr.wf] using wf
    exact frame_spells rfl rfl (if_pos size)
  | defineGrade q g n f h x =>
    cases isRequest
    obtain ⟨n1, n2, n3, n4, n5, n6, n7, n8, rfl⟩ := list_of_length_eight (by simpa [Instr.wf] using wf)
    exact frame_spells rfl rfl (congrArg (fun x => some (Instr.defineGrade p g _ f h x)) (tri_bytes x))
  | dockLine q t g d =>
    cases isRequest
    exact frame_spells rfl rfl (congrArg₂ (fun t d => some (Instr.dockLine p t g d)) (half_bytes t) (word_bytes d))
  | closeOnStoredTare q t g =>
    cases isRequest
    exact frame_spells rfl rfl (congrArg (fun t => some (Instr.closeOnStoredTare p t g)) (half_bytes t))
  | voidTicket q t r =>
    cases isRequest
    exact frame_spells rfl rfl (congrArg (fun t => some (Instr.voidTicket p t r)) (half_bytes t))
  | readTicket q t n =>
    cases isRequest
    exact frame_spells rfl rfl (congrArg (fun t => some (Instr.readTicket p t n)) (half_bytes t))
  | claimTicket q t =>
    cases isRequest
    exact frame_spells rfl rfl (congrArg (fun t => some (Instr.claimTicket p t)) (half_bytes t))
  | releaseTicket q t =>
    cases isRequest
    exact frame_spells rfl rfl (congrArg (fun t => some (Instr.releaseTicket p t)) (half_bytes t))
  | endHold q t =>
    cases isRequest
    exact frame_spells rfl rfl (congrArg (fun t => some (Instr.endHold p t)) (half_bytes t))
  | extendHold q t e =>
    cases isRequest
    exact frame_spells rfl rfl (congrArg₂ (fun t e => some (Instr.extendHold p t e)) (half_bytes t) (word_bytes e))
  | setClock q t =>
    cases isRequest
    exact frame_spells rfl rfl (congrArg (fun t => some (Instr.setClock p t)) (word_bytes t))
  | settleTicket q t =>
    cases isRequest
    exact frame_spells rfl rfl (congrArg (fun t => some (Instr.settleTicket p t)) (half_bytes t))
  | auditThrough q n =>
    cases isRequest
    exact frame_spells rfl rfl (congrArg (fun n => some (Instr.auditThrough p n)) (word_bytes n))
  | printReceipt q n =>
    cases isRequest
    exact frame_spells rfl rfl (congrArg (fun n => some (Instr.printReceipt p n)) (word_bytes n))
  | cancelPrint q x k n =>
    cases isRequest
    exact frame_spells rfl rfl (congrArg (fun n => some (Instr.cancelPrint p x k n)) (word_bytes n))
  | calibrate q sc z sp t1 t2 t3 t4 =>
    cases isRequest
    refine frame_spells rfl rfl ?_
    show some (Instr.calibrate p sc (word _ _ _ _) (tri _ _ _) (half _ _) (half _ _) (half _ _) (half _ _)) = _
    rw [word_bytes, tri_bytes, half_bytes, half_bytes, half_bytes, half_bytes]
  | setPrice q g x =>
    cases isRequest
    exact frame_spells rfl rfl (congrArg (fun x => some (Instr.setPrice p g x)) (tri_bytes x))
  | clearFault q k r =>
    cases isRequest
    exact frame_spells rfl rfl (congrArg (fun k => some (Instr.clearFault p k r)) (half_bytes k))
  | setFirstReceipt q n c v m x =>
    cases isRequest
    refine frame_spells rfl rfl ?_
    show some (Instr.setFirstReceipt p (word _ _ _ _) (half _ _) v (half _ _) (half _ _)) = _
    rw [word_bytes, half_bytes, half_bytes, half_bytes]
  | cancelWeigh | listTickets | readClock | readJournalState | listPrintQueue | restorePrinter | readPrinter | readScale
  | zeroScale | restoreScale | lockCalibration | scaleSettings | readGrade | closeShift | readTally | setFilter | enterConfig
  | leaveConfig | storeSettings | setRole | portEnable | portDisable | readFault =>
    cases isRequest
    exact frame_spells rfl rfl rfl
  | _ => exact nomatch isRequest

end Machine
end Sys2Proof
end

section
/-! PROOFS. The fault status: setting events, the FAULT output and CLEAR FAULT (R191, R192, R194). -/

namespace Sys2Proof.Machine

/-! ## Setting events (R191) -/

theorem mem_faultKinds (k : FaultKind) : k ∈ faultKinds := by cases k <;> decide

theorem faultIndex_lt (k : FaultKind) : faultIndex k < 11 := by cases k <;> decide

theorem faultKinds_faultIndex (k : FaultKind) : faultKinds[faultIndex k]? = some k := by cases k <;> rfl

theorem faultIndex_inj {j k : FaultKind} (h : faultIndex j = faultIndex k) : j = k :=
  Option.some.inj ((faultKinds_faultIndex j).symm.trans (h ▸ faultKinds_faultIndex k))

theorem setFault_frame (k : FaultKind) (d : FaultDetail) (s : State) : setFault k d s = { s with
    faults := s.faults.set (faultIndex k) (some ⟨d, s.clock⟩)
    firstFault := (setFault k d s).firstFault, ports := (setFault k d s).ports } := by
  unfold setFault
  dsimp only
  split <;> rfl

theorem fault_set_same {s : State} (size : s.faults.length = 11) (k : FaultKind) (r : Option FaultRecord) :
    State.fault { s with faults := s.faults.set (faultIndex k) r } k = r := by
  have inside := faultIndex_lt k
  simp [State.fault, List.getD_eq_getElem?_getD, size, inside]

theorem fault_set_other {j k : FaultKind} (other : j ≠ k) (s : State) (r : Option FaultRecord) :
    State.fault { s with faults := s.faults.set (faultIndex k) r } j = s.fault j := by
  have apart : faultIndex k ≠ faultIndex j := fun h => other (faultIndex_inj h).symm
  simp [State.fault, List.getD_eq_getElem?_getD, apart]

theorem faultOutput_iff (s : State) : s.faultOutput = true ↔ s.powered = true ∧ ∃ k, (s.fault k).isSome = true ∧
    s.settings.faultMasks.getLsbD (faultIndex k) = false ∧ s.settings.faultStops.getLsbD (faultIndex k) = true := by
  rw [State.faultOutput, Bool.and_eq_true, List.any_eq_true]
  refine and_congr_right (fun _ => exists_congr (fun k => ?_))
  rw [and_iff_right (mem_faultKinds k), Bool.and_eq_true, Bool.and_eq_true, Bool.not_eq_true', and_assoc]
  rfl

/-- Settles O17: a setting event of a kind that stands or is masked, and of a fresh one. -/
theorem faultSettingEvent : Obligations.FaultSettingEvent := by
  refine ⟨fun c timeout k n sc => ⟨rfl, rfl, by cases timeout <;> rfl, rfl, rfl, rfl, ?_⟩, fun k s => rfl, faultOutput_iff,
    fun k d s size => ?_⟩
  · simp only [List.mem_cons, List.not_mem_nil, or_false]
    rintro d (rfl | rfl | rfl | rfl) <;> exact length_be 4 _
  · dsimp only
    have kind (j : FaultKind) : (setFault k d s).fault j =
        State.fault { s with faults := s.faults.set (faultIndex k) (some ⟨d, s.clock⟩) } j := by
      rw [setFault_frame]
      rfl
    refine ⟨(kind k).trans (fault_set_same size k _), fun j other => (kind j).trans (fault_set_other other s _),
      fun stands => ?_, fun clear unmasked => ?_, ?_⟩
    · rw [setFault_standing stands]
      exact ⟨rfl, rfl⟩
    · rw [setFault_fresh clear unmasked]
      exact ⟨by cases s.firstFault <;> rfl, broadcast_port _ _⟩
    · exact (setFault_frame k d s).trans (by rw [show (setFault k d s).faults = _ from congrArg State.faults (setFault_frame k d s)])

/-! ## CLEAR FAULT (R194) -/

theorem exec_clearFault (p : Port) (kinds : Half) (record : Byte) (s : State) :
    exec (.clearFault p kinds record) s = request p s (clearFault p kinds record) := rfl

theorem clearFault_eq (p : Port) (kinds : Half) (record : Byte) (s : State) :
    clearFault p kinds record s =
      if s.role p ≠ .office then refuse p .role s
      else if s.mode = .starting then refuse p .mode s
      else reply p .ok (be 2 s.faultBits) { s with
        faults := clearKinds kinds s.faults, firstFault := if record = 0#8 then s.firstFault else none } := by
  rw [clearFault, guarded_cons_of_iff (isOffice_eq_false_iff s p), guarded_cons_of_iff (started_eq_false_iff s), guarded_nil]

theorem clearKinds_getD (kinds : Half) (fs : List (Option FaultRecord)) (i : Nat) :
    (clearKinds kinds fs).getD i none = if kinds.getLsbD i then none else fs.getD i none := by
  rw [clearKinds, List.getD_eq_getElem?_getD, List.getElem?_mapIdx, List.getD_eq_getElem?_getD]
  cases fs[i]? with
  | none => exact (ite_self _).symm
  | some r => rfl

/-- The status bits, as the flags of the kinds in their order. -/
theorem faultBits_eq (s : State) : s.faultBits = flagNat (faultKinds.map (fun k => (s.fault k).isSome)) := by
  rw [flagNat, List.foldr_map]
  rfl

theorem flagNat_lt (bs : List Bool) : flagNat bs < 2 ^ bs.length := by
  induction bs with
  | nil => exact Nat.one_pos
  | cons b bs ih =>
    have cons : flagNat (b :: bs) = 2 * flagNat bs + b.toNat := rfl
    have bit := Bool.toNat_le b
    rw [cons, List.length_cons, Nat.pow_succ]
    omega

theorem faultBits_lt (s : State) : s.faultBits < 2048 := by
  have below := flagNat_lt (faultKinds.map fun k => (s.fault k).isSome)
  rw [List.length_map, show faultKinds.length = 11 from rfl, ← faultBits_eq] at below
  exact below

theorem faultBits_testBit (s : State) (k : FaultKind) : s.faultBits.testBit (faultIndex k) = (s.fault k).isSome := by
  rw [faultBits_eq, testBit_flagNat, List.getD_eq_getElem?_getD, List.getElem?_map, faultKinds_faultIndex]
  rfl

theorem taken_faultBits (p : Port) (s : State) : (taken p s).faultBits = s.faultBits := by
  simp only [State.faultBits, taken_fault]

/-- Settles O18: the request is taken, and its checks and the bits it reports are those of the state before. -/
theorem clearFaultAnswers : Obligations.ClearFaultAnswers := by
  intro p kinds record s taking
  have exec_eq := (exec_clearFault p kinds record s).trans (request_taking taking _)
  rw [clearFault_eq, taken_role, taken_mode, taken_faultBits, refuse_taken, refuse_taken] at exec_eq
  refine ⟨_, exec_eq, fun role => if_pos role, fun role mode => ?_, fun role mode => ?_⟩
  · rw [if_neg (not_not_intro role), if_pos mode]
  · rw [if_neg (not_not_intro role), if_neg mode]
    exact ⟨rfl, faultBits_lt s, faultBits_testBit s, rfl, fun k => clearKinds_getD ..⟩

end Sys2Proof.Machine
end

section
/-! PROOFS. What the journal's figures read of the state, journal space, and SET FIRST RECEIPT (R117, R133, R205). -/

namespace Sys2Proof.Machine

/-! ## The figures of the sector map read the map and the head commit alone (R116, R117) -/

/-- Two states show the same sector map, and the same head commit in progress. -/
structure SameMap (s t : State) : Prop where
  sectors : t.sectors = s.sectors
  head : t.head = s.head

section
variable {s t : State} (h : SameMap s t)
include h

theorem SameMap.sector (i : Nat) : t.sector i = s.sector i := by rw [State.sector, h.sectors, State.sector]

theorem SameMap.extent (i : Nat) : t.extent i = s.extent i := by
  unfold State.extent State.inProgress
  rw [h.sector, h.head]

theorem SameMap.oldest : t.oldest = s.oldest := by simp only [State.oldest, h.sector, h.extent]

theorem SameMap.newest : t.newest = s.newest := by simp only [State.newest, h.sector, h.extent]

theorem SameMap.places (n : Nat) : t.places n = s.places n := by
  simp only [State.places, State.slotIn, h.sector, h.extent]

theorem SameMap.lookup (n : Nat) : t.lookup n = s.lookup n := by simp only [State.lookup, h.places]

theorem SameMap.ringAhead : t.ringAhead = s.ringAhead := by
  simp only [State.ringAhead, State.current, h.sector, h.newest, h.lookup]

theorem SameMap.aheadRun : t.aheadRun = s.aheadRun := by simp only [State.aheadRun, h.ringAhead, h.sector]

theorem SameMap.fillingFree : t.fillingFree = s.fillingFree := by
  rw [State.fillingFree, h.sectors, State.fillingFree]

theorem SameMap.slotMark (i slot : Nat) : t.slotMark i slot = s.slotMark i slot := by
  rw [State.slotMark, h.sector, State.slotMark]

theorem SameMap.unaudited (n : Nat) : t.unaudited n = s.unaudited n := by
  simp only [State.unaudited, h.places, h.slotMark]

theorem SameMap.retainedNumbers : t.retainedNumbers = s.retainedNumbers := by
  simp only [State.retainedNumbers, h.oldest, h.newest, h.lookup]

theorem SameMap.space (fresh : t.exhausted = s.exhausted) (queue : t.commitQueue = s.commitQueue) : t.space = s.space := by
  rw [State.space, fresh, h.fillingFree, h.aheadRun, queue, State.space]

end

/-! ## Journal space (R133) -/

/-- Journal space, while the counter is not exhausted. -/
theorem space_eq {s : State} (fresh : s.exhausted = false) :
    s.space = (((s.sectors.find? (fun c => c.state == .filling)).elim 0 (fun c => 16 - c.used) : Nat) : Int) +
      16 * (s.aheadRun.length : Int) - s.commitQueue.length := by
  have filling : s.fillingFree = (s.sectors.find? (fun c => c.state == .filling)).elim 0 (fun c => 16 - c.used) := by
    unfold State.fillingFree
    cases s.sectors.find? (fun c => c.state == .filling) <;> rfl
  rw [State.space, fresh, if_neg Bool.false_ne_true, filling]

/-- An evaluation of journal space, by the three cases of R133. -/
theorem evalSpace_eq (s : State) : evalSpace s =
    if 32 ≤ s.space then { s with lowFlag := false }
    else if s.lowFlag = true then s
    else broadcast ⟨.journalLow, none, beInt 2 s.space, s.clock⟩ { s with lowFlag := true } := by
  unfold evalSpace
  by_cases low : s.space < 32
  · rw [if_pos low, if_neg (Int.not_le.mpr low)]
  · rw [if_neg low, if_pos (Int.not_lt.mp low)]

/-! ## SET FIRST RECEIPT (R205) -/

theorem exec_setFirstReceipt (p : Port) (first : Word) (timeout : Half) (validity : Byte) (masks severities : Half) (s : State) :
    exec (.setFirstReceipt p first timeout validity masks severities) s =
      request p s (setFirstReceipt p first timeout validity masks severities) := rfl

/-- The part settings as SET FIRST RECEIPT replaces them. -/
def partSettings (first : Word) (timeout : Half) (validity : Byte) (masks severities : Half) (t : Settings) : Settings :=
  { t with
    firstReceipt := first.toNat, claimTimeout := timeout.toNat, tareValidity := validity.toNat
    faultMasks := masks.setWidth 11, faultStops := severities.setWidth 11 }

theorem firstReceiptCheck_eq_false_iff (first : Word) (timeout : Half) (validity : Byte) :
    (decide (1 ≤ first.toNat) && (decide (30 ≤ timeout.toNat) && decide (timeout.toNat ≤ 600)) &&
      (decide (1 ≤ validity.toNat) && decide (validity.toNat ≤ 90))) = false ↔
    ¬ (first ≠ 0 ∧ 30 ≤ timeout.toNat ∧ timeout.toNat ≤ 600 ∧ 1 ≤ validity.toNat ∧ validity.toNat ≤ 90) := by
  have positive : 1 ≤ first.toNat ↔ first ≠ 0 := by
    rw [Nat.one_le_iff_ne_zero, ne_eq, ne_eq, ← BitVec.toNat_inj]
    rfl
  rw [← Bool.not_eq_true]
  simp only [Bool.and_eq_true, decide_eq_true_eq, positive, and_assoc]

theorem setFirstReceipt_eq (p : Port) (first : Word) (timeout : Half) (validity : Byte) (masks severities : Half) (s : State) :
    setFirstReceipt p first timeout validity masks severities s =
      if s.role p ≠ .office then refuse p .role s
      else if s.mode ≠ .config then refuse p .mode s
      else if ¬ (first ≠ 0 ∧ 30 ≤ timeout.toNat ∧ timeout.toNat ≤ 600 ∧ 1 ≤ validity.toNat ∧ validity.toNat ≤ 90) then
        refuse p .range s
      else
        let s := applyFirstReceipt first.toNat (changeSettings (partSettings first timeout validity masks severities) s)
        reply p .ok (be 4 s.counter) s := by
  rw [setFirstReceipt, guarded_cons_of_iff (isOffice_eq_false_iff s p), guarded_cons_of_iff (isConfig_eq_false_iff s),
    guarded_cons_of_iff (firstReceiptCheck_eq_false_iff first timeout validity), guarded_nil]
  rfl

theorem applyFirstReceipt_retained {s : State} (retained : s.newest ≠ none) (first : Nat) : applyFirstReceipt first s = s :=
  if_neg (fun h => retained (Option.isNone_iff_eq_none.mp h))

theorem applyFirstReceipt_empty {s : State} (empty : s.newest = none) (first : Nat) :
    applyFirstReceipt first s = evalSpace { s with counter := first, exhausted := false } :=
  if_pos (Option.isNone_iff_eq_none.mpr empty)

theorem evalSpace_counter (s : State) : (evalSpace s).counter = s.counter := by
  unfold evalSpace
  split
  · split <;> rfl
  · rfl

/-- Settles O19: each refusal by its check, and the counter by whether an entry is retained. -/
theorem setFirstReceiptAnswers : Obligations.SetFirstReceiptAnswers := by
  intro p first timeout validity masks severities s taking
  have answer := (exec_setFirstReceipt p first timeout validity masks severities s).trans (request_taking taking _)
  rw [setFirstReceipt_eq, taken_role, taken_mode, changeSettings_taken, refuse_taken, refuse_taken, refuse_taken] at answer
  dsimp only
  refine ⟨fun role => ?_, fun role mode => ?_, fun role mode range => ?_, fun role mode range => ⟨fun retained => ?_,
    fun empty => ?_⟩⟩
  · rw [answer, if_pos role]
  · rw [answer, if_neg (not_not_intro role), if_pos mode]
  · rw [answer, if_neg (not_not_intro role), if_neg (not_not_intro mode), if_pos range]
  · have same : SameMap s { taken p s with
        dirty := true, settings := partSettings first timeout validity masks severities s.settings } := ⟨rfl, rfl⟩
    rw [answer, if_neg (not_not_intro role), if_neg (not_not_intro mode), if_neg (not_not_intro range),
      applyFirstReceipt_retained (same.newest ▸ retained)]
    rfl
  · have same : SameMap s { taken p s with
        dirty := true, settings := partSettings first timeout validity masks severities s.settings } := ⟨rfl, rfl⟩
    have counted : SameMap s { taken p s with
        dirty := true, settings := partSettings first timeout validity masks severities s.settings
        counter := first.toNat, exhausted := false } := ⟨rfl, rfl⟩
    rw [answer, if_neg (not_not_intro role), if_neg (not_not_intro mode), if_neg (not_not_intro range),
      applyFirstReceipt_empty (same.newest.trans empty)]
    dsimp only
    rw [evalSpace_counter, evalSpace_eq, space_eq rfl, counted.aheadRun]
    rfl

end Sys2Proof.Machine
end

section
/-! PROOFS. The entry into CONFIG and ENTER CONFIG (R197, R198). -/

namespace Sys2Proof.Machine

/-! ## The drain conditions (R197) -/

theorem noCapture_iff (s : State) : s.noCapture = true ↔ ∀ sc, (s.chan sc).capture = none := by
  simp only [State.noCapture, allScales, List.all_cons, List.all_nil, Bool.and_true, Bool.and_eq_true,
    Option.isNone_iff_eq_none]
  exact ⟨fun h sc => by cases sc <;> simp only [h], fun h => ⟨h .a, h .b, h .p⟩⟩

theorem noPrinting_iff (s : State) : s.noPrinting = true ↔ ∀ j, some j ∈ s.jobs → j.state ≠ .printing := by
  rw [State.noPrinting, List.all_eq_true]
  refine ⟨fun h j hj => by simpa using h (some j) hj, fun h j hj => ?_⟩
  cases j with
  | none => rfl
  | some j => simpa using h j hj

theorem drained_iff (s : State) : s.drained = true ↔ (∀ sc, (s.chan sc).capture = none) ∧ s.commitQueue = [] ∧
    s.settlements = [] ∧ (∀ j, some j ∈ s.jobs → j.state ≠ .printing) ∧ s.pass = none ∧ s.storeWrite = none := by
  simp only [State.drained, State.noCommit, Bool.and_eq_true, noCapture_iff, noPrinting_iff, Option.isNone_iff_eq_none,
    List.isEmpty_iff, and_assoc]

/-! ## The entry into CONFIG (R13, R25, R198) -/

/-- Every port hears a broadcast. -/
def heardBy (n : Notice) (v : PerPort PortCtx) : PerPort PortCtx := ⟨hear n v.s0, hear n v.s1, hear n v.s2, hear n v.s3⟩

theorem broadcast_eq (n : Notice) (s : State) : broadcast n s = { s with ports := heardBy n s.ports } := rfl

/-- An enabled scale's channel in CONFIG: its fault count is 0, and one in FAULT is EMPTY. -/
def configChannel (enabled : Bool) (c : Channel) : Channel :=
  if enabled = false then c
  else if c.state = .fault then
    { c with faultCount := 0, state := .empty, weight := none, w1 := none, reference := none, motion := 0 }
  else { c with faultCount := 0 }

/-- The notice of a scale that the entry into CONFIG changes. -/
def configNotice (sc : Scale) (c : Channel) (time : Nat) : Notice :=
  ⟨.scaleState, some (scaleCode sc), [BitVec.ofNat 8 (scaleStateCode c.state), 0#8], time⟩

/-- Whether an enabled scale leaves FAULT or loses WARN. -/
abbrev configTold (enabled : Bool) (c : Channel) : Prop := enabled = true ∧ (c.state = .fault ∨ 96 ≤ c.faultCount)

theorem leaveFault_counted (c : Channel) : leaveFault { c with faultCount := 0 } = configChannel true c := by
  rw [configChannel, if_neg (by simp), leaveFault]

theorem warn_configChannel (c : Channel) : warn (configChannel true c) = false := by
  rw [configChannel, if_neg (by simp)]
  split <;> rfl

/-- A scale that stays as it is keeps its state, and its WARN is clear. -/
theorem configChannel_same_iff (c : Channel) : ((configChannel true c).state = c.state ∧ warn (configChannel true c) = warn c) ↔
    ¬ (c.state = .fault ∨ 96 ≤ c.faultCount) := by
  rw [warn_configChannel, configChannel, if_neg (by simp)]
  by_cases fault : c.state = .fault
  · simp [fault]
  · simp [fault, warn]

/-- A state with other port contexts. -/
def State.withPorts (s : State) (v : PerPort PortCtx) : State := { s with ports := v }

/-- A state in CONFIG with other channels and port contexts. -/
def State.inConfig (s : State) (cs : PerScale Channel) (v : PerPort PortCtx) : State :=
  { s with mode := .config, channels := cs, ports := v }

/-- The ports when the entry into CONFIG has changed a scale. -/
def configHeard (sc : Scale) (enabled : Bool) (c : Channel) (time : Nat) (v : PerPort PortCtx) : PerPort PortCtx :=
  if configTold enabled c then heardBy (configNotice sc (configChannel enabled c) time) v else v

theorem configScale_inConfig (sc : Scale) (s : State) (cs : PerScale Channel) (v : PerPort PortCtx) :
    configScale sc (s.inConfig cs v) = s.inConfig (cs.set sc (configChannel (s.scaleSettings sc).enabled (cs.get sc)))
      (configHeard sc (s.scaleSettings sc).enabled (cs.get sc) s.clock v) := by
  unfold configScale configHeard
  have settings : (s.inConfig cs v).scaleSettings sc = s.scaleSettings sc := rfl
  have chan : (s.inConfig cs v).chan sc = cs.get sc := rfl
  rw [settings]
  cases enabled : (s.scaleSettings sc).enabled with
  | false =>
    rw [if_neg Bool.false_ne_true, if_neg (fun h => Bool.false_ne_true h.1), configChannel, if_pos rfl]
    cases sc <;> rfl
  | true =>
    rw [if_pos rfl, updScale_heard, scaleHeard, chan, leaveFault_counted]
    by_cases told : (cs.get sc).state = .fault ∨ 96 ≤ (cs.get sc).faultCount
    · rw [if_neg (fun same => (configChannel_same_iff _).mp same told), if_pos ⟨rfl, told⟩, warn_configChannel]
      rfl
    · rw [if_pos ((configChannel_same_iff _).mpr told), if_neg (fun h => told h.2)]
      rfl

/-- A port context whose overflow count is 0. -/
def clearOverflow (c : PortCtx) : PortCtx := { c with overflow := 0 }

theorem withPorts_updPort (s : State) (v : PerPort PortCtx) (p : Port) (f : PortCtx → PortCtx) :
    (s.withPorts v).updPort p f = s.withPorts (v.set p (f (v.get p))) := rfl

theorem clearOverflows_eq (s : State) : allPorts.foldl (fun s p => s.updPort p (fun c => { c with overflow := 0 })) s =
    s.withPorts ⟨clearOverflow s.ports.s0, clearOverflow s.ports.s1, clearOverflow s.ports.s2, clearOverflow s.ports.s3⟩ := by
  have whole : s = s.withPorts s.ports := rfl
  simp only [allPorts, List.foldl_cons, List.foldl_nil]
  conv => lhs; rw [whole]
  simp only [withPorts_updPort]
  rfl

/-- The print engine with its link restored (R155, R163). -/
def linkRestored (e : PrintEngine) : PrintEngine := { e with linkErrors := 0, link := .normal }

theorem restored_link (s : State) : updPrinter (fun e => { e with linkErrors := 0, link := .normal }) s =
    { s with
      pe := linkRestored s.pe
      ports := if s.pe.link = .normal then s.ports else (offerPrinterState { s with pe := linkRestored s.pe }).ports } := by
  rw [updPrinter_heard, printerBecomes]
  simp only [true_and, @eq_comm Link .normal]
  rfl

/-- The notice of the change of mode into CONFIG. -/
def configMode (s : State) : Notice := ⟨.modeChange, none, [BitVec.ofNat 8 (modeCode s.mode), 3#8], s.clock⟩

/-- The channels in CONFIG. -/
def configChannels (s : State) : PerScale Channel :=
  let chan (sc : Scale) : Channel := configChannel (s.scaleSettings sc).enabled (s.chan sc)
  ⟨chan .a, chan .b, chan .p⟩

/-- The ports when the part has changed its mode and its scales, in the order A, B, P. -/
def configScalesHeard (s : State) : PerPort PortCtx :=
  [Scale.a, .b, .p].foldl (fun v sc => configHeard sc (s.scaleSettings sc).enabled (s.chan sc) s.clock v)
    (heardBy (configMode s) s.ports)

theorem setMode_config (s : State) : setMode .config s = s.inConfig s.channels (heardBy (configMode s) s.ports) := rfl

theorem enterConfigMode_eq (s : State) :
    let scales := s.inConfig (configChannels s) (configScalesHeard s)
    let heard := if s.pe.link = .normal then configScalesHeard s
      else (offerPrinterState { scales with pe := linkRestored s.pe }).ports
    enterConfigMode s = State.withPorts { scales with pe := linkRestored s.pe }
      ⟨clearOverflow heard.s0, clearOverflow heard.s1, clearOverflow heard.s2, clearOverflow heard.s3⟩ := by
  dsimp only
  unfold enterConfigMode
  dsimp only
  rw [setMode_config, configScale_inConfig, configScale_inConfig, configScale_inConfig, restored_link, clearOverflows_eq]
  rfl

/-- The entry into CONFIG, in the words of R198. -/
def enteredConfig (s : State) : State :=
  let chan (sc : Scale) : Channel := configChannel (s.scaleSettings sc).enabled (s.chan sc)
  let told (x : State) (sc : Scale) : State :=
    if configTold (s.scaleSettings sc).enabled (s.chan sc) then broadcast (configNotice sc (chan sc) s.clock) x else x
  let pe := linkRestored s.pe
  let scales := [Scale.a, .b, .p].foldl told (broadcast (configMode s) s)
  let heard := if s.pe.link = .normal then scales else offerPrinterState { scales with pe := pe }
  let port (q : Port) : PortCtx := clearOverflow (heard.port q)
  { s with
    mode := .config, pe := pe, channels := ⟨chan .a, chan .b, chan .p⟩
    ports := ⟨port .s0, port .s1, port .s2, port .s3⟩ }

/-- The scales' notices change the port contexts alone. -/
theorem configScales_eq (s : State) : [Scale.a, .b, .p].foldl (fun x sc =>
      if configTold (s.scaleSettings sc).enabled (s.chan sc) then
        broadcast (configNotice sc (configChannel (s.scaleSettings sc).enabled (s.chan sc)) s.clock) x
      else x) (broadcast (configMode s) s) = s.withPorts (configScalesHeard s) := by
  have told (sc : Scale) (v : PerPort PortCtx) :
      (if configTold (s.scaleSettings sc).enabled (s.chan sc) then
        broadcast (configNotice sc (configChannel (s.scaleSettings sc).enabled (s.chan sc)) s.clock) (s.withPorts v)
      else s.withPorts v) = s.withPorts (configHeard sc (s.scaleSettings sc).enabled (s.chan sc) s.clock v) := by
    unfold configHeard
    split <;> rfl
  have begins : broadcast (configMode s) s = s.withPorts (heardBy (configMode s) s.ports) := rfl
  rw [begins]
  simp only [List.foldl_cons, List.foldl_nil, told]
  rfl

theorem enterConfigMode_entered (s : State) : enterConfigMode s = enteredConfig s := by
  rw [enterConfigMode_eq, enteredConfig]
  dsimp only
  rw [configScales_eq]
  by_cases normal : s.pe.link = .normal
  · rw [if_pos normal, if_pos normal]
    rfl
  · rw [if_neg normal, if_neg normal]
    rfl

/-! ## ENTER CONFIG (R197) -/

theorem exec_enterConfig (p : Port) (s : State) : exec (.enterConfig p) s = request p s (enterConfig p) := rfl

theorem enterConfigCheck_eq_false_iff (s : State) :
    (s.started && s.mode != .storing) = false ↔ s.mode = .starting ∨ s.mode = .storing := by
  rw [Bool.and_eq_false_iff, started_eq_false_iff, bne_eq_false_iff_eq]

theorem enterConfig_eq (p : Port) (s : State) : enterConfig p s =
    if s.role p ≠ .office then refuse p .role s
    else if s.mode = .starting ∨ s.mode = .storing then refuse p .mode s
    else reply p .ok (be 1 (modeCode (enterConfigEffect s).mode)) (enterConfigEffect s) := by
  rw [enterConfig, guarded_cons_of_iff (isOffice_eq_false_iff s p), guarded_cons_of_iff (enterConfigCheck_eq_false_iff s),
    guarded_nil]

theorem enterConfigMode_mode (s : State) : (enterConfigMode s).mode = .config := by rw [enterConfigMode_entered]; rfl

/-- Settles O20: the entry is `enterConfigMode_entered`, and the request goes by its mode. -/
theorem enterConfigAnswers : Obligations.EnterConfigAnswers := by
  refine ⟨drained_iff, fun s mode drained => ?_, fun p s taking => ?_⟩
  · rw [drainTest, if_pos ⟨mode, drained⟩, enterConfigMode_entered]
    rfl
  · have answer := (exec_enterConfig p s).trans (request_taking taking _)
    rw [enterConfig_eq, taken_role, taken_mode, refuse_taken, refuse_taken, enterConfigEffect, taken_mode, taken_drained]
      at answer
    refine ⟨fun role => ?_, fun role mode => ?_, fun role mode => ?_, fun role mode drained => ?_, fun role mode drained => ?_⟩
    · rw [answer, if_pos role]
    · rw [answer, if_neg (not_not_intro role), if_pos mode]
    · have other : s.mode ≠ .run ∧ ¬ (s.mode = .starting ∨ s.mode = .storing) := by
        rcases mode with mode | mode <;> simp [mode]
      rw [answer, if_neg (not_not_intro role), if_neg other.2, if_neg other.1, taken_mode, be_one]
      rfl
    · rw [answer, if_neg (not_not_intro role), if_neg (by simp [mode]), if_pos mode, drained, if_neg Bool.false_ne_true,
        setMode, taken_mode, mode, be_one]
      rfl
    · rw [answer, if_neg (not_not_intro role), if_neg (by simp [mode]), if_pos mode, drained, if_pos rfl,
        enterConfigMode_mode, enterConfigMode_entered, be_one]
      rfl

end Sys2Proof.Machine
end

section
/-! PROOFS. What the engines and the end of an event leave as it was (R127, R128, R148, R198). -/

namespace Sys2Proof.Machine

/-! ## The engines at work -/

/-- From `s` to `t` only the print queue, the engines, the channels and the notices have changed. -/
structure Worked (s t : State) : Prop where
  frame : t = { s with
    channels := t.channels, engine := t.engine, pendingMarks := t.pendingMarks, jobs := t.jobs, pe := t.pe
    ageCounter := t.ageCounter, backlog := t.backlog, ports := t.ports, free := t.free }

theorem Worked.refl (s : State) : Worked s s := ⟨rfl⟩

theorem Worked.trans {s t u : State} (h : Worked s t) (k : Worked t u) : Worked s u :=
  ⟨k.frame.trans (congrArg (fun x : State => { x with
    channels := u.channels, engine := u.engine, pendingMarks := u.pendingMarks, jobs := u.jobs, pe := u.pe
    ageCounter := u.ageCounter, backlog := u.backlog, ports := u.ports, free := u.free }) h.frame)⟩

theorem worked_testBacklog (s : State) : Worked s (testBacklog s) := by
  constructor
  rw [testBacklog_frame]

theorem worked_removeJob (slot : Nat) (s : State) : Worked s (removeJob slot s) :=
  Worked.trans ⟨rfl⟩ (worked_testBacklog _)

theorem worked_updPort (p : Port) (f : PortCtx → PortCtx) (s : State) : Worked s (s.updPort p f) := ⟨rfl⟩

theorem worked_broadcast (n : Notice) (s : State) : Worked s (broadcast n s) := ⟨rfl⟩

theorem worked_foldl {α : Type} {f : State → α → State} (hf : ∀ s a, Worked s (f s a)) (l : List α) (s : State) :
    Worked s (l.foldl f s) := by
  induction l generalizing s with
  | nil => exact .refl s
  | cons a l ih => exact (hf s a).trans (ih _)

theorem worked_broadcastOffice (e : Option Port) (n : Notice) (s : State) : Worked s (broadcastOffice e n s) := by
  refine worked_foldl (fun s p => ?_) _ s
  split
  · exact worked_updPort ..
  · exact .refl s

theorem worked_offerAbandoned (slot : Nat) (j : Job) (reason : Nat) (s : State) :
    Worked s (offerAbandoned slot j reason s) := by
  unfold offerAbandoned
  dsimp only
  refine .trans ?_ (worked_broadcastOffice ..)
  split
  · exact worked_updPort ..
  · exact .refl s

theorem worked_releaseJob (s : State) : Worked s (releaseJob s) := ⟨rfl⟩

theorem worked_abandonFetch (reason : Nat) (s : State) : Worked s (abandonFetch reason s) := by
  unfold abandonFetch
  split
  · exact .refl s
  · split
    · exact worked_releaseJob s
    · exact (worked_removeJob ..).trans ((worked_offerAbandoned ..).trans (worked_releaseJob _))

theorem worked_takeJob (slot : Nat) (j : Job) (s : State) : Worked s (takeJob slot j s) := by
  unfold takeJob
  dsimp only
  split <;> exact ⟨rfl⟩

theorem worked_takeRead (r : ReadReq) (s : State) : Worked s (takeRead r s) := by
  cases r with
  | fetch =>
    refine Worked.trans (t := { s with engine := { s.engine with reads := s.engine.reads.erase .fetch } }) ⟨rfl⟩ ?_
    unfold takeRead
    dsimp only
    split
    · exact ⟨rfl⟩
    · exact worked_abandonFetch ..
  | stream p => exact ⟨rfl⟩

theorem worked_beginWrite (w : WriteReq) (s : State) : Worked s (beginWrite w s) := by
  cases w <;> exact ⟨rfl⟩

theorem worked_takeWaiting {s t : State} (h : takeWaiting s = some t) : Worked s t := by
  unfold takeWaiting at h
  split at h
  · cases h
    exact worked_takeRead ..
  · split at h
    · cases h
      exact Worked.trans ⟨rfl⟩ (worked_beginWrite ..)
    · split at h
      · cases h
      · split at h
        · split at h <;> cases h <;> exact ⟨rfl⟩
        · split at h
          · cases h
            exact ⟨rfl⟩
          · cases h

theorem worked_pumpOnce {s t : State} (h : pumpOnce s = some t) : Worked s t := by
  unfold pumpOnce at h
  split at h
  · obtain ⟨j, -, rfl⟩ := Option.map_eq_some_iff.mp h
    exact worked_takeJob ..
  · split at h
    · cases h
      exact ⟨rfl⟩
    · split at h
      · exact worked_takeWaiting h
      · cases h

theorem worked_pump (fuel : Nat) (s : State) : Worked s (pump fuel s) := by
  induction fuel generalizing s with
  | zero => exact .refl s
  | succ fuel ih =>
    unfold pump
    split
    · exact (worked_pumpOnce ‹_›).trans (ih _)
    · exact .refl s

/-! ## The end of an event (R198) -/

theorem worked_enterConfigMode (s : State) : Worked { s with mode := .config } (enterConfigMode s) := by
  rw [enterConfigMode_entered]
  exact ⟨rfl⟩

/-- The end of an event changes the mode, and what the engines and the entry into CONFIG change. -/
theorem worked_settle (s : State) : Worked { s with mode := (settle s).mode } (settle s) := by
  have pumped := worked_pump 128 s
  unfold settle drainTest
  split
  · have mode : (enterConfigMode (pump 128 s)).mode = .config := enterConfigMode_mode _
    rw [mode]
    refine Worked.trans ⟨?_⟩ (worked_enterConfigMode _)
    exact congrArg (fun x : State => { x with mode := .config }) pumped.frame
  · have mode : (pump 128 s).mode = s.mode := (congrArg State.mode pumped.frame :)
    rw [mode]
    exact pumped

theorem settle_frame (s : State) : settle s = { s with
    mode := (settle s).mode, channels := (settle s).channels, engine := (settle s).engine
    pendingMarks := (settle s).pendingMarks, jobs := (settle s).jobs, pe := (settle s).pe
    ageCounter := (settle s).ageCounter, backlog := (settle s).backlog, ports := (settle s).ports
    free := (settle s).free } := (worked_settle s).frame

theorem settle_mode (s : State) : (settle s).mode = s.mode ∨ (s.mode = .configPending ∧ (settle s).mode = .config) := by
  have mode : (pump 128 s).mode = s.mode := (congrArg State.mode (worked_pump 128 s).frame :)
  unfold settle drainTest
  split
  · rename_i enters
    exact .inr ⟨mode.symm.trans enters.1, enterConfigMode_mode _⟩
  · exact .inl mode

/-- The end of an event leaves a port's context but for its notices. -/
theorem settle_plain (s : State) (p : Port) : ((settle s).port p).plain = (s.port p).plain :=
  congrFun (plainPorts_settle s) p

end Sys2Proof.Machine
end

section
/-! PROOFS. End events with nothing in hand, and what the engines take at the end of an event (R127, R128, R148, R198). -/

namespace Sys2Proof.Machine

/-! ## What the events' commands mean -/

theorem exec_digitizerFrame (sc : Scale) (bytes : List RxByte) (s : State) :
    exec (.digitizerFrame sc bytes) s = execDigitizerFrame sc bytes s := rfl

theorem exec_silenceEvent (sc : Scale) (s : State) : exec (.silenceEvent sc) s = execSilenceEvent sc s := rfl

theorem exec_captureTimeout (sc : Scale) (s : State) : exec (.captureTimeout sc) s = execCaptureTimeout sc s := rfl

theorem exec_readJournal (p : Port) (receipt : Word) (s : State) :
    exec (.readJournal p receipt) s = execReadJournal p receipt s := rfl

theorem exec_journalStreamRead (p : Port) (decay : List (Nat × Byte)) (s : State) :
    exec (.journalStreamRead p decay) s = execJournalStreamRead p decay s := rfl

theorem exec_streamEnd (p : Port) (s : State) : exec (.streamEnd p) s = execStreamEnd p s := rfl

theorem exec_calibrationRecordWritten (sc : Scale) (cells : Cells) (s : State) :
    exec (.calibrationRecordWritten sc cells) s = execCalibrationRecordWritten sc cells s := rfl

theorem exec_calibrationLockWritten (sc : Scale) (cells : Cells) (s : State) :
    exec (.calibrationLockWritten sc cells) s = execCalibrationLockWritten sc cells s := rfl

theorem exec_claimExpiry (ticket : Half) (s : State) : exec (.claimExpiry ticket) s = execClaimExpiry ticket s := rfl

theorem exec_clockAdvance (s : State) : exec .clockAdvance s = execClockAdvance s := rfl

theorem exec_commitHeader (cells torn check : Cells) (s : State) :
    exec (.commitHeader cells torn check) s = execCommitHeader cells torn check s := rfl

theorem exec_commitBody (cells torn check : Cells) (s : State) :
    exec (.commitBody cells torn check) s = execCommitBody cells torn check s := rfl

theorem exec_commitComplete (cells torn check : Cells) (s : State) :
    exec (.commitComplete cells torn check) s = execCommitComplete cells torn check s := rfl

theorem exec_printedMark (cells time : Cells) (s : State) :
    exec (.printedMark cells time) s = execPrintedMark cells time s := rfl

theorem exec_auditMark (cells : Cells) (s : State) : exec (.auditMark cells) s = execAuditMark cells s := rfl

theorem exec_eraseAheadStart (s : State) : exec .eraseAheadStart s = execEraseAheadStart s := rfl

theorem exec_eraseResume (s : State) : exec .eraseResume s = execEraseResume s := rfl

theorem exec_blankCheck (decay : List (Nat × Byte)) (s : State) :
    exec (.blankCheck decay) s = execBlankCheck decay s := rfl

theorem exec_eraseDone (remains : List (Nat × Byte)) (s : State) :
    exec (.eraseDone remains) s = execEraseDone remains s := rfl

theorem exec_printFetch (decay : List (Nat × Byte)) (s : State) :
    exec (.printFetch decay) s = execPrintFetch decay s := rfl

theorem exec_endOfJobSent (s : State) : exec .endOfJobSent s = execEndOfJobSent s := rfl

theorem exec_responseTimeout (s : State) : exec .responseTimeout s = execResponseTimeout s := rfl

theorem exec_ack (s : State) : exec .ack s = execAck s := rfl

theorem exec_err (s : State) : exec .err s = execErr s := rfl

theorem exec_paperLow (s : State) : exec .paperLow s = execPaperLow s := rfl

theorem exec_paperOut (s : State) : exec .paperOut s = execPaperOut s := rfl

theorem exec_coverOpen (s : State) : exec .coverOpen s = execCoverOpen s := rfl

theorem exec_ready (s : State) : exec .ready s = execReady s := rfl

theorem exec_statusQueryTimeout (s : State) : exec .statusQueryTimeout s = execStatusQueryTimeout s := rfl

theorem exec_retryWait (slot : Nat) (s : State) : exec (.retryWait slot) s = execRetryWait slot s := rfl

theorem exec_storeErase (good : Bool) (s : State) : exec (.storeErase good) s = execStoreErase good s := rfl

theorem exec_storeImageProgram (good : Bool) (s : State) :
    exec (.storeImageProgram good) s = execStoreImageProgram good s := rfl

theorem exec_storeValidMark (good : Bool) (s : State) : exec (.storeValidMark good) s = execStoreValidMark good s := rfl

theorem exec_mainSupplyLoss (cut : Cells) (s : State) : exec (.mainSupplyLoss cut) s = execMainSupplyLoss cut s := rfl

theorem exec_resetNLow (cut : Cells) (s : State) : exec (.resetNLow cut) s = execResetNLow cut s := rfl

/-! ## Ends of nothing (log 8) -/

/-- An event whose effect leaves the state leaves it. -/
theorem event_stands {s : State} {f : State → State} (h : f s = s) : event s f = .next s := by
  rw [event, h, ite_self]

theorem endStep_idle {s : State} (idle : s.engine.current = none) (step : HeadStep) (a b c : Cells) :
    endStep step a b c s = s := by
  unfold endStep
  rw [idle]

theorem reachBoundary_stands {s : State} {p : Port} (h : (s.port p).stream = none ∨ .stream p ∈ s.engine.reads) :
    reachBoundary p s = s := by
  have between : s.betweenBlocks p = none := by
    rw [State.betweenBlocks]
    rcases h with closed | waits
    · rw [closed, ite_self]
    · rw [if_pos (.inr (.inr waits))]
  rw [reachBoundary, between]

theorem endStreamRead_idle {s : State} (idle : s.engine.current = none) (p : Port) (d : List (Nat × Byte)) :
    endStreamRead p d s = s := by rw [endStreamRead, idle]

/-- Settles O51: each end event asks first what is in hand. -/
theorem endsOfNothing : Obligations.EndsOfNothing := by
  intro s idle still noQuery
  refine ⟨fun a b c => ⟨?_, ?_, ?_⟩, fun sc a => ⟨?_, ?_⟩, fun a b => ⟨?_, ?_⟩, fun d => ⟨?_, ?_, ?_⟩,
    fun p d closed => ?_, fun good => ⟨?_, ?_, ?_⟩, ?_, ?_, ?_⟩
  · exact (exec_commitHeader ..).trans (event_stands (endStep_idle idle ..))
  · exact (exec_commitBody ..).trans (event_stands (endStep_idle idle ..))
  · exact (exec_commitComplete ..).trans (event_stands (endStep_idle idle ..))
  · exact (exec_calibrationRecordWritten ..).trans (event_stands (by rw [idle]))
  · exact (exec_calibrationLockWritten ..).trans (event_stands (by rw [idle]))
  · exact (exec_printedMark ..).trans (event_stands (by rw [idle]))
  · exact (exec_auditMark ..).trans (event_stands (by rw [idle]))
  · exact (exec_blankCheck ..).trans (event_stands (by rw [idle]))
  · exact (exec_eraseDone ..).trans (event_stands (by rw [idle]))
  · exact (exec_printFetch ..).trans (event_stands (by rw [idle]))
  · refine (exec_journalStreamRead ..).trans (event_stands ?_)
    rw [reachBoundary_stands closed, endStreamRead_idle idle]
  · exact (exec_storeErase ..).trans (event_stands (by rw [idle]))
  · exact (exec_storeImageProgram ..).trans (event_stands (by rw [idle]))
  · exact (exec_storeValidMark ..).trans (event_stands (by rw [idle]))
  · exact (exec_endOfJobSent ..).trans (event_stands (if_neg (by simp [still])))
  · exact (exec_responseTimeout ..).trans (event_stands (if_neg (by simp [still])))
  · exact (exec_statusQueryTimeout ..).trans (event_stands (if_neg (by simp [noQuery])))

end Sys2Proof.Machine
end

section
/-! PROOFS. The requests on the grade table and on the stored tares (R26, R29, R31, R33, R36, R37). -/

namespace Sys2Proof.Machine

/-! ## DEFINE GRADE and READ GRADE (R29, R31) -/

theorem exec_defineGrade (p : Port) (grade : Byte) (name : List Byte) (flags holdHours : Byte) (price : Tri) (s : State) :
    exec (.defineGrade p grade name flags holdHours price) s =
      request p s (defineGrade p grade name flags holdHours price) := rfl

theorem exec_readGrade (p : Port) (grade : Byte) (s : State) : exec (.readGrade p grade) s = request p s (readGrade p grade) :=
  rfl

theorem gradeEntryCheck_eq_false_iff (grade : Byte) (name : List Byte) (holdHours : Byte) (price : Tri) :
    (gradeOk grade && nameOk name && decide (holdHours.toNat ≤ 72) && decide (price.toNat ≤ maxPrice)) = false ↔
      grade.toNat = 0 ∨ 64 < grade.toNat ∨ nameOk name = false ∨ 72 < holdHours.toNat ∨ 99999 < price.toNat := by
  rw [Bool.and_eq_false_iff, priceOk_eq_false_iff, Bool.and_eq_false_iff, decide_eq_false_iff_not, Nat.not_le,
    Bool.and_eq_false_iff, gradeOk_eq_false_iff, or_assoc, or_assoc, or_assoc]

theorem defineGrade_eq (p : Port) (grade : Byte) (name : List Byte) (flags holdHours : Byte) (price : Tri) (s : State) :
    defineGrade p grade name flags holdHours price s =
      if s.role p ≠ .office then refuse p .role s
      else if s.mode ≠ .config then refuse p .mode s
      else if grade.toNat = 0 ∨ 64 < grade.toNat ∨ nameOk name = false ∨ 72 < holdHours.toNat ∨ 99999 < price.toNat then
        refuse p .range s
      else reply p .ok [] (setGrade grade.toNat (fun _ =>
        ⟨true, name, flags.getLsbD 0, flags.getLsbD 1, holdHours.toNat, price.toNat, price.toNat⟩) s) := by
  rw [defineGrade, guarded_cons_of_iff (isOffice_eq_false_iff s p), guarded_cons_of_iff (isConfig_eq_false_iff s),
    guarded_cons_of_iff (gradeEntryCheck_eq_false_iff grade name holdHours price), guarded_nil]

/-- Settles O58: the checks in their order, then the entry. -/
theorem defineGradeAnswers : Obligations.DefineGradeAnswers := by
  intro p grade name flags holdHours price s taking
  rw [exec_defineGrade, request_taking taking, defineGrade_eq, taken_role, taken_mode, setGrade_taken]
  simp only [refuse_taken]

theorem readGrade_eq (p : Port) (grade : Byte) (s : State) :
    readGrade p grade s =
      if s.mode = .starting then refuse p .mode s
      else if grade.toNat = 0 ∨ 64 < grade.toNat then refuse p .range s
      else reply p .ok (gradeData s grade.toNat) s := by
  rw [readGrade, guarded_cons_of_iff (started_eq_false_iff s), guarded_cons_of_iff (gradeOk_eq_false_iff grade), guarded_nil]

/-- The code of one byte is the byte. -/
theorem be_one_toNat (b : Byte) : be 1 b.toNat = [b] := by rw [be_one, BitVec.ofNat_toNat, BitVec.setWidth_eq]

/-- What READ GRADE answers is not changed by taking its frame. -/
theorem gradeData_taken (p : Port) (s : State) (g : Nat) : gradeData (taken p s) g = gradeData s g := rfl

/-- Settles O59: the checks in their order, then the entry as it is held. -/
theorem readGradeAnswers : Obligations.ReadGradeAnswers := by
  intro p grade s taking
  have data : gradeData s grade.toNat = [grade] ++ [flag (s.grade grade.toNat).defined, flag (s.grade grade.toNat).active,
      flag (s.grade grade.toNat).restricted] ++ (s.grade grade.toNat).name ++ be 1 (s.grade grade.toNat).holdHours ++
      be 3 (s.grade grade.toNat).live ++ be 3 (s.grade grade.toNat).stored ++ [flag s.dirty] := by
    rw [gradeData, be_one_toNat]
  rw [exec_readGrade, request_taking taking, readGrade_eq, taken_mode, gradeData_taken, data]
  simp only [refuse_taken, answered]

/-! ## The tare table (R33) -/

/-- Whether a slot of the tare table holds a vehicle's entry. -/
def holdsVehicle (v : List Byte) (e : Option Tare) : Bool :=
  match e with
  | some e => e.vehicle == v
  | none => false

theorem holdsVehicle_some (v : List Byte) (e : Tare) : holdsVehicle v (some e) = true ↔ e.vehicle = v := beq_iff_eq

theorem tareSlot_eq (s : State) (v : List Byte) : s.tareSlot v = s.tares.findIdx? (holdsVehicle v) := rfl

theorem tareAt_of_getElem {s : State} {i : Nat} (h : i < s.tares.length) : s.tareAt i = s.tares[i] := by
  rw [State.tareAt, List.getD_eq_getElem _ _ h]

/-- An entry stands in a slot of the table. -/
theorem lt_of_tareAt {s : State} {i : Nat} {e : Tare} (h : s.tareAt i = some e) : i < s.tares.length := by
  by_contra beyond
  rw [State.tareAt, List.getD_eq_default _ _ (Nat.not_lt.mp beyond)] at h
  cases h

/-- A vehicle's slot holds its entry, and no slot before it does. -/
theorem tareSlot_some {s : State} {v : List Byte} {i : Nat} (h : s.tareSlot v = some i) :
    (∃ e, s.tareAt i = some e ∧ e.vehicle = v) ∧ ∀ k e, k < i → s.tareAt k = some e → e.vehicle ≠ v := by
  rw [tareSlot_eq] at h
  obtain ⟨inside, holds, first⟩ := List.findIdx?_eq_some_iff_getElem.mp h
  constructor
  · rw [tareAt_of_getElem inside]
    cases entry : s.tares[i] with
    | none =>
      rw [entry] at holds
      cases holds
    | some e =>
      rw [entry] at holds
      exact ⟨e, rfl, (holdsVehicle_some v e).mp holds⟩
  · intro k e before entry same
    have lt := first k before
    rw [tareAt_of_getElem (before.trans inside)] at entry
    rw [entry] at lt
    exact lt ((holdsVehicle_some v e).mpr same)

/-- A vehicle with no slot has no entry. -/
theorem tareSlot_none {s : State} {v : List Byte} (h : s.tareSlot v = none) {k : Nat} {e : Tare} (entry : s.tareAt k = some e) :
    e.vehicle ≠ v := by
  intro same
  have inside := lt_of_tareAt entry
  rw [tareAt_of_getElem inside] at entry
  have := List.findIdx?_eq_none_iff.mp h _ (List.getElem_mem inside)
  rw [entry] at this
  exact Bool.noConfusion (this.symm.trans ((holdsVehicle_some v e).mpr same))

theorem tareValid_iff (s : State) (e : Tare) : s.tareValid e = true ↔ s.clock < e.time + s.settings.tareValidity * 86400 :=
  decide_eq_true_iff

/-! ## DELETE TARE and READ TARE (R36, R37) -/

theorem exec_deleteTare (p : Port) (vehicle : List Byte) (s : State) :
    exec (.deleteTare p vehicle) s = request p s (deleteTare p vehicle) := rfl

theorem exec_readTare (p : Port) (key : TareKey) (s : State) : exec (.readTare p key) s = request p s (readTare p key) := rfl

/-- An ID of a vehicle that is not empty. -/
theorem vehicleOk_eq_false_iff (vehicle : List Byte) :
    idOk 1 10 vehicle = false ↔ vehicle.length = 0 ∨ 10 < vehicle.length ∨ ∃ b ∈ vehicle, b.toNat < 0x20 ∨ 0x7E < b.toNat := by
  rw [idOk_eq_false_iff, Nat.lt_one_iff]

theorem deleteTare_eq (p : Port) (vehicle : List Byte) (s : State) :
    deleteTare p vehicle s =
      if s.role p ≠ .office then refuse p .role s
      else if s.mode = .starting then refuse p .mode s
      else if vehicle.length = 0 ∨ 10 < vehicle.length ∨ ∃ b ∈ vehicle, b.toNat < 0x20 ∨ 0x7E < b.toNat then refuse p .range s
      else match s.tareSlot vehicle with
        | none => refuse p .noTare s
        | some slot => reply p .ok [] { s with tares := s.tares.set slot none } := by
  rw [deleteTare, guarded_cons_of_iff (isOffice_eq_false_iff s p), guarded_cons_of_iff (started_eq_false_iff s),
    guarded_cons_of_iff (vehicleOk_eq_false_iff vehicle),
    guarded_cons_of_iff (ok := (s.tareSlot vehicle).isSome) (bad := s.tareSlot vehicle = none) (by simp), guarded_nil]
  cases found : s.tareSlot vehicle with
  | none => rfl
  | some slot => rw [if_neg (Option.some_ne_none slot), Option.getD_some]

theorem readTare_starting {p : Port} {key : TareKey} {s : State} (starting : s.mode = .starting) :
    readTare p key s = refuse p .mode s := by
  unfold readTare
  rw [guarded_cons_of_iff (started_eq_false_iff s), if_pos starting]

theorem readTare_slot {p : Port} {slot : Byte} {s : State} (started : s.mode ≠ .starting) :
    readTare p (.slot slot) s = readTareSlot p slot s := by
  unfold readTare
  rw [guarded_cons_of_iff (started_eq_false_iff s), if_neg started, guarded_nil]

theorem readTare_id {p : Port} {selector : Byte} {vehicle : List Byte} {s : State} (started : s.mode ≠ .starting) :
    readTare p (.id selector vehicle) s = readTareId p selector vehicle s := by
  unfold readTare
  rw [guarded_cons_of_iff (started_eq_false_iff s), if_neg started, guarded_nil]

/-- The data of READ TARE for an entry whose expiry is reported as a number (R37). -/
def tareData (s : State) (i : Nat) (e : Tare) (expiry : Nat) : List Byte :=
  be 1 i ++ sized e.vehicle ++ be 1 (classCode e.cls) ++ beInt 4 e.weight ++ be 4 e.time ++ [flag (s.tareValid e)] ++ be 4 expiry

/-- The answer with an entry reports an expiry of 32 bits, and past them a free value (log 14). -/
theorem replyTare_taken (p : Port) (i : Nat) (e : Tare) (s : State) : ∃ expiry,
    (e.time + s.settings.tareValidity * 86400 < 2 ^ 32 → expiry = e.time + s.settings.tareValidity * 86400 ∧
      replyTare p i e (taken p s) = answered p .ok (tareData s i e expiry) s) ∧
    (2 ^ 32 ≤ e.time + s.settings.tareValidity * 86400 →
      replyTare p i e (taken p s) = reply p .ok (tareData s i e expiry) { taken p s with free := s.free + 1 }) := by
  by_cases fits : e.time + s.settings.tareValidity * 86400 < 2 ^ 32
  · refine ⟨_, fun _ => ⟨rfl, ?_⟩, fun beyond => absurd fits (Nat.not_lt.mpr beyond)⟩
    have expiry : (taken p s).fit32 ((taken p s).tareExpiry e) = (e.time + s.settings.tareValidity * 86400, taken p s) :=
      if_pos fits
    rw [replyTare, expiry]
    rfl
  · refine ⟨(Config.freeWord s.free).toNat, fun h => absurd h fits, fun _ => ?_⟩
    have expiry : (taken p s).fit32 ((taken p s).tareExpiry e) =
        ((Config.freeWord s.free).toNat, { taken p s with free := s.free + 1 }) := if_neg fits
    rw [replyTare, expiry]
    rfl

theorem deleteTare_answers (p : Port) (vehicle : List Byte) (s : State) (taking : Taking p s) :
    exec (.deleteTare p vehicle) s = .next (
      if s.role p ≠ .office then answered p .role [] s
      else if s.mode = .starting then answered p .mode [] s
      else if vehicle.length = 0 ∨ 10 < vehicle.length ∨ ∃ b ∈ vehicle, b.toNat < 0x20 ∨ 0x7E < b.toNat then
        answered p .range [] s
      else match s.tareSlot vehicle with
        | none => answered p .noTare [] s
        | some slot => reply p .ok [] { taken p s with tares := s.tares.set slot none }) := by
  rw [exec_deleteTare, request_taking taking, deleteTare_eq, taken_role, taken_mode, taken_tareSlot, taken_tares]
  simp only [refuse_taken] <;> rfl

/-- READ TARE by slot. -/
theorem readTareSlot_taken (p : Port) (slot : Byte) (s : State) : readTareSlot p slot (taken p s) =
    if 31 < slot.toNat then answered p .range [] s
    else match s.tareAt slot.toNat with
      | some e => replyTare p slot.toNat e (taken p s)
      | none => answered p .ok [slot, 0xFF#8] s := by
  rw [readTareSlot, taken_tareAt, refuse_taken, be_one_toNat] <;> rfl

/-- READ TARE by vehicle ID. -/
theorem readTareId_taken (p : Port) (selector : Byte) (vehicle : List Byte) (s : State) :
    readTareId p selector vehicle (taken p s) =
      if selector ≠ 1#8 ∨ idOk 1 10 vehicle = false then answered p .range [] s
      else match s.tareSlot vehicle with
        | some slot => (match s.tareAt slot with | some e => replyTare p slot e (taken p s) | none => answered p .noTare [] s)
        | none => answered p .noTare [] s := by
  simp only [readTareId, taken_tareSlot, taken_tareAt, refuse_taken, Bool.not_eq_true'] <;> rfl

/-- Settles O60: the slot of a vehicle by a search of the table, and the answers by their checks. -/
theorem storedTareRequests : Obligations.StoredTareRequests := by
  refine ⟨fun vehicle s => ⟨fun i => tareSlot_some, fun noSlot k e => tareSlot_none noSlot, tareValid_iff s⟩, deleteTare_answers,
    fun p key s taking starting => ?_, fun p slot selector vehicle s taking started => ?_⟩
  · rw [exec_readTare, request_taking taking, readTare_starting (s := taken p s) starting, refuse_taken]
  have bySlot : exec (.readTare p (.slot slot)) s = .next (readTareSlot p slot (taken p s)) := by
    rw [exec_readTare, request_taking taking, readTare_slot (s := taken p s) started]
  have byId (b : Byte) : exec (.readTare p (.id b vehicle)) s = .next (readTareId p b vehicle (taken p s)) := by
    rw [exec_readTare, request_taking taking, readTare_id (s := taken p s) started]
  have entry {c : Instr} {i : Nat} {e : Tare} (h : exec c s = .next (replyTare p i e (taken p s))) : ∃ expiry,
      (e.time + s.settings.tareValidity * 86400 < 2 ^ 32 → expiry = e.time + s.settings.tareValidity * 86400 ∧
        exec c s = .next (answered p .ok (tareData s i e expiry) s)) ∧
      (2 ^ 32 ≤ e.time + s.settings.tareValidity * 86400 →
        exec c s = .next (reply p .ok (tareData s i e expiry) { taken p s with free := s.free + 1 })) := by
    obtain ⟨expiry, fits, beyond⟩ := replyTare_taken p i e s
    exact ⟨expiry, fun lt => ⟨(fits lt).1, h.trans (congrArg _ (fits lt).2)⟩, fun le => h.trans (congrArg _ (beyond le))⟩
  refine ⟨fun high => ?_, fun inside empty => ?_, fun e inside held => entry ?_, fun bad => ?_, fun ok noSlot => ?_,
    fun i e ok found held => entry ?_⟩
  · rw [bySlot, readTareSlot_taken, if_pos high]
  · rw [bySlot, readTareSlot_taken, if_neg (Nat.not_lt.mpr inside), empty]
  · rw [bySlot, readTareSlot_taken, if_neg (Nat.not_lt.mpr inside), held]
  · rw [byId, readTareId_taken, if_pos bad]
  · rw [byId, readTareId_taken, if_neg (by simp [ok]), noSlot]
  · rw [byId, readTareId_taken, if_neg (by simp [ok]), found]
    simp only [held]

end Sys2Proof.Machine
end

section
/-! PROOFS. What the engines take at the end of an event, one thing after another (R127 to R130, R148, R198). -/

namespace Sys2Proof.Machine

/-! ## The next blank slot of a calibration area (R20) -/

theorem calSlotBlank_iff (area : CalArea) (i : Nat) :
    calSlotBlank area i = true ↔ ∀ k, k < 32 → memRead area.slots (32 * i + k) = 0xFF#8 := by
  simp only [calSlotBlank, memBytes_eq, List.all_map, List.all_eq_true, List.mem_range, Function.comp_apply, beq_iff_eq]

theorem calBlank_eq (area : CalArea) (n : Nat) : calBlank area n =
    (((List.range' n (64 - n)).find? (calSlotBlank area)).or ((List.range 64).find? (calSlotBlank area))).getD n := by
  rw [calBlank, List.find?_append]
  congr 3
  rw [List.range_eq_range', List.drop_range', Nat.mul_one, Nat.zero_add]

/-- A blank slot of a calibration area. -/
abbrev BlankSlot (area : CalArea) (i : Nat) : Prop := i < 64 ∧ ∀ k, k < 32 → memRead area.slots (32 * i + k) = 0xFF#8

theorem not_calSlotBlank {area : CalArea} {i : Nat} (inside : i < 64) (h : ¬ BlankSlot area i) :
    (!calSlotBlank area i) = true := by
  rw [Bool.not_eq_true', Bool.eq_false_iff, Ne, calSlotBlank_iff]
  exact fun blank => h ⟨inside, blank⟩

/-- The first blank slot from one on. -/
theorem calBlank_from {area : CalArea} {n i : Nat} (blank : BlankSlot area i) (above : n ≤ i)
    (first : ∀ k, n ≤ k → k < i → ¬ BlankSlot area k) : calBlank area n = i := by
  obtain ⟨inside, bytes⟩ := blank
  have found : (List.range' n (64 - n)).find? (calSlotBlank area) = some i :=
    List.find?_range'_eq_some.mpr ⟨(calSlotBlank_iff area i).mpr bytes, List.mem_range'_1.mpr (by omega),
      fun k le lt => not_calSlotBlank (by omega) (first k le lt)⟩
  rw [calBlank_eq, found, Option.some_or, Option.getD_some]

/-- When none follows, the first blank slot of all. -/
theorem calBlank_wrapped {area : CalArea} {n i : Nat} (blank : BlankSlot area i) (noneFrom : ∀ k, n ≤ k → ¬ BlankSlot area k)
    (first : ∀ k, k < i → ¬ BlankSlot area k) : calBlank area n = i := by
  obtain ⟨inside, bytes⟩ := blank
  have missed : (List.range' n (64 - n)).find? (calSlotBlank area) = none :=
    List.find?_range'_eq_none.mpr fun k le lt => not_calSlotBlank (by omega) (noneFrom k le)
  have found : (List.range 64).find? (calSlotBlank area) = some i :=
    List.find?_range_eq_some.mpr ⟨(calSlotBlank_iff area i).mpr bytes, List.mem_range.mpr inside,
      fun k lt => not_calSlotBlank (by omega) (first k lt)⟩
  rw [calBlank_eq, missed, found, Option.none_or, Option.getD_some]

/-! ## One thing after another -/

theorem pump_zero (s : State) : pump 0 s = s := rfl

theorem pump_of_some {s t : State} (h : pumpOnce s = some t) (n : Nat) : pump (n + 1) s = pump n t := by
  rw [pump, h]

theorem pump_of_none {s : State} (h : pumpOnce s = none) (n : Nat) : pump (n + 1) s = s := by
  rw [pump, h]

/-! ## The drain (R197, R198) -/

theorem mem_jobs_iff (s : State) (j : Job) : some j ∈ s.jobs ↔ ∃ slot, s.job slot = some j := by
  rw [List.mem_iff_getElem?]
  refine exists_congr fun slot => ?_
  rw [State.job, List.getD_eq_getElem?_getD]
  cases s.jobs[slot]? with
  | none => simp
  | some x => simp

theorem drained_slots_iff (s : State) : s.drained = true ↔ (∀ sc, (s.chan sc).capture = none) ∧ s.commitQueue = [] ∧
    s.settlements = [] ∧ (∀ slot j, s.job slot = some j → j.state ≠ .printing) ∧ s.pass = none ∧ s.storeWrite = none := by
  have slots : (∀ j, some j ∈ s.jobs → j.state ≠ .printing) ↔ ∀ slot j, s.job slot = some j → j.state ≠ .printing :=
    ⟨fun h slot j held => h j ((mem_jobs_iff s j).mpr ⟨slot, held⟩),
      fun h j held => (mem_jobs_iff s j).mp held |>.elim fun slot at' => h slot j at'⟩
  rw [drained_iff, slots]

/-! ## The print engine takes a job (R148) -/

theorem mayPrint_iff (s : State) : s.mayPrint = true ↔
    s.pe.activity = .idle ∧ paused s.pe = false ∧ s.pe.link ≠ .offline ∧ s.mode = .run := by
  rw [State.mayPrint, Bool.and_eq_true, Bool.and_eq_true, Bool.and_eq_true, beq_iff_eq, Bool.not_eq_true', bne_iff_ne,
    beq_iff_eq, and_assoc, and_assoc]

/-- The conditions under which a job is taken, and there is one (R148). -/
abbrev State.Prints (s : State) : Prop :=
  s.pe.activity = .idle ∧ paused s.pe = false ∧ s.pe.link ≠ .offline ∧ s.mode = .run ∧
    ∃ slot j, slot < 16 ∧ s.job slot = some j ∧ j.state = .queued

theorem Prints_iff (s : State) :
    s.Prints ↔ s.mayPrint = true ∧ ∃ slot j, slot < 16 ∧ s.job slot = some j ∧ j.state = .queued := by
  rw [mayPrint_iff, and_assoc, and_assoc, and_assoc]

/-- The slot of the QUEUED job that comes first is the oldest. -/
theorem oldestQueued_first {s : State} {slot : Nat} {j : Job} (inside : slot < 16) (held : s.job slot = some j)
    (queued : j.state = .queued) (first : ∀ i k, i < 16 ∧ s.job i = some k ∧ k.state = .queued →
      j.age < k.age ∨ (j.age = k.age ∧ slot ≤ i)) : s.oldestQueued = some slot := by
  obtain ⟨missed, found⟩ := oldestQueued_spec s
  cases best : s.oldestQueued with
  | none => exact absurd ⟨held, queued⟩ (missed best slot inside j)
  | some b =>
    obtain ⟨below, ⟨k, at', waits⟩, before⟩ := found b best
    have le := before slot inside k j ⟨at', waits⟩ ⟨held, queued⟩
    have ge := first b k ⟨below, at', waits⟩
    exact congrArg some (by omega)

theorem oldestQueued_none_of_not_prints {s : State} (h : ¬ s.Prints) :
    (if s.mayPrint then s.oldestQueued else none) = none := by
  by_cases may : s.mayPrint = true
  · rw [if_pos may]
    cases best : s.oldestQueued with
    | none => rfl
    | some b =>
      obtain ⟨below, ⟨j, held, queued⟩, -⟩ := (oldestQueued_spec s).2 b best
      exact absurd ((Prints_iff s).mpr ⟨may, b, j, below, held, queued⟩) h
  · rw [if_neg may]

theorem pumpOnce_prints {s : State} {slot : Nat} {j : Job} (prints : s.Prints) (oldest : s.oldestQueued = some slot)
    (held : s.job slot = some j) : pumpOnce s = some (takeJob slot j s) := by
  rw [pumpOnce, if_pos ((Prints_iff s).mp prints).1, oldest]
  dsimp only
  rw [held, Option.map_some]

theorem takeJob_eq (slot : Nat) (j : Job) (s : State) : takeJob slot j s =
    let w : State := { s with jobs := s.jobs.set slot (some { j with state := .printing }) }
    if j.kind = .tally then { w with pe := { s.pe with
        activity := .sending, job := some slot, tx := jobText s j false (s.snapshot.elim [] (tallyBody s)) } }
      else { w with
        pe := { s.pe with activity := .fetching, job := some slot }
        engine := { s.engine with reads := s.engine.reads ++ [.fetch] } } := by
  cases h : s.snapshot with
  | none =>
    unfold takeJob
    dsimp only [State.setJob]
    rw [h]
    rfl
  | some n =>
    unfold takeJob
    dsimp only [State.setJob]
    rw [h]
    rfl

/-! ## An erase is suspended (R128, R129) -/

/-- A fetch is held back while 16 marks are pending (R129). -/
abbrev State.HoldsBack (s : State) (r : ReadReq) : Prop := r = .fetch ∧ 16 ≤ s.pendingMarks.length

theorem admitsRead_iff (s : State) (r : ReadReq) :
    (r != .fetch || decide (s.pendingMarks.length < 16)) = true ↔ ¬ s.HoldsBack r := by
  rw [Bool.or_eq_true, bne_iff_ne, decide_eq_true_eq, ← Nat.not_le, ← not_and_or]

theorem nextRead_eq_none_iff (s : State) : s.nextRead = none ↔ ∀ r ∈ s.engine.reads, s.HoldsBack r := by
  rw [State.nextRead, List.find?_eq_none]
  exact forall₂_congr fun r _ => by rw [admitsRead_iff, not_not]

/-- The read taken first is the one that no read before it keeps waiting. -/
theorem nextRead_split {s : State} {before after : List ReadReq} {r : ReadReq} (reads : s.engine.reads = before ++ r :: after)
    (held : ∀ x ∈ before, s.HoldsBack x) (goes : ¬ s.HoldsBack r) : s.nextRead = some r := by
  rw [State.nextRead, reads, List.find?_append,
    List.find?_eq_none.mpr fun x mem => (admitsRead_iff s x).not.mpr (not_not_intro (held x mem)), Option.none_or]
  exact List.find?_cons_of_pos (p := fun x => x != ReadReq.fetch || decide (s.pendingMarks.length < 16))
    ((admitsRead_iff s r).mpr goes)

theorem highWaiting_iff (s : State) :
    s.highWaiting = true ↔ ¬ ((∀ r ∈ s.engine.reads, s.HoldsBack r) ∧ s.engine.writes = []) := by
  rw [State.highWaiting, Bool.or_eq_true, not_and_or, ← nextRead_eq_none_iff, Bool.not_eq_true', List.isEmpty_eq_false_iff,
    Option.isSome_iff_ne_none]

theorem suspendable_iff (s : State) (e : EraseJob) : s.suspendable = some e ↔ s.engine.current = some .erase ∧
    s.engine.erase = some e ∧ e.count < 16 ∧ ¬ ((∀ r ∈ s.engine.reads, s.HoldsBack r) ∧ s.engine.writes = []) := by
  rw [State.suspendable, ← highWaiting_iff]
  split
  · rename_i h
    rw [Option.filter_eq_some_iff, decide_eq_true_eq]
    exact ⟨fun ⟨erase, count⟩ => ⟨h.1, erase, count, h.2⟩, fun ⟨_, erase, count, _⟩ => ⟨erase, count⟩⟩
  · rename_i h
    exact ⟨fun no => absurd no (by simp), fun ⟨current, _, _, waits⟩ => absurd ⟨current, waits⟩ h⟩

/-- With no job to take, the engine's part comes next. -/
theorem pumpOnce_of_not_prints {s : State} (h : ¬ s.Prints) : pumpOnce s = match s.suspendable with
    | some e => some { s with engine := { s.engine with
        current := none, erase := some { e with suspended := true, count := e.count + 1 } } }
    | none => if s.engine.current.isNone then takeWaiting s else none := by
  rw [pumpOnce, oldestQueued_none_of_not_prints h] <;> rfl

theorem pumpOnce_busy {s : State} (still : ¬ s.Prints) (busy : s.engine.current ≠ none)
    (runs : ∀ e, s.suspendable ≠ some e) : pumpOnce s = none := by
  rw [pumpOnce_of_not_prints still, Option.eq_none_iff_forall_ne_some.mpr runs]
  exact if_neg (fun h => busy (Option.isNone_iff_eq_none.mp h))

/-- A free engine takes what waits. -/
theorem pumpOnce_free {s : State} (still : ¬ s.Prints) (free : s.engine.current = none) : pumpOnce s = takeWaiting s := by
  have runs : s.suspendable = none := if_neg (fun h => by rw [free] at h; exact absurd h.1 (by simp))
  rw [pumpOnce_of_not_prints still, runs, free] <;> rfl

/-! ## The free engine (R127, R130) -/

theorem takeWaiting_read {s : State} {r : ReadReq} (h : s.nextRead = some r) : takeWaiting s = some (takeRead r s) := by
  rw [takeWaiting, h]

theorem takeWaiting_write {s : State} {w : WriteReq} {ws : List WriteReq} (noRead : s.nextRead = none)
    (h : s.engine.writes = w :: ws) : takeWaiting s =
      some (beginWrite w ({ s with engine := { s.engine with writes := ws } }.takeOp (opOf w))) := by
  rw [takeWaiting, noRead, h]

/-- With no read and no write to take, the marks follow. -/
theorem takeWaiting_marks {s : State} (noRead : s.nextRead = none) (noWrite : s.engine.writes = []) : takeWaiting s =
    if s.engine.erase.isSome then none
    else match s.pendingMarks with
      | m :: ms =>
        if s.entryMark m.receipt = some .complete then some (s.takeOp (.printedMark false))
        else some { s with pendingMarks := ms }
      | [] => if s.pass.isSome then some (s.takeOp (.auditMark false)) else none := by
  rw [takeWaiting, noRead, noWrite] <;> rfl

/-- The reads that stay when the first that is not held back is taken. -/
theorem reads_erase {s : State} {before after : List ReadReq} {r : ReadReq} (held : ∀ x ∈ before, s.HoldsBack x)
    (goes : ¬ s.HoldsBack r) : (before ++ r :: after).erase r = before ++ after := by
  rw [List.erase_append_right _ (fun mem => goes (held r mem)), List.erase_cons_head]

theorem takeRead_stream {s : State} {p : Port} {rest : List ReadReq} (h : s.engine.reads.erase (.stream p) = rest) :
    takeRead (.stream p) s = { s with engine := { s.engine with reads := rest, current := some (.stream p true) } } := by
  rw [takeRead, h]
  rfl

theorem takeRead_fetch {s : State} {rest : List ReadReq} (h : s.engine.reads.erase .fetch = rest) :
    takeRead .fetch s = if (s.lookup s.fetchNumber).isSome then
      { s with engine := { s.engine with reads := rest, current := some (.fetch s.fetchNumber true) } }
      else abandonFetch 2 { s with engine := { s.engine with reads := rest } } := by
  rw [takeRead, h]
  rfl

/-! ## The end of an event -/

theorem pumpOnce_takes_job (s : State) (slot : Nat) (j : Job) (prints : s.Prints)
    (queued : slot < 16 ∧ s.job slot = some j ∧ j.state = .queued)
    (first : ∀ i k, i < 16 ∧ s.job i = some k ∧ k.state = .queued → j.age < k.age ∨ (j.age = k.age ∧ slot ≤ i)) :
    pumpOnce s = some (takeJob slot j s) := by
  obtain ⟨inside, held, waits⟩ := queued
  exact pumpOnce_prints prints (oldestQueued_first inside held waits first) held

theorem drainTest_cases (s : State) :
    (s.mode = .configPending → s.drained = true → drainTest s = enterConfigMode s) ∧
    (s.mode ≠ .configPending ∨ ¬ s.drained = true → drainTest s = s) :=
  ⟨fun mode drained => if_pos ⟨mode, drained⟩, fun h => if_neg (not_and_or.mpr h)⟩

/-- Settles O52: one case for each kind of work, and the frame of the end of an event. -/
theorem eventEndsQuietly : Obligations.EventEndsQuietly := by
  refine ⟨fun area n => ⟨fun i => calBlank_from, fun i => calBlank_wrapped⟩, fun s => ⟨rfl, pump_zero s⟩,
    fun n s t => ⟨fun h => pump_of_some h n, fun h => pump_of_none h n⟩, fun s => ?_, fun s => ⟨?_, ?_, ?_, ?_, ?_, ?_⟩,
    fun s p => ?_⟩
  · have cases' := drainTest_cases s
    rw [drained_slots_iff] at cases'
    exact cases'
  · intro slot j prints queued first
    rw [pumpOnce_takes_job s slot j prints queued first, takeJob_eq]
  · intro e still suspends
    rw [pumpOnce_of_not_prints still, (suspendable_iff s e).mpr suspends]
  · intro still busy runs
    exact pumpOnce_busy still busy fun e h => runs e ((suspendable_iff s e).mp h)
  · intro before r after ⟨still, free⟩ reads held goes
    have takes := (pumpOnce_free still free).trans (takeWaiting_read (nextRead_split reads held goes))
    have rest : s.engine.reads.erase r = before ++ after := by rw [reads, reads_erase held goes]
    refine ⟨fun p stream => ?_, fun fetch retained => ?_, fun fetch gone => ?_⟩
    · subst stream
      rw [takes, takeRead_stream rest]
    · subst fetch
      have found : s.lookup s.fetchNumber ≠ none := retained
      rw [takes, takeRead_fetch rest, if_pos (Option.isSome_iff_ne_none.mpr found)]
      rfl
    · subst fetch
      have missing : s.lookup s.fetchNumber = none := gone
      rw [takes, takeRead_fetch rest, missing]
      rfl
  · intro w ws ⟨still, free⟩ noRead writes
    have takes := (pumpOnce_free still free).trans (takeWaiting_write ((nextRead_eq_none_iff s).mpr noRead) writes)
    refine ⟨fun x mem same => ?_, fun sc same => ?_, fun sc same => ?_⟩
    · rw [takes, same]
      simp only [List.mem_cons, List.not_mem_nil, or_false] at mem
      rcases mem with rfl | rfl | rfl | rfl <;> rfl
    · rw [takes, same]
      rfl
    · rw [takes, same]
      rfl
  · intro ⟨still, free⟩ noRead writes
    have takes := (pumpOnce_free still free).trans (takeWaiting_marks ((nextRead_eq_none_iff s).mpr noRead) writes)
    refine ⟨fun erases => ?_, fun m ms noErase marks => ?_, fun noErase marks => ?_⟩
    · rw [takes, if_pos (Option.isSome_iff_ne_none.mpr erases)]
    · rw [noErase, marks] at takes
      exact takes
    · rw [noErase, marks] at takes
      refine takes.trans (?_ : (if s.pass.isSome then some (s.takeOp (.auditMark false)) else none) = _)
      by_cases idle : s.pass = none
      · rw [if_pos idle, if_neg (by simp [idle])]
      · rw [if_neg idle, if_pos (Option.isSome_iff_ne_none.mpr idle)]
        rfl
  · have frame := settle_frame s
    have plain := settle_plain s p
    have same {α : Type} (f : State → α) := congrArg f frame
    have kept {α : Type} (f : PortCtx → α) := congrArg f plain
    exact ⟨same State.tickets, same State.settings, same State.clock, same State.clockSet, same State.journal, same State.cal,
      same State.store, same State.storeWrite, same State.tares, same State.holds, same State.tally, same State.snapshot,
      same State.sectors, same State.counter, same State.commitQueue, same State.head, same State.settlements,
      same State.calJobs, same State.pass, same State.faults, same State.nextTicket, same State.dirty, same State.pending,
      kept PortCtx.state, kept PortCtx.result, kept PortCtx.enabled, kept PortCtx.filter, kept PortCtx.overrun,
      kept PortCtx.stream, settle_mode s⟩

end Sys2Proof.Machine
end

section
/-! PROOFS. LEAVE CONFIG, STORE SETTINGS and the operations of a store write (R196, R199, R201, R202). -/

namespace Sys2Proof.Machine

/-! ## The end of an event -/

/-- Only CONFIG_PENDING is left at the end of an event (R198). -/
theorem settle_mode_of_ne {s : State} (h : s.mode ≠ .configPending) : (settle s).mode = s.mode :=
  (settle_mode s).resolve_right fun enters => h enters.1

/-- The answer of a request stands at the end of its event. -/
theorem settle_reply_port (p : Port) (code : ResultCode) (data : List Byte) (s : State) :
    ((settle (reply p code data s)).port p).result = some ⟨code, data⟩ ∧
    ((settle (reply p code data s)).port p).state = .done := by
  have plain := settle_plain (reply p code data s) p
  exact ⟨(congrArg PortCtx.result plain).trans (reply_port_result ..), (congrArg PortCtx.state plain).trans (reply_port_state ..)⟩

/-! ## LEAVE CONFIG and STORE SETTINGS (R199, R202) -/

theorem exec_leaveConfig (p : Port) (s : State) : exec (.leaveConfig p) s = request p s (leaveConfig p) := rfl

theorem exec_storeSettings (p : Port) (s : State) : exec (.storeSettings p) s = request p s (storeSettings p) := rfl

theorem leaveConfig_eq (p : Port) (s : State) : leaveConfig p s =
    if s.role p ≠ .office then refuse p .role s
    else if s.mode = .starting then refuse p .mode s
    else settle (reply p .ok (be 1 (modeCode (leaveConfigEffect s).mode)) (leaveConfigEffect s)) := by
  rw [leaveConfig, guarded_cons_of_iff (isOffice_eq_false_iff s p), guarded_cons_of_iff (started_eq_false_iff s), guarded_nil]

theorem leaveConfigEffect_configPending {s : State} (h : s.mode = .configPending) :
    leaveConfigEffect s = broadcast ⟨.modeChange, none, [2#8, 1#8], s.clock⟩ { s with mode := .run } := by
  rw [leaveConfigEffect, h]
  dsimp only
  rw [setMode, h]
  rfl

theorem leaveConfigEffect_config {s : State} (h : s.mode = .config) :
    leaveConfigEffect s =
      beginStoreWrite (broadcast ⟨.modeChange, none, [3#8, 4#8], s.clock⟩ { s with mode := .storing }) := by
  rw [leaveConfigEffect, h]
  dsimp only
  rw [setMode, h]
  rfl

theorem leaveConfigEffect_run {s : State} (h : s.mode = .run) : leaveConfigEffect s = s := by
  rw [leaveConfigEffect, h]

theorem leaveConfigEffect_storing {s : State} (h : s.mode = .storing) : leaveConfigEffect s = s := by
  rw [leaveConfigEffect, h]

theorem storeSettings_eq (p : Port) (s : State) : storeSettings p s =
    if s.role p ≠ .office then refuse p .role s
    else if s.mode ≠ .run then refuse p .mode s
    else if s.storeWrite.isSome = true then refuse p .state s
    else settle (beginStoreWrite (reply p .ok [] s)) := by
  rw [storeSettings, guarded_cons_of_iff (isOffice_eq_false_iff s p), guarded_cons_of_iff (isRun_eq_false_iff s),
    guarded_cons_of_iff (bad := s.storeWrite.isSome = true) (by cases s.storeWrite <;> simp), guarded_nil]

/-- What LEAVE CONFIG leaves, when its effect has left CONFIG_PENDING behind. -/
theorem settle_modeAnswer (p : Port) {w : State} (h : w.mode ≠ .configPending) :
    let t := settle (reply p .ok [BitVec.ofNat 8 (modeCode w.mode)] w)
    t.mode = w.mode ∧ (t.port p).result = some ⟨.ok, [BitVec.ofNat 8 (modeCode t.mode)]⟩ ∧ (t.port p).state = .done ∧
      t.storeWrite = w.storeWrite ∧ t.settings = w.settings ∧ t.dirty = w.dirty ∧ t.storeRecord = w.storeRecord ∧
      t.store = w.store ∧ t.journal = w.journal ∧ t.tickets = w.tickets ∧ t.clock = w.clock := by
  intro t
  have kept : t.mode = w.mode := settle_mode_of_ne h
  have same {α : Type} (f : State → α) := congrArg f (settle_frame (reply p .ok [BitVec.ofNat 8 (modeCode w.mode)] w))
  obtain ⟨result, done⟩ := settle_reply_port p .ok [BitVec.ofNat 8 (modeCode w.mode)] w
  exact ⟨kept, by rw [kept]; exact result, done, same State.storeWrite, same State.settings, same State.dirty,
    same State.storeRecord, same State.store, same State.journal, same State.tickets, same State.clock⟩

/-- What STORE SETTINGS leaves when it is accepted. -/
theorem settle_beginStoreWrite (p : Port) {w : State} (h : w.mode ≠ .configPending) :
    let t := settle (beginStoreWrite (reply p .ok [] w))
    (t.port p).result = some ⟨.ok, []⟩ ∧ (t.port p).state = .done ∧ t.settings = copyPrices w.settings ∧ t.dirty = false ∧
      t.storeRecord = true ∧ t.storeWrite = some ⟨copyPrices w.settings, 1⟩ ∧ t.mode = w.mode ∧ t.store = w.store ∧
      t.journal = w.journal ∧ t.tickets = w.tickets ∧ t.clock = w.clock := by
  intro t
  have kept : t.mode = w.mode := settle_mode_of_ne h
  have same {α : Type} (f : State → α) := congrArg f (settle_frame (beginStoreWrite (reply p .ok [] w)))
  have plain := settle_plain (beginStoreWrite (reply p .ok [] w)) p
  exact ⟨(congrArg PortCtx.result plain).trans (reply_port_result p .ok [] w),
    (congrArg PortCtx.state plain).trans (reply_port_state p .ok [] w), same State.settings, same State.dirty,
    same State.storeRecord, same State.storeWrite, kept, same State.store, same State.journal, same State.tickets,
    same State.clock⟩

/-- Settles O21: LEAVE CONFIG by the mode that it is given in, STORE SETTINGS by its checks. -/
theorem storeWritesBegin : Obligations.StoreWritesBegin := by
  refine ⟨fun t => rfl, fun p s taking => ?_, fun p s taking => ?_⟩
  · have answer := (exec_leaveConfig p s).trans (request_taking taking _)
    rw [leaveConfig_eq, taken_role, taken_mode, refuse_taken, refuse_taken] at answer
    refine ⟨fun role => ?_, fun role mode => ?_, fun role mode => ?_⟩
    · rw [answer, if_pos role]
    · rw [answer, if_neg (not_not_intro role), if_pos mode]
    · rw [if_neg (not_not_intro role), if_neg mode, be_one] at answer
      cases now : s.mode with
      | starting => exact absurd now mode
      | run =>
        rw [leaveConfigEffect_run (s := taken p s) now] at answer
        obtain ⟨kept, result, done, rest⟩ := settle_modeAnswer p (w := taken p s) (by rw [taken_mode, now]; decide)
        obtain ⟨write, settings, dirty, record, store, journal, tickets, clock⟩ := rest
        exact ⟨_, answer, kept.trans now, result, done, write, settings, dirty, record, store, journal, tickets, clock,
          by rw [taken_mode, now]; rfl⟩
      | configPending =>
        rw [leaveConfigEffect_configPending (s := taken p s) now] at answer
        obtain ⟨kept, result, done, rest⟩ := settle_modeAnswer p
          (w := broadcast ⟨.modeChange, none, [2#8, 1#8], s.clock⟩ { taken p s with mode := .run })
          (show Mode.run ≠ .configPending by decide)
        obtain ⟨write, settings, dirty, record, store, journal, tickets, clock⟩ := rest
        exact ⟨_, answer, kept, result, done, write, settings, dirty, record, store, journal, tickets, clock, rfl⟩
      | config =>
        rw [leaveConfigEffect_config (s := taken p s) now] at answer
        obtain ⟨kept, result, done, rest⟩ := settle_modeAnswer p (w := beginStoreWrite
          (broadcast ⟨.modeChange, none, [3#8, 4#8], s.clock⟩ { taken p s with mode := .storing }))
          (show Mode.storing ≠ .configPending by decide)
        obtain ⟨write, settings, dirty, record, store, journal, tickets, clock⟩ := rest
        exact ⟨_, answer, kept, result, done, write, settings, dirty, record, store, journal, tickets, clock, rfl⟩
      | storing =>
        rw [leaveConfigEffect_storing (s := taken p s) now] at answer
        obtain ⟨kept, result, done, rest⟩ := settle_modeAnswer p (w := taken p s) (by rw [taken_mode, now]; decide)
        obtain ⟨write, settings, dirty, record, store, journal, tickets, clock⟩ := rest
        exact ⟨_, answer, kept.trans now, result, done, write, settings, dirty, record, store, journal, tickets, clock,
          by rw [taken_mode, now]; rfl⟩
  · have answer := (exec_storeSettings p s).trans (request_taking taking _)
    rw [storeSettings_eq, taken_role, taken_mode, taken_storeWrite, refuse_taken, refuse_taken, refuse_taken] at answer
    refine ⟨fun role => ?_, fun role mode => ?_, fun role mode writes => ?_, fun role mode idle => ?_⟩
    · rw [answer, if_pos role]
    · rw [answer, if_neg (not_not_intro role), if_pos mode]
    · rw [answer, if_neg (not_not_intro role), if_neg (not_not_intro mode), if_pos writes]
    · rw [if_neg (not_not_intro role), if_neg (not_not_intro mode), if_neg (by simp [idle])] at answer
      obtain ⟨result, done, settings, dirty, record, write, kept, store, journal, tickets, clock⟩ := settle_beginStoreWrite p
        (w := taken p s) (by rw [taken_mode, mode]; decide)
      exact ⟨_, answer, result, done, settings, dirty, record, write, kept.trans mode, store, journal, tickets, clock, rfl⟩

end Sys2Proof.Machine
end

section
/-! PROOFS. The three operations of a store write (R196, R201). -/

namespace Sys2Proof.Machine

/-! ## The ends of a store write (R201) -/

/-- A store write that was under way in a mode, at a time, has ended: the record is cleared, and STORING becomes RUN (R196, R201). -/
def storeEnded (m : Mode) (time : Nat) (v : State) : State :=
  let v : State := { v with storeWrite := none, storeRecord := false }
  if m = .storing then broadcast ⟨.modeChange, none, [4#8, 1#8], time⟩ { v with mode := .run } else v

theorem setMode_of_storing {s : State} (h : s.mode = .storing) :
    setMode .run s = broadcast ⟨.modeChange, none, [4#8, 1#8], s.clock⟩ { s with mode := .run } := by
  rw [setMode, h]
  rfl

/-- STORING becomes RUN. -/
def storingEnds (s : State) : State := if s.mode = .storing then setMode .run s else s

theorem storeEnded_eq (s : State) : storeEnded s.mode s.clock s = storingEnds { s with storeRecord := false, storeWrite := none } := by
  unfold storeEnded storingEnds
  by_cases storing : s.mode = .storing
  · rw [if_pos storing, if_pos storing, setMode_of_storing (by exact storing)]
  · rw [if_neg storing, if_neg storing]

/-- A setting event, by whether it is a fresh one, in a state that has the store's record otherwise. -/
theorem setFault_storeRecord (k : FaultKind) (d : FaultDetail) (s : State) :
    setFault k d { s with storeRecord := false, storeWrite := none } =
      { setFault k d s with storeRecord := false, storeWrite := none } := by
  cases clear : s.fault k with
  | none => cases masked : s.masked k with
    | false => rw [setFault_fresh clear masked, setFault_fresh (by exact clear) (by exact masked)]; rfl
    | true => rw [setFault_standing (.inr masked), setFault_standing (.inr (by exact masked))]
  | some r =>
    have stands : (s.fault k).isSome = true := by rw [clear]; rfl
    rw [setFault_standing (.inl stands), setFault_standing (.inl (by exact stands))]

theorem setFault_mode (k : FaultKind) (d : FaultDetail) (s : State) : (setFault k d s).mode = s.mode :=
  (congrArg State.mode (setFault_frame k d s) :)

theorem setFault_clock (k : FaultKind) (d : FaultDetail) (s : State) : (setFault k d s).clock = s.clock :=
  (congrArg State.clock (setFault_frame k d s) :)

theorem endStoreWrite_good (s : State) : endStoreWrite false s = settle (storeEnded s.mode s.clock s) := by
  rw [storeEnded_eq]
  rfl

theorem endStoreWrite_failed (s : State) :
    endStoreWrite true s = settle (storeEnded s.mode s.clock (setFault .storeMedia .store { s with dirty := true })) := by
  have ended := storeEnded_eq (setFault .storeMedia .store { s with dirty := true })
  rw [← setFault_storeRecord, setFault_mode, setFault_clock] at ended
  exact (congrArg settle ended).symm

/-- The next operation of a store write is handed to the engine, which has taken one that waited (R202). -/
def storeHanded (w : WriteReq) (s : State) : State :=
  let u := settle s
  { u with engine := { u.engine with writes := u.engine.writes ++ [w] } }

theorem retryStoreWrite_eq (w : StoreWrite) (s : State) : retryStoreWrite w s =
    settle (if w.attempt = 1 then storeHanded .storeErase { s with storeWrite := some { w with attempt := 2 } }
      else storeEnded s.mode s.clock (setFault .storeMedia .store { s with dirty := true })) := by
  unfold retryStoreWrite
  split
  · rfl
  · exact endStoreWrite_failed s

/-- What an operation of a store write leads to: `done` is the state in which it has ended, and `next` the operation that follows a good
one. -/
def storeGoesOn (good : Bool) (w : StoreWrite) (next : Option WriteReq) (done : State) : State :=
  if good then (match next with
    | some q => storeHanded q done
    | none => storeEnded done.mode done.clock done)
  else if w.attempt = 1 then storeHanded .storeErase { done with storeWrite := some { w with attempt := 2 } }
  else storeEnded done.mode done.clock (setFault .storeMedia .store { done with dirty := true })

theorem storeErased_eq (good : Bool) (w : StoreWrite) (s : State) : storeErased good w s =
    settle (storeGoesOn good w (some .storeImage) { s.endOp with store := ⟨none, false⟩ }) := by
  cases good with
  | true => rfl
  | false => exact retryStoreWrite_eq w _

theorem imageProgrammed_eq (good : Bool) (w : StoreWrite) (s : State) : imageProgrammed good w s = settle (storeGoesOn good w
    (some .storeMark) { s.endOp with store := ⟨if good then some w.staged else none, false⟩ }) := by
  cases good with
  | true => rfl
  | false => exact retryStoreWrite_eq w _

theorem markProgrammed_eq (good : Bool) (w : StoreWrite) (s : State) : markProgrammed good w s =
    settle (storeGoesOn good w none { s.endOp with store := ⟨s.store.image, good⟩ }) := by
  cases good with
  | true => exact endStoreWrite_good _
  | false => exact retryStoreWrite_eq w _

/-! ## What they leave -/

theorem storeHanded_frame (q : WriteReq) (s : State) : storeHanded q s = { s with
    mode := (storeHanded q s).mode, channels := (storeHanded q s).channels, engine := (storeHanded q s).engine
    pendingMarks := (storeHanded q s).pendingMarks, jobs := (storeHanded q s).jobs, pe := (storeHanded q s).pe
    ageCounter := (storeHanded q s).ageCounter, backlog := (storeHanded q s).backlog, ports := (storeHanded q s).ports
    free := (storeHanded q s).free } :=
  congrArg (fun u : State => { u with engine := { u.engine with writes := u.engine.writes ++ [q] } }) (settle_frame s)

theorem storeEnded_frame (m : Mode) (time : Nat) (s : State) : storeEnded m time s = { s with
    storeWrite := none, storeRecord := false, mode := (storeEnded m time s).mode, ports := (storeEnded m time s).ports } := by
  unfold storeEnded
  dsimp only
  split <;> rfl

/-- A store write that ends in STORING or RUN ends in RUN. -/
theorem storeEnded_mode {s : State} (h : s.mode = .storing ∨ s.mode = .run) (time : Nat) :
    (storeEnded s.mode time s).mode = .run := by
  rcases h with storing | run
  · rw [storeEnded, if_pos storing]
    rfl
  · rw [storeEnded, if_neg (by rw [run]; decide)]
    exact run

theorem settle_storeEnded_mode {s : State} (h : s.mode = .storing ∨ s.mode = .run) (time : Nat) :
    (settle (storeEnded s.mode time s)).mode = .run := by
  have ends := storeEnded_mode h time
  exact (settle_mode_of_ne (by rw [ends]; decide)).trans ends

theorem fault_of_faults {s t : State} {k : FaultKind} {r : Option FaultRecord} (size : s.faults.length = 11)
    (h : t.faults = s.faults.set (faultIndex k) r) : t.fault k = r :=
  Eq.trans (by rw [State.fault, h]; rfl) (fault_set_same size k r)

/-- The store, the journal, the settings, the tickets and the clock are as they were. -/
abbrev StoreKept (s t : State) : Prop :=
  t.store = s.store ∧ t.journal = s.journal ∧ t.settings = s.settings ∧ t.tickets = s.tickets ∧ t.clock = s.clock

/-- After an operation has been handed on, the store write stands as it was. -/
theorem settle_storeHanded (q : WriteReq) (s : State) :
    let t := settle (storeHanded q s)
    StoreKept s t ∧ t.storeWrite = s.storeWrite ∧ t.storeRecord = s.storeRecord ∧ t.dirty = s.dirty ∧ t.faults = s.faults := by
  intro t
  have settled {α : Type} (f : State → α) := congrArg f (settle_frame (storeHanded q s))
  have handed {α : Type} (f : State → α) := congrArg f (storeHanded_frame q s)
  exact ⟨⟨(settled State.store).trans (handed State.store), (settled State.journal).trans (handed State.journal),
      (settled State.settings).trans (handed State.settings), (settled State.tickets).trans (handed State.tickets),
      (settled State.clock).trans (handed State.clock)⟩,
    (settled State.storeWrite).trans (handed State.storeWrite), (settled State.storeRecord).trans (handed State.storeRecord),
    (settled State.dirty).trans (handed State.dirty), (settled State.faults).trans (handed State.faults)⟩

/-- After its end there is no store write. -/
theorem settle_storeEnded (s : State) (time : Nat) :
    let t := settle (storeEnded s.mode time s)
    StoreKept s t ∧ t.storeWrite = none ∧ t.storeRecord = false ∧ t.dirty = s.dirty ∧ t.faults = s.faults ∧
      (s.mode = .storing ∨ s.mode = .run → t.mode = .run) := by
  intro t
  have settled {α : Type} (f : State → α) := congrArg f (settle_frame (storeEnded s.mode time s))
  have ended {α : Type} (f : State → α) := congrArg f (storeEnded_frame s.mode time s)
  exact ⟨⟨(settled State.store).trans (ended State.store), (settled State.journal).trans (ended State.journal),
      (settled State.settings).trans (ended State.settings), (settled State.tickets).trans (ended State.tickets),
      (settled State.clock).trans (ended State.clock)⟩,
    (settled State.storeWrite).trans (ended State.storeWrite), (settled State.storeRecord).trans (ended State.storeRecord),
    (settled State.dirty).trans (ended State.dirty), (settled State.faults).trans (ended State.faults), fun h => settle_storeEnded_mode h time⟩

/-- A store write that fails for the second time leaves the settings dirty, with STORE_MEDIA set. -/
theorem settle_storeFailed {s : State} (size : s.faults.length = 11) :
    let t := settle (storeEnded s.mode s.clock (setFault .storeMedia .store { s with dirty := true }))
    StoreKept s t ∧ t.storeWrite = none ∧ t.storeRecord = false ∧ t.dirty = true ∧
      t.fault .storeMedia = some ⟨.store, s.clock⟩ ∧ (s.mode = .storing ∨ s.mode = .run → t.mode = .run) := by
  intro t
  have set {α : Type} (f : State → α) := congrArg f (setFault_frame .storeMedia .store { s with dirty := true })
  have ended := settle_storeEnded (setFault .storeMedia .store { s with dirty := true }) s.clock
  rw [setFault_mode] at ended
  obtain ⟨⟨store, journal, settings, tickets, clock⟩, write, record, dirty, faults, mode⟩ := ended
  exact ⟨⟨store.trans (set State.store), journal.trans (set State.journal), settings.trans (set State.settings),
    tickets.trans (set State.tickets), clock.trans (set State.clock)⟩, write, record, dirty.trans (set State.dirty),
    fault_of_faults size (faults.trans (set State.faults)), mode⟩

theorem storeGoesOn_good (w : StoreWrite) (q : WriteReq) (s : State) : storeGoesOn true w (some q) s = storeHanded q s := rfl

theorem storeGoesOn_last (w : StoreWrite) (s : State) : storeGoesOn true w none s = storeEnded s.mode s.clock s := rfl

theorem storeGoesOn_again {w : StoreWrite} (first : w.attempt = 1) (next : Option WriteReq) (s : State) :
    storeGoesOn false w next s = storeHanded .storeErase { s with storeWrite := some { w with attempt := 2 } } := if_pos first

theorem storeGoesOn_failed {w : StoreWrite} (second : w.attempt ≠ 1) (next : Option WriteReq) (s : State) :
    storeGoesOn false w next s =
      storeEnded s.mode s.clock (setFault .storeMedia .store { s with dirty := true }) := if_neg second

/-- What the end of an operation of a store write leaves, by its read-back and its place. -/
theorem settle_storeGoesOn (good : Bool) (w : StoreWrite) (next : Option WriteReq) {s : State} (size : s.faults.length = 11) :
    let t := settle (storeGoesOn good w next s)
    StoreKept s t ∧
    (good = true → next ≠ none → t.storeWrite = s.storeWrite ∧ t.storeRecord = s.storeRecord ∧ t.dirty = s.dirty ∧
      t.faults = s.faults) ∧
    (good = true → next = none → t.storeWrite = none ∧ t.storeRecord = false ∧ t.dirty = s.dirty ∧ t.faults = s.faults ∧
      (s.mode = .storing ∨ s.mode = .run → t.mode = .run)) ∧
    (good = false → w.attempt = 1 → t.storeWrite = some { w with attempt := 2 } ∧ t.storeRecord = s.storeRecord) ∧
    (good = false → w.attempt ≠ 1 → t.storeWrite = none ∧ t.storeRecord = false ∧ t.dirty = true ∧
      t.fault .storeMedia = some ⟨.store, s.clock⟩ ∧ (s.mode = .storing ∨ s.mode = .run → t.mode = .run)) := by
  cases good with
  | true =>
    cases next with
    | some q =>
      obtain ⟨kept, stands⟩ := settle_storeHanded q s
      rw [storeGoesOn_good]
      exact ⟨kept, fun _ _ => stands, by simp, by simp, by simp⟩
    | none =>
      obtain ⟨kept, ended⟩ := settle_storeEnded s s.clock
      rw [storeGoesOn_last]
      exact ⟨kept, by simp, fun _ _ => ended, by simp, by simp⟩
  | false =>
    by_cases first : w.attempt = 1
    · obtain ⟨kept, write, record, -⟩ := settle_storeHanded .storeErase { s with storeWrite := some { w with attempt := 2 } }
      rw [storeGoesOn_again first]
      exact ⟨kept, by simp, by simp, fun _ _ => ⟨write, record⟩, fun _ second => absurd first second⟩
    · obtain ⟨kept, failed⟩ := settle_storeFailed size
      rw [storeGoesOn_failed first]
      exact ⟨kept, by simp, by simp, fun _ again => absurd again first, fun _ _ => failed⟩

/-! ## The commands -/

theorem execStoreErase_next {good : Bool} {w : StoreWrite} {s : State} (powered : s.powered = true)
    (current : s.engine.current = some .storeErase) (write : s.storeWrite = some w) :
    exec (.storeErase good) s = .next (storeErased good w s) := by
  refine (exec_storeErase ..).trans ((event_powered powered _).trans ?_)
  rw [current, write]

theorem execStoreImageProgram_next {good : Bool} {w : StoreWrite} {s : State} (powered : s.powered = true)
    (current : s.engine.current = some .storeImage) (write : s.storeWrite = some w) :
    exec (.storeImageProgram good) s = .next (imageProgrammed good w s) := by
  refine (exec_storeImageProgram ..).trans ((event_powered powered _).trans ?_)
  rw [current, write]

theorem execStoreValidMark_next {good : Bool} {w : StoreWrite} {s : State} (powered : s.powered = true)
    (current : s.engine.current = some .storeMark) (write : s.storeWrite = some w) :
    exec (.storeValidMark good) s = .next (markProgrammed good w s) := by
  refine (exec_storeValidMark ..).trans ((event_powered powered _).trans ?_)
  rw [current, write]

/-- Settles O22: each of the three operations goes on as `storeGoesOn` says. -/
theorem storeWriteSteps : Obligations.StoreWriteSteps := by
  intro good w s powered write size x mem current
  simp only [List.mem_cons, List.not_mem_nil, or_false] at mem
  rcases mem with rfl | rfl | rfl
  · have next := (execStoreErase_next (good := good) powered current write).trans (congrArg _ (storeErased_eq good w s))
    obtain ⟨⟨store, journal, settings, tickets, clock⟩, goesOn, -, again, failed⟩ :=
      settle_storeGoesOn good w (some .storeImage) (s := { s.endOp with store := ⟨none, false⟩ }) size
    refine ⟨next, _, next, store, journal, settings, tickets, clock, fun ok _ => ?_, by simp, again, failed⟩
    obtain ⟨still, rest⟩ := goesOn ok (by simp)
    exact ⟨still.trans write, rest⟩
  · have next := (execStoreImageProgram_next (good := good) powered current write).trans (congrArg _ (imageProgrammed_eq good w s))
    obtain ⟨⟨store, journal, settings, tickets, clock⟩, goesOn, -, again, failed⟩ :=
      settle_storeGoesOn good w (some .storeMark) (s := { s.endOp with store := ⟨if good then some w.staged else none, false⟩ }) size
    refine ⟨next, _, next, store, journal, settings, tickets, clock, fun ok _ => ?_, by simp, again, failed⟩
    obtain ⟨still, rest⟩ := goesOn ok (by simp)
    exact ⟨still.trans write, rest⟩
  · have next := (execStoreValidMark_next (good := good) powered current write).trans (congrArg _ (markProgrammed_eq good w s))
    obtain ⟨⟨store, journal, settings, tickets, clock⟩, -, last, again, failed⟩ :=
      settle_storeGoesOn good w none (s := { s.endOp with store := ⟨s.store.image, good⟩ }) size
    exact ⟨next, _, next, store, journal, settings, tickets, clock, by simp, fun ok _ => last ok rfl, again, failed⟩

end Sys2Proof.Machine
end

section
/-! PROOFS. A loss of power (R206). -/

namespace Sys2Proof.Machine

/-! ## Without power -/

/-- Without power a command is no event: the effect is not taken. -/
theorem exec_unpowered {c : Instr} {s : State} (off : s.powered = false) (noClock : c ≠ .clockAdvance)
    (noLoss : ∀ cut, c ≠ .mainSupplyLoss cut) (noReset : ∀ cut, c ≠ .resetNLow cut) (noStart : ∀ r e d, c ≠ .start r e d) :
    exec c s = .next s := by
  have unpowered : ¬ s.powered = true := by rw [off]; exact Bool.false_ne_true
  cases c with
  | clockAdvance => exact absurd rfl noClock
  | mainSupplyLoss cut => exact absurd rfl (noLoss cut)
  | resetNLow cut => exact absurd rfl (noReset cut)
  | start r e d => exact absurd rfl (noStart r e d)
  | _ => exact congrArg Host.Outcome.next (if_neg unpowered)

/-! ## What an operation leaves when it is cut short -/

theorem stopPart_idle {s : State} (h : s.powered = false ∨ s.engine.current = none) (cut : Cells) : stopPart cut s = s := by
  rcases h with off | idle
  · rw [stopPart, if_neg (by rw [off]; exact Bool.false_ne_true)]
  · have stands : cutOperation cut s = s := by rw [cutOperation, idle]
    rw [stopPart, stands]
    split
    · exact congrArg (fun e : Engine => { s with engine := e })
        (show { s.engine with current := none } = s.engine by rw [← idle])
    · rfl

/-- A loss of the main supply and a low RESET_N leave what a cut-short operation leaves, with no operation in hand. -/
abbrev PowerLeaves (cut : Cells) (s u : State) : Prop :=
  exec (.mainSupplyLoss cut) s = .next { u with
    engine := { s.engine with current := none }, supply := false, lostSupply := true } ∧
  exec (.resetNLow cut) s = .next { u with engine := { s.engine with current := none }, resetHigh := false }

theorem powerLeaves {cut : Cells} {s u : State} (powered : s.powered = true) (left : cutOperation cut s = u)
    (engine : u.engine = s.engine) : PowerLeaves cut s u := by
  have stops : stopPart cut s = { u with engine := { s.engine with current := none } } := by
    rw [stopPart, if_pos powered, left, State.endOp, engine]
  constructor
  · rw [exec_mainSupplyLoss, execMainSupplyLoss, stops]
  · rw [exec_resetNLow, execResetNLow, stops]

theorem cutOperation_commitStep {cut : Cells} {s : State} {h : Head} (current : s.engine.current = some .commitStep)
    (head : s.head = some h) : cutOperation cut s = { s with
      journal := memProgram s.journal (entryAddr h.sector h.slot + (stepBytes h).1) (stepBytes h).2 cut.stuck cut.lost } := by
  refine Eq.trans (b := cutProgram (entryAddr h.sector h.slot + (stepBytes h).1) (stepBytes h).2 cut s) ?_ rfl
  rw [cutOperation, current]
  dsimp only
  rw [head]

theorem cutOperation_printedMark {cut : Cells} {s : State} {again : Bool} {m : MarkReq} {ms : List MarkReq} {i slot : Nat}
    (current : s.engine.current = some (.printedMark again)) (marks : s.pendingMarks = m :: ms)
    (found : s.lookup m.receipt = some (i, slot)) : cutOperation cut s = { s with
      journal := memProgram (memProgram s.journal (entryAddr i slot) [0x1F#8] cut.stuck cut.lost) (entryAddr i slot + 12)
        (be 4 m.time) (cut.stuck.drop 1) (cut.lost.drop 1) } := by
  have first : s.pendingMarks.head?.bind (fun m => (s.lookup m.receipt).map (fun x => (m.time, x))) = some (m.time, i, slot) := by
    rw [marks, List.head?_cons, Option.bind_some, found, Option.map_some]
  rw [cutOperation, current]
  dsimp only
  rw [first]
  rfl

theorem cutOperation_auditMark {cut : Cells} {s : State} {again : Bool} {q : Pass} {i slot : Nat}
    (current : s.engine.current = some (.auditMark again)) (pass : s.pass = some q)
    (found : s.unaudited q.next = some (i, slot)) : cutOperation cut s = { s with
      journal := memProgram s.journal (entryAddr i slot) [0x77#8] cut.stuck cut.lost } := by
  have next : s.pass.bind (fun q => s.unaudited q.next) = some (i, slot) := by rw [pass, Option.bind_some, found]
  rw [cutOperation, current]
  dsimp only
  rw [next]
  rfl

theorem cutOperation_erase {cut : Cells} {s : State} {e : EraseJob} (current : s.engine.current = some .erase)
    (erase : s.engine.erase = some e) : cutOperation cut s = { s with journal := cutErase (4096 * e.sector) cut s.journal } := by
  rw [cutOperation, current]
  dsimp only
  rw [erase]

theorem cutOperation_calRecord {cut : Cells} {s : State} {sc : Scale} {p : Port} {r : CalRecord}
    (current : s.engine.current = some (.calRecord sc)) (job : s.calJobs.get sc = some (.record p r)) :
    cutOperation cut s = { s with cal := s.cal.set sc { s.cal.get sc with
      slots := memProgram (s.cal.get sc).slots (32 * ((s.chan sc).nextSlot - 1)) (calBytes r) cut.stuck cut.lost } } := by
  rw [cutOperation, current]
  dsimp only
  rw [job]
  rfl

theorem lockByte_eq (old : Byte) (cut : Cells) :
    lockByte old cut = old &&& cut.stuck.headD 0#8 &&& ~~~(cut.lost.headD 0#8) := by
  rw [lockByte, programByte, BitVec.zero_or]

theorem cutOperation_calLock {cut : Cells} {s : State} {sc : Scale} (current : s.engine.current = some (.calLock sc)) :
    cutOperation cut s = { s with cal := s.cal.set sc { s.cal.get sc with
      lock := (s.cal.get sc).lock &&& cut.stuck.headD 0#8 &&& ~~~(cut.lost.headD 0#8) } } := by
  rw [cutOperation, current, ← lockByte_eq]

/-- Nothing else that the engine can have in hand changes anything when it is cut short. -/
theorem cutOperation_stands {cut : Cells} {s : State}
    (printed : ∀ again, s.engine.current ≠ some (.printedMark again) ∨
      s.pendingMarks.head?.bind (fun m => s.lookup m.receipt) = none)
    (audit : ∀ again, s.engine.current ≠ some (.auditMark again) ∨ s.pass.bind (fun q => s.unaudited q.next) = none)
    (commit : s.engine.current ≠ some .commitStep ∨ s.head = none)
    (erase : s.engine.current ≠ some .erase ∨ s.engine.erase = none)
    (record : ∀ sc, s.engine.current ≠ some (.calRecord sc) ∨ ∀ p r, s.calJobs.get sc ≠ some (.record p r))
    (lock : ∀ sc, s.engine.current ≠ some (.calLock sc))
    (store : ∀ x ∈ [EngineOp.storeErase, .storeImage, .storeMark], s.engine.current ≠ some x) : cutOperation cut s = s := by
  cases current : s.engine.current with
  | none => rw [cutOperation, current]
  | some op =>
    rw [current] at printed audit commit erase record lock store
    rw [cutOperation, current]
    cases op with
    | fetch receipt live => rfl
    | stream p live => rfl
    | blankCheck => rfl
    | commitStep => rw [commit.resolve_left (not_not_intro rfl)]
    | calRecord sc =>
      have idle := (record sc).resolve_left (not_not_intro rfl)
      cases job : s.calJobs.get sc with
      | none => dsimp only; rw [job]
      | some j => cases j with
        | record p r => exact absurd job (idle p r)
        | lock p => dsimp only; rw [job]
    | calLock sc => exact absurd rfl (lock sc)
    | storeErase => exact absurd rfl (store _ (by simp))
    | storeImage => exact absurd rfl (store _ (by simp))
    | storeMark => exact absurd rfl (store _ (by simp))
    | printedMark again =>
      have none' := (printed again).resolve_left (not_not_intro rfl)
      have missing : s.pendingMarks.head?.bind (fun m => (s.lookup m.receipt).map (fun x => (m.time, x))) = none := by
        cases first : s.pendingMarks.head? with
        | none => rfl
        | some m =>
          rw [first, Option.bind_some] at none'
          rw [Option.bind_some, none', Option.map_none]
      dsimp only
      rw [missing]
    | auditMark again =>
      dsimp only
      rw [(audit again).resolve_left (not_not_intro rfl)]
    | erase => rw [erase.resolve_left (not_not_intro rfl)]

/-- Settles O23: what a cut-short operation leaves, by the operation. -/
theorem powerLost : Obligations.PowerLost := by
  refine ⟨fun cut s => ⟨fun idle => ?_, fun powered => ⟨fun h current head => ⟨?_, fun wf y outside => ?_⟩,
      fun again m ms i slot current marks found => ⟨?_, fun wf y other outside => ?_⟩,
      fun again q i slot current pass found => ⟨?_, fun wf y other => ?_⟩,
      fun e current erase => ⟨?_, fun wf y => ?_⟩, fun sc p r current job => ⟨?_, fun wf y outside => ?_⟩,
      fun sc current => ?_, fun current => ?_, fun current => ?_,
      fun printed audit commit erase record lock store => ?_⟩⟩,
    fun c s off noClock noLoss noReset noStart => exec_unpowered off noClock noLoss noReset noStart⟩
  · rw [exec_mainSupplyLoss, execMainSupplyLoss, exec_resetNLow, execResetNLow, stopPart_idle idle]
    exact ⟨rfl, rfl⟩
  · exact powerLeaves powered (cutOperation_commitStep current head) rfl
  · exact memRead_memProgram_outside _ _ outside
  · exact powerLeaves powered (cutOperation_printedMark current marks found) rfl
  · rw [memRead_memProgram_outside _ _ (by rw [length_be]; omega),
      memRead_memProgram_outside _ _ (by rw [List.length_singleton]; omega)]
  · exact powerLeaves powered (cutOperation_auditMark current pass found) rfl
  · exact memRead_memProgram_outside _ _ (by rw [List.length_singleton]; omega)
  · exact powerLeaves powered (cutOperation_erase current erase) rfl
  · exact (cutErase_spec _ cut wf).2 y
  · exact powerLeaves powered (cutOperation_calRecord current job) rfl
  · exact memRead_memProgram_outside _ _ outside
  · exact powerLeaves powered (cutOperation_calLock current) rfl
  · refine powerLeaves powered ?_ rfl
    rcases current with erase | image
    · rw [cutOperation, erase]
    · rw [cutOperation, image]
  · exact powerLeaves powered (by rw [cutOperation, current]) rfl
  · exact powerLeaves powered (cutOperation_stands printed audit commit erase record lock store) rfl

end Sys2Proof.Machine
end

section
/-! PROOFS. The digitizer's frames and the reported weight (R1 to R3, R6, R7, R213). -/

namespace Sys2Proof.Machine

/-! ## The reported weight (R1, R6) -/

/-- The division that is nearest to a weight, half way up. -/
theorem reported_nearest (sc : Scale) (w : Int) :
    2 * (reported sc w - w) ≤ division sc ∧ 2 * (w - reported sc w) < division sc := by
  cases sc <;> simp only [reported, division, scaleClass, classDivision] <;> omega

/-- Settles O25: the nearest multiple, and the constants of R1. -/
theorem reportedWeightRounds : Obligations.ReportedWeightRounds := by
  refine ⟨fun sc w => ⟨⟨_, Int.mul_comm ..⟩, reported_nearest sc w⟩, rfl, rfl, rfl, rfl, rfl, rfl, fun sc => rfl, rfl, rfl, rfl,
    rfl, rfl, by decide, by decide, by decide⟩

/-! ## The fields of a frame (R213) -/

/-- A part of a list, element by element. -/
theorem take_drop_eq {α : Type} (l : List α) (d : α) {off n : Nat} (fits : off + n ≤ l.length) :
    (l.drop off).take n = (List.range n).map (fun i => l.getD (off + i) d) := by
  refine List.ext_getElem (by simp; omega) fun i lt _ => ?_
  rw [List.length_take] at lt
  simp only [List.getElem_take, List.getElem_drop, List.getElem_map, List.getElem_range]
  rw [List.getD_eq_getElem]

theorem value_getD (frame : List RxByte) (i : Nat) :
    (frame.map (·.value)).getD i 0#8 = (frame.getD i ⟨0#8, false⟩).value :=
  List.getD_map (f := RxByte.value) (d := ⟨0#8, false⟩) ..

/-- Three bytes spell a signed number of 24 bits. -/
theorem ofBytesInt_three (x y z : Byte) : ofBytesInt [x, y, z] = (x ++ y ++ z).toInt := by
  have nat : ofBytes [x, y, z] = (x ++ y ++ z).toNat := by
    rw [BitVec.toNat_append, BitVec.toNat_append, ← Nat.shiftLeft_add_eq_or_of_lt z.isLt, ← Nat.shiftLeft_add_eq_or_of_lt y.isLt]
    simp only [ofBytes, List.foldl_cons, List.foldl_nil, Nat.shiftLeft_eq]
    omega
  have width : 256 ^ [x, y, z].length = 2 ^ (8 + 8 + 8) := by norm_num
  rw [BitVec.toInt_eq_toNat_cond, ofBytesInt, nat, width]

theorem map_range_three {α : Type} (f : Nat → α) : (List.range 3).map f = [f 0, f 1, f 2] := rfl

/-- A cell's count. -/
theorem frameCount_eq {frame : List RxByte} {k : Nat} (fits : 3 + 3 * k + 3 ≤ frame.length) :
    ofBytesInt (((frame.map (·.value)).drop (3 + 3 * k)).take 3) =
      ((frame.getD (3 + 3 * k) ⟨0#8, false⟩).value ++ (frame.getD (4 + 3 * k) ⟨0#8, false⟩).value ++
        (frame.getD (5 + 3 * k) ⟨0#8, false⟩).value).toInt := by
  rw [take_drop_eq _ 0#8 (by rw [List.length_map]; exact fits), map_range_three, ofBytesInt_three, value_getD, value_getD,
    value_getD, show 3 + 3 * k + 1 = 4 + 3 * k by omega, show 3 + 3 * k + 2 = 5 + 3 * k by omega]
  rfl

/-- The sum that the check byte carries. -/
theorem frameSum_eq {frame : List RxByte} {n : Nat} (fits : 4 + 3 * n ≤ frame.length) :
    byteSum 1 (((frame.map (·.value)).drop 1).take (3 + 3 * n)) =
      ((List.range (3 + 3 * n)).map (fun i => (frame.getD (1 + i) ⟨0#8, false⟩).value.toNat)).sum % 256 := by
  rw [take_drop_eq _ 0#8 (by rw [List.length_map]; omega), byteSum_eq, List.map_map]
  simp only [Function.comp_def, value_getD, Nat.pow_one]

/-- The fields of a frame. -/
theorem parseFrame_fields (frame : List RxByte) :
    let b (i : Nat) := (frame.getD i ⟨0#8, false⟩).value
    let n := (b 2).toNat
    let f := parseFrame frame
    f.count = n ∧ (f.framing = true ↔ ∃ x ∈ frame, x.framingError = true) ∧ (frame.length = 5 + 3 * n →
      f.sequence = (b 1).toNat % 16 ∧ f.counts = (List.range n).map (fun i =>
        (b (3 + 3 * i) ++ b (4 + 3 * i) ++ b (5 + 3 * i)).toInt) ∧
      f.overRange = (b (3 + 3 * n)).getLsbD 0 ∧ f.digitizer = (b (3 + 3 * n)).getLsbD 1 ∧
      (f.sumHolds = true ↔
        (b (4 + 3 * n)).toNat = ((List.range (3 + 3 * n)).map (fun i => (b (1 + i)).toNat)).sum % 256)) := by
  intro b n f
  have count : ((frame.map (·.value)).getD 2 0#8).toNat = n := by rw [value_getD]
  have flags : (frame.map (·.value)).getD (3 + 3 * ((frame.map (·.value)).getD 2 0#8).toNat) 0#8 = b (3 + 3 * n) := by
    rw [count, value_getD]
  refine ⟨count, by rw [show f.framing = frame.any (·.framingError) from rfl, List.any_eq_true],
    fun size => ⟨?_, ?_, ?_, ?_, ?_⟩⟩
  · exact congrArg (fun x : Byte => x.toNat % 16) (value_getD frame 1)
  · refine Eq.trans (congrArg (fun k => (List.range k).map _) count) (List.map_congr_left fun k lt => ?_)
    have inside := List.mem_range.mp lt
    exact frameCount_eq (by omega)
  · exact congrArg (fun x : Byte => x.getLsbD 0) flags
  · exact congrArg (fun x : Byte => x.getLsbD 1) flags
  · rw [show f.sumHolds = (((frame.map (·.value)).getD (4 + 3 * ((frame.map (·.value)).getD 2 0#8).toNat) 0#8).toNat ==
      byteSum 1 (((frame.map (·.value)).drop 1).take (3 + 3 * ((frame.map (·.value)).getD 2 0#8).toNat))) from rfl, beq_iff_eq,
      count, frameSum_eq (by omega), value_getD]

/-! ## The tests of a frame, and motion (R3, R7) -/

theorem frameFault_eq (sc : Scale) (ref : Option Nat) (f : DigitizerFrame) : frameFault sc ref f =
    if f.count = 0 ∨ 4 < f.count then some .cells
    else if f.framing = true ∨ f.sumHolds = false then some .check
    else if f.count ≠ cellCount sc then some .cells
    else if ref.isSome = true ∧ ref ≠ some f.sequence then some .sequence
    else if f.overRange = true then some .overRange
    else if f.digitizer = true then some .digitizer
    else none := by
  unfold frameFault
  cases f.framing <;> cases f.sumHolds <;> rfl

theorem nextReference_eq (f : DigitizerFrame) : nextReference f =
    if 1 ≤ f.count ∧ f.count ≤ 4 ∧ f.framing = false ∧ f.sumHolds = true then some ((f.sequence + 1) % 16) else none := by
  simp only [nextReference, and_assoc, Bool.not_eq_true']

theorem nextMotion_near {sc : Scale} {c : Channel} {w r : Int} (ref : c.reference = some r)
    (near : (w - r).natAbs ≤ division sc) : nextMotion sc c w = min 255 (c.motion + 1) := by
  rw [nextMotion, ref]
  exact if_pos near

theorem nextMotion_far {sc : Scale} {c : Channel} {w r : Int} (ref : c.reference = some r)
    (far : division sc < (w - r).natAbs) : nextMotion sc c w = 0 := by
  rw [nextMotion, ref]
  exact if_neg (Nat.not_le.mpr far)

/-- Settles O27: the fields of a frame, its tests, and the motion count. -/
theorem frameTestsAndMotion : Obligations.FrameTestsAndMotion :=
  ⟨parseFrame_fields, fun sc ref f => ⟨frameFault_eq sc ref f, nextReference_eq f, rfl, rfl, rfl⟩,
    fun sc c w => ⟨fun r => nextMotion_near, fun r => nextMotion_far, fun absent => by rw [nextMotion, absent]⟩⟩

/-! ## The receiver (R2) -/

/-- A whole frame: its start byte, and as many bytes as its third calls for. -/
theorem frameWf_iff (w : List RxByte) : frameWf w = true ↔ ∃ x y n tl, w = x :: y :: n :: tl ∧ x.value = startByte ∧
    x.framingError = false ∧ w.length = frameLength n.value.toNat := by
  constructor
  · intro wf
    match w, wf with
    | x :: y :: n :: tl, wf =>
      rw [frameWf, Bool.and_eq_true, Bool.and_eq_true, beq_iff_eq, beq_iff_eq, Bool.not_eq_true'] at wf
      obtain ⟨⟨start, noError⟩, size⟩ := wf
      exact ⟨x, y, n, tl, rfl, start, noError, size⟩
  · rintro ⟨x, y, n, tl, rfl, start, noError, size⟩
    rw [frameWf, start, noError, size]
    simp

/-- The receiver holds the bytes of a frame until the last has arrived. -/
theorem receive_part {held rest : List RxByte} {b : RxByte} (wf : frameWf (held ++ b :: rest) = true) (more : rest ≠ []) :
    receive held b = (held ++ [b], none) := by
  obtain ⟨x, y, n, tl, whole, start, noError, size⟩ := (frameWf_iff _).mp wf
  cases held with
  | nil =>
    have first : b = x := (List.cons.inj whole).1
    rw [receive, first, start, noError]
    rfl
  | cons h held =>
    have longer : 0 < rest.length := List.length_pos_iff.mpr more
    have third : ∀ z, (h :: held ++ [b])[2]? = some z → z = n := by
      intro z at'
      have inside : 2 < (h :: held ++ [b]).length := (List.getElem?_eq_some_iff.mp at').1
      have same : (h :: held ++ b :: rest)[2]? = some z := by
        rw [List.append_cons, List.getElem?_append_left inside, at']
      rw [whole] at same
      exact (Option.some.inj same).symm
    rw [receive, if_neg (by simp)]
    dsimp only
    split
    · rename_i z at'
      rw [third z at', if_neg]
      rw [← size]
      simp only [List.length_append, List.length_cons, List.length_nil]
      omega
    · rfl

/-- The last byte of a frame completes it. -/
theorem receive_last {held : List RxByte} {b : RxByte} (wf : frameWf (held ++ [b]) = true) :
    receive held b = ([], some (held ++ [b])) := by
  obtain ⟨x, y, n, tl, whole, start, noError, size⟩ := (frameWf_iff _).mp wf
  have some' : held.isEmpty = false := by
    cases held with
    | nil => cases whole
    | cons h held => rfl
  have third : (held ++ [b])[2]? = some n := by rw [whole]; rfl
  rw [receive, if_neg (by rw [some']; exact Bool.false_ne_true)]
  dsimp only
  rw [third]
  exact if_pos size

theorem takeByte_part {sc : Scale} {s : State} {b : RxByte} {rest : List RxByte} (enabled : (s.chan sc).state ≠ .disabled)
    (wf : frameWf ((s.chan sc).rx ++ b :: rest) = true) (more : rest ≠ []) :
    takeByte sc s b = s.updChan sc (fun c => { c with rx := (s.chan sc).rx ++ [b] }) := by
  rw [takeByte, if_neg enabled, receive_part wf more]

theorem takeByte_last {sc : Scale} {s : State} {b : RxByte} (enabled : (s.chan sc).state ≠ .disabled)
    (wf : frameWf ((s.chan sc).rx ++ [b]) = true) : takeByte sc s b =
      takeDigitizerFrame sc (parseFrame ((s.chan sc).rx ++ [b])) (s.updChan sc (fun c => { c with rx := [] })) := by
  rw [takeByte, if_neg enabled, receive_last wf]

theorem updChan_updChan (s : State) (sc : Scale) (f g : Channel → Channel) :
    (s.updChan sc f).updChan sc g = s.updChan sc (fun c => g (f c)) := by
  rw [State.updChan, State.updChan, PerScale.set_set, PerScale.get_set_same]
  rfl

/-- The bytes that end a frame, however it was cut, are one event at the channel (R2). -/
theorem takeBytes_whole {sc : Scale} {bytes : List RxByte} {s : State} (enabled : (s.chan sc).state ≠ .disabled)
    (some' : bytes ≠ []) (wf : frameWf ((s.chan sc).rx ++ bytes) = true) : bytes.foldl (takeByte sc) s =
      takeDigitizerFrame sc (parseFrame ((s.chan sc).rx ++ bytes)) (s.updChan sc (fun c => { c with rx := [] })) := by
  induction bytes generalizing s with
  | nil => exact absurd rfl some'
  | cons b rest ih =>
    rw [List.foldl_cons]
    by_cases more : rest = []
    · subst more
      exact takeByte_last enabled wf
    · have chan : ((s.updChan sc (fun c => { c with rx := (s.chan sc).rx ++ [b] })).chan sc).rx = (s.chan sc).rx ++ [b] := by
        rw [updChan_chan_same]
      rw [takeByte_part enabled wf more, ih (by rw [updChan_chan_same]; exact enabled) more
        (by rw [chan, ← List.append_cons]; exact wf), chan, ← List.append_cons, updChan_updChan]

/-- A DISABLED channel discards the bytes (R2). -/
theorem takeBytes_disabled {sc : Scale} {s : State} (off : (s.chan sc).state = .disabled) (bytes : List RxByte) :
    bytes.foldl (takeByte sc) s = s := by
  induction bytes with
  | nil => rfl
  | cons b rest ih => rw [List.foldl_cons, takeByte, if_pos off, ih]

end Sys2Proof.Machine
end

section
/-! PROOFS. Bad frames and silence events (R3, R4, R9 to R12). -/

namespace Sys2Proof.Machine

/-! ## Events at a channel -/

/-- What the ports hear of a channel's change depends on its state, its WARN, the ports and the clock. -/
theorem scaleHeard_congr {sc : Scale} {s t : State} (state : (t.chan sc).state = (s.chan sc).state)
    (warns : warn (t.chan sc) = warn (s.chan sc)) (ports : t.ports = s.ports) (clock : t.clock = s.clock) (c : Channel) :
    scaleHeard sc c t = scaleHeard sc c s := by
  rw [scaleHeard, scaleHeard, state, warns, broadcast_eq, broadcast_eq, ports, clock]

/-- A channel has become `c`, and the ports hear of it (R10). -/
def scaleBecomes (sc : Scale) (c : Channel) (s : State) : State :=
  { s with channels := s.channels.set sc c, ports := scaleHeard sc c s }

theorem updScale_becomes (sc : Scale) (f : Channel → Channel) (s : State) :
    updScale sc f s = scaleBecomes sc (f (s.chan sc)) s := updScale_heard sc f s

/-- The channel when a frame, or a silence event, begins to be taken. -/
def beginEvent (next : Option Nat) (c : Channel) : Channel := { c with rx := [], seqRef := next, silence := 0 }

theorem beginEvent_chan (s : State) (sc : Scale) (next : Option Nat) :
    (s.updChan sc (beginEvent next)).chan sc = beginEvent next (s.chan sc) := updChan_chan_same ..

/-- A change of a channel that an event has begun to change is one change. -/
theorem updScale_beginEvent (sc : Scale) (f : Channel → Channel) (next : Option Nat) (s : State) :
    updScale sc f (s.updChan sc (beginEvent next)) = scaleBecomes sc (f (beginEvent next (s.chan sc))) s := by
  have heard := scaleHeard_congr (sc := sc) (s := s) (t := s.updChan sc (beginEvent next))
    (by rw [beginEvent_chan]; rfl) (by rw [beginEvent_chan]; rfl) rfl rfl (f (beginEvent next (s.chan sc)))
  rw [updScale_becomes, beginEvent_chan, scaleBecomes, heard]
  exact congrArg (fun v : PerScale Channel => { s with channels := v, ports := scaleHeard sc (f (beginEvent next (s.chan sc))) s })
    (PerScale.set_set ..)

/-! ## Bad-frame events (R9 to R12) -/

/-- Whether a bad-frame event takes a channel into FAULT (R12). -/
abbrev EntersFault (c : Channel) : Prop := c.state ≠ .fault ∧ 128 ≤ min 255 (c.faultCount + 8)

/-- A channel after a bad-frame event that leaves a sequence reference. -/
def badChannel (cause : BadCause) (next : Option Nat) (c : Channel) : Channel :=
  { c with
    lastBad := some cause, motion := 0, reference := none, faultCount := min 255 (c.faultCount + 8), seqRef := next, silence := 0
    rx := []
    weight := if EntersFault c then none else c.weight
    w1 := if EntersFault c then none else c.w1
    state := if EntersFault c then .fault else if c.state = .stable then .moving else c.state }

theorem entersFault_iff (c : Channel) : entersFault c = true ↔ EntersFault c := by
  rw [entersFault, Bool.and_eq_true, bne_iff_ne, decide_eq_true_eq]

theorem badFrame_beginEvent (cause : BadCause) (next : Option Nat) (c : Channel) :
    badFrame cause (beginEvent next c) = badChannel cause next c := by
  have same : entersFault (beginEvent next c) = entersFault c := rfl
  rw [badFrame, same, badChannel]
  by_cases enters : EntersFault c
  · rw [if_pos ((entersFault_iff c).mpr enters), if_pos enters, if_pos enters, if_pos enters]
    rfl
  · rw [if_neg (fun h => enters ((entersFault_iff c).mp h)), if_neg enters, if_neg enters, if_neg enters]
    rfl

/-- A bad-frame event, as one step at its channel. -/
theorem takeBad_eq (sc : Scale) (cause : BadCause) (next : Option Nat) (s : State) :
    takeBad sc cause (s.updChan sc (beginEvent next)) =
      presented sc (if EntersFault (s.chan sc) then
          setFault (scaleFaultKind sc) (.badCause cause) (scaleBecomes sc (badChannel cause next (s.chan sc)) s)
        else scaleBecomes sc (badChannel cause next (s.chan sc)) s) := by
  have same : entersFault ((s.updChan sc (beginEvent next)).chan sc) = entersFault (s.chan sc) := by
    rw [beginEvent_chan]
    rfl
  rw [takeBad, same, updScale_beginEvent, badFrame_beginEvent, present_eq]
  by_cases enters : EntersFault (s.chan sc)
  · rw [if_pos ((entersFault_iff _).mpr enters), if_pos enters]
  · rw [if_neg (fun h => enters ((entersFault_iff _).mp h)), if_neg enters]

/-! ## The commands (R2, R4) -/

theorem exec_digitizerFrame_whole {sc : Scale} {bytes : List RxByte} {s : State} (powered : s.powered = true)
    (enabled : (s.chan sc).state ≠ .disabled) (some' : bytes ≠ []) (wf : frameWf (wholeFrame sc bytes s) = true) :
    exec (.digitizerFrame sc bytes) s = .next (drainTest (takeDigitizerFrame sc (parseFrame (wholeFrame sc bytes s))
      (s.updChan sc (fun c => { c with rx := [] })))) := by
  refine (exec_digitizerFrame ..).trans ((event_powered powered _).trans ?_)
  rw [takeBytes_whole enabled some' wf]
  rfl

/-- A whole frame begins its event: its sequence reference, and no silence. -/
theorem frameBegins (sc : Scale) (f : DigitizerFrame) (s : State) :
    (s.updChan sc (fun c => { c with rx := [] })).updChan sc (fun c => { c with seqRef := nextReference f, silence := 0 }) =
      s.updChan sc (beginEvent (nextReference f)) := updChan_updChan ..

theorem takeDigitizerFrame_bad {sc : Scale} {f : DigitizerFrame} {cause : BadCause} {s : State}
    (bad : frameFault sc (s.chan sc).seqRef f = some cause) :
    takeDigitizerFrame sc f (s.updChan sc (fun c => { c with rx := [] })) =
      takeBad sc cause (s.updChan sc (beginEvent (nextReference f))) := by
  have ref : ((s.updChan sc (fun c => { c with rx := [] })).chan sc).seqRef = (s.chan sc).seqRef := by rw [updChan_chan_same]
  rw [takeDigitizerFrame, ref, frameBegins, bad]

theorem exec_silenceEvent_enabled {sc : Scale} {s : State} (powered : s.powered = true)
    (enabled : (s.chan sc).state ≠ .disabled) : exec (.silenceEvent sc) s =
      .next (drainTest (takeBad sc .silence (s.updChan sc (beginEvent none)))) := by
  refine (exec_silenceEvent ..).trans ((event_powered powered _).trans ?_)
  rw [if_neg enabled]
  rfl

/-- Settles O28: a bad frame and a silence event are one kind of event at the channel, with a sequence reference of their own. -/
theorem badFrameEvents : Obligations.BadFrameEvents := by
  refine ⟨fun sc bytes cause s powered enabled => ?_, fun sc bytes s powered off => ⟨?_, ?_⟩⟩
  · intro f next x mem silent arrives
    simp only [List.mem_cons, List.not_mem_nil, or_false] at mem
    rcases mem with rfl | rfl
    · obtain ⟨-, -, some', wf, bad⟩ := arrives rfl
      have reference : nextReference f = next := nextReference_eq f
      refine (exec_digitizerFrame_whole powered enabled some' wf).trans (congrArg (fun t => Host.Outcome.next (drainTest t)) ?_)
      rw [takeDigitizerFrame_bad bad, takeBad_eq, reference]
      rfl
    · have cause' := silent rfl
      subst cause'
      refine (exec_silenceEvent_enabled powered enabled).trans (congrArg (fun t => Host.Outcome.next (drainTest t)) ?_)
      rw [takeBad_eq]
      rfl
  · refine (exec_digitizerFrame ..).trans ((event_powered powered _).trans ?_)
    rw [takeBytes_disabled off]
  · refine (exec_silenceEvent ..).trans ((event_powered powered _).trans ?_)
    rw [if_pos off]

end Sys2Proof.Machine
end

section
/-! PROOFS. Good frames (R5 to R8, R11, R13, R15, R71). -/

namespace Sys2Proof.Machine

/-! ## The calibrated weight (R5) -/

/-- The calibrated weight drops the fraction toward minus infinity. -/
theorem calibratedWeight_floors {cal : CalRecord} {counts : List Int} {net : Int}
    (sum : ((counts.zip cal.trims).map (fun (c, t) => c * (t : Int))).sum - 10000 * cal.zeroSum = net) :
    655360000 * calibratedWeight cal counts ≤ net * cal.span ∧
      net * cal.span < 655360000 * (calibratedWeight cal counts + 1) := by
  rw [calibratedWeight, sum]
  generalize net * (cal.span : Int) = x
  omega

theorem calibratedWeight_four {cal : CalRecord} {t1 t2 t3 t4 : Nat} (trims : cal.trims = [t1, t2, t3, t4]) (c1 c2 c3 c4 : Int) :
    (([c1, c2, c3, c4].zip cal.trims).map (fun (c, t) => c * (t : Int))).sum - 10000 * cal.zeroSum =
      c1 * t1 + c2 * t2 + c3 * t3 + c4 * t4 - 10000 * cal.zeroSum := by
  rw [trims]
  simp only [List.zip_cons_cons, List.zip_nil_right, List.map_cons, List.map_nil, List.sum_cons, List.sum_nil]
  omega

theorem calibratedWeight_one {cal : CalRecord} {t1 : Nat} (trims : cal.trims.head? = some t1) (c1 : Int) :
    (([c1].zip cal.trims).map (fun (c, t) => c * (t : Int))).sum - 10000 * cal.zeroSum = c1 * t1 - 10000 * cal.zeroSum := by
  obtain ⟨rest, whole⟩ := List.head?_eq_some_iff.mp trims
  rw [whole]
  simp only [List.zip_cons_cons, List.zip_nil_left, List.map_cons, List.map_nil, List.sum_cons, List.sum_nil, Int.add_zero]

/-! ## Zero tracking (R15) -/

/-- Within 2% of the capacity. -/
theorem zeroOk_iff (sc : Scale) (z : Int) : zeroOk sc z = true ↔ -(capacity sc : Int) ≤ 50 * z ∧ 50 * z ≤ (capacity sc : Int) := by
  rw [zeroOk, decide_eq_true_eq]
  cases sc <;> simp only [zeroBound, capacity] <;> omega

/-- The conditions of zero tracking: an empty, stable scale that reads 0 with a W1 that is present, not 0 and within the bound. -/
abbrev Tracks (sc : Scale) (settle : Nat) (c : Channel) : Prop :=
  c.state = .empty ∧ settle ≤ c.motion ∧ c.weight = some 0 ∧ c.w1 ≠ none ∧ c.w1.getD 0 ≠ 0 ∧
    zeroOk sc (c.zeroOffset + c.w1.getD 0) = true

/-- A channel after zero tracking. -/
def zeroTracked (sc : Scale) (settle : Nat) (c : Channel) : Channel :=
  if Tracks sc settle c then { c with zeroOffset := c.zeroOffset + c.w1.getD 0, w1 := some 0 } else c

theorem zeroTracked_tracks {sc : Scale} {settle : Nat} {c : Channel} (h : Tracks sc settle c) :
    zeroTracked sc settle c = { c with zeroOffset := c.zeroOffset + c.w1.getD 0, w1 := some 0 } := if_pos h

theorem zeroTracked_stays {sc : Scale} {settle : Nat} {c : Channel} (h : ¬ Tracks sc settle c) : zeroTracked sc settle c = c :=
  if_neg h

theorem PerScale.set_get {α : Type} (v : PerScale α) (sc : Scale) : v.set sc (v.get sc) = v := by cases sc <;> rfl

theorem updChan_stands {s : State} {sc : Scale} {f : Channel → Channel} (h : f (s.chan sc) = s.chan sc) : s.updChan sc f = s := by
  rw [State.updChan, show f (s.channels.get sc) = s.channels.get sc from h, PerScale.set_get]

theorem updChan_congr {s : State} {sc : Scale} {f g : Channel → Channel} (h : f (s.chan sc) = g (s.chan sc)) :
    s.updChan sc f = s.updChan sc g := congrArg (fun c => { s with channels := s.channels.set sc c }) h

theorem stable_iff (s : State) (sc : Scale) : s.stable sc = true ↔ (s.scaleSettings sc).settle ≤ (s.chan sc).motion :=
  decide_eq_true_iff

theorem zeroTrack_eq (sc : Scale) (s : State) : zeroTrack sc s = s.updChan sc (zeroTracked sc (s.scaleSettings sc).settle) := by
  cases w1 : (s.chan sc).w1 with
  | none =>
    have stays : ¬ Tracks sc (s.scaleSettings sc).settle (s.chan sc) := fun h => h.2.2.2.1 w1
    rw [zeroTrack, w1, updChan_stands (zeroTracked_stays stays)]
  | some w =>
    rw [zeroTrack, w1]
    dsimp only
    have tracks : ((s.chan sc).state = .empty ∧ s.stable sc = true ∧ (s.chan sc).weight = some 0 ∧ w ≠ 0 ∧
        zeroOk sc ((s.chan sc).zeroOffset + w) = true) ↔ Tracks sc (s.scaleSettings sc).settle (s.chan sc) := by
      rw [stable_iff, Tracks, w1, Option.getD_some]
      simp
    by_cases h : Tracks sc (s.scaleSettings sc).settle (s.chan sc)
    · rw [if_pos (tracks.mpr h), updChan_congr]
      rw [zeroTracked_tracks h, w1, Option.getD_some]
    · rw [if_neg (fun k => h (tracks.mp k)), updChan_stands (zeroTracked_stays h)]

theorem zeroTracked_capture (sc : Scale) (settle : Nat) (c : Channel) (k : Option Capture) :
    zeroTracked sc settle { c with capture := k } = { zeroTracked sc settle c with capture := k } := by
  by_cases h : Tracks sc settle c
  · rw [zeroTracked_tracks h]
    exact zeroTracked_tracks (c := { c with capture := k }) h
  · rw [zeroTracked_stays h]
    exact zeroTracked_stays (c := { c with capture := k }) h

theorem zeroTracked_state (sc : Scale) (settle : Nat) (c : Channel) : (zeroTracked sc settle c).state = c.state := by
  unfold zeroTracked
  split <;> rfl

theorem zeroTracked_warn (sc : Scale) (settle : Nat) (c : Channel) : warn (zeroTracked sc settle c) = warn c := by
  unfold zeroTracked
  split <;> rfl

/-! ## The channel after a good frame (R5 to R8, R11, R13) -/

theorem decideState_eq (sc : Scale) (cfg : ScaleSettings) (w : Int) (motion : Nat) : decideState sc cfg w motion =
    if (capacity sc + 9 * division sc : Int) < w then .overload
    else if w ≤ (cfg.empty * division sc : Nat) then .empty
    else if cfg.settle ≤ motion then .stable else .moving := by
  rw [decideState, overloadAbove]
  push_cast
  rfl

/-- A good frame passed tests 1 and 2 of R3. -/
theorem nextReference_of_good {sc : Scale} {ref : Option Nat} {f : DigitizerFrame} (good : frameFault sc ref f = none) :
    nextReference f = some ((f.sequence + 1) % 16) := by
  rw [frameFault_eq] at good
  rw [nextReference_eq]
  by_cases cells : f.count = 0 ∨ 4 < f.count
  · rw [if_pos cells] at good
    cases good
  · rw [if_neg cells] at good
    by_cases check : f.framing = true ∨ f.sumHolds = false
    · rw [if_pos check] at good
      cases good
    · rw [not_or, Bool.not_eq_true, Bool.not_eq_false] at check
      exact if_pos ⟨by omega, by omega, check⟩

/-- A channel that a good frame has counted. -/
def countedChannel (next : Option Nat) (c : Channel) : Channel :=
  { c with faultCount := c.faultCount - 1, seqRef := next, silence := 0, rx := [] }

/-- Whether a good frame's count takes a channel out of FAULT (R13). -/
abbrev LeavesFault (cfg : ScaleSettings) (c : Channel) : Prop := cfg.recovery = .auto ∧ c.faultCount - 1 = 0

theorem goodFrame_stays {cfg : ScaleSettings} {c : Channel} (stays : c.state = .fault ∧ ¬ LeavesFault cfg c) (sc : Scale)
    (counts : List Int) (next : Option Nat) : goodFrame sc cfg counts (beginEvent next c) =
      { countedChannel next c with motion := 0 } := by
  obtain ⟨fault, stays⟩ := stays
  unfold goodFrame
  dsimp only [beginEvent]
  rw [if_neg stays]
  exact if_pos fault

/-- A counted channel, out of FAULT with no weight, as it was otherwise. -/
def outOfFault (next : Option Nat) (c : Channel) : Channel :=
  if c.state = .fault then
    { countedChannel next c with state := .empty, weight := none, w1 := none, motion := 0, reference := none }
  else countedChannel next c

theorem goodFrame_goes {cfg : ScaleSettings} {c : Channel} (goes : ¬ (c.state = .fault ∧ ¬ LeavesFault cfg c)) (sc : Scale)
    (counts : List Int) (next : Option Nat) : goodFrame sc cfg counts (beginEvent next c) =
      match c.live with
      | none => { outOfFault next c with state := .empty, weight := none, w1 := none, reference := none, motion := 0 }
      | some cal =>
        let w1 := calibratedWeight cal counts - c.zeroOffset
        let w := reported sc w1
        let motion := nextMotion sc (outOfFault next c) w
        { outOfFault next c with
          state := decideState sc cfg w motion, weight := some w, w1 := some w1, reference := some w, motion := motion } := by
  have counted : (if LeavesFault cfg c then leaveFault (countedChannel next c) else countedChannel next c) = outOfFault next c := by
    rw [outOfFault]
    by_cases fault : c.state = .fault
    · have leaves : LeavesFault cfg c := by
        by_contra stays
        exact goes ⟨fault, stays⟩
      rw [if_pos leaves, if_pos fault, leaveFault]
      exact if_pos fault
    · rw [if_neg fault, leaveFault]
      split
      · exact if_neg fault
      · rfl
  have out : (outOfFault next c).state ≠ .fault := by
    rw [outOfFault]
    split
    · exact ScaleState.noConfusion
    · exact ‹_›
  have live : (outOfFault next c).live = c.live := by
    rw [outOfFault]
    split <;> rfl
  have offset : (outOfFault next c).zeroOffset = c.zeroOffset := by
    rw [outOfFault]
    split <;> rfl
  have effect : goodFrame sc cfg counts (beginEvent next c) =
      (let c := if LeavesFault cfg c then leaveFault (countedChannel next c) else countedChannel next c
      if c.state = .fault then { c with motion := 0 }
      else match c.live with
        | none => { c with state := .empty, weight := none, w1 := none, reference := none, motion := 0 }
        | some cal =>
          let w1 := calibratedWeight cal counts - c.zeroOffset
          let w := reported sc w1
          let motion := nextMotion sc c w
          { c with state := decideState sc cfg w motion, weight := some w, w1 := some w1, reference := some w, motion := motion }) :=
    rfl
  rw [effect, counted]
  dsimp only
  rw [if_neg out, live, offset]

/-- A channel that has left FAULT has no reference. -/
theorem nextMotion_outOfFault (sc : Scale) (next : Option Nat) (c : Channel) (w : Int) :
    nextMotion sc (outOfFault next c) w = if c.state = .fault then 0 else nextMotion sc c w := by
  rw [outOfFault]
  split <;> rfl

/-- A channel with its readings, whichever way it came out of FAULT. -/
theorem outOfFault_readings (next : Option Nat) (c : Channel) (state : ScaleState) (weight w1 reference : Option Int) (motion : Nat) :
    { outOfFault next c with state := state, weight := weight, w1 := w1, reference := reference, motion := motion } =
      { countedChannel next c with state := state, weight := weight, w1 := w1, reference := reference, motion := motion } := by
  unfold outOfFault
  split <;> rfl

/-- Zero tracking of a channel that has just been weighed. -/
theorem zeroTracked_weighed (sc : Scale) (settle : Nat) (c : Channel) (state : ScaleState) (w1 w : Int) (motion : Nat) :
    let tracks := state = .empty ∧ settle ≤ motion ∧ w = 0 ∧ w1 ≠ 0 ∧ -(capacity sc : Int) ≤ 50 * (c.zeroOffset + w1) ∧
      50 * (c.zeroOffset + w1) ≤ (capacity sc : Int)
    zeroTracked sc settle
        { c with state := state, weight := some w, w1 := some w1, reference := some w, motion := motion } =
      { c with
        state := state, weight := some w, reference := some w, motion := motion
        w1 := some (if tracks then 0 else w1), zeroOffset := if tracks then c.zeroOffset + w1 else c.zeroOffset } := by
  intro tracks
  have same : Tracks sc settle
      { c with state := state, weight := some w, w1 := some w1, reference := some w, motion := motion } ↔ tracks := by
    rw [Tracks, zeroOk_iff]
    simp [tracks]
  by_cases h : tracks
  · rw [zeroTracked_tracks (same.mpr h), if_pos h, if_pos h]
    rfl
  · rw [zeroTracked_stays (fun k => h (same.mp k)), if_neg h, if_neg h]

/-- The channel after a good frame is what its count, its weight and zero tracking make of it. -/
theorem frameChannel_eq {sc : Scale} {bytes : List RxByte} {s : State} (arrives : GoodFrameArrives sc bytes s) :
    let f := parseFrame (wholeFrame sc bytes s)
    let cfg := s.scaleSettings sc
    frameChannel sc bytes s =
      { zeroTracked sc cfg.settle (goodFrame sc cfg f.counts (beginEvent (nextReference f) (s.chan sc))) with capture := none } := by
  intro f cfg
  obtain ⟨-, -, -, -, good⟩ := arrives
  rw [nextReference_of_good good]
  have whole : frameChannel sc bytes s =
      (let c := s.chan sc
      let counted := { countedChannel (some ((f.sequence + 1) % 16)) c with capture := none }
      if c.state = .fault ∧ ¬ LeavesFault cfg c then { counted with motion := 0 }
      else match c.live with
        | none => { counted with state := .empty, weight := none, w1 := none, reference := none, motion := 0 }
        | some cal =>
          let w1 := calibratedWeight cal f.counts - c.zeroOffset
          let w := reported sc w1
          let motion := if c.state = .fault then 0 else nextMotion sc c w
          let state : ScaleState := if (capacity sc + 9 * division sc : Int) < w then .overload
            else if w ≤ (cfg.empty * division sc : Nat) then .empty
            else if cfg.settle ≤ motion then .stable else .moving
          let tracks := state = .empty ∧ cfg.settle ≤ motion ∧ w = 0 ∧ w1 ≠ 0 ∧
            -(capacity sc : Int) ≤ 50 * (c.zeroOffset + w1) ∧ 50 * (c.zeroOffset + w1) ≤ (capacity sc : Int)
          { counted with
            state := state, weight := some w, reference := some w, motion := motion
            w1 := some (if tracks then 0 else w1), zeroOffset := if tracks then c.zeroOffset + w1 else c.zeroOffset }) := rfl
  rw [whole]
  dsimp only
  by_cases stays : (s.chan sc).state = .fault ∧ ¬ LeavesFault cfg (s.chan sc)
  · have notEmpty : (s.chan sc).state ≠ .empty := by
      rw [stays.1]
      exact ScaleState.noConfusion
    have still : zeroTracked sc cfg.settle { countedChannel (some ((f.sequence + 1) % 16)) (s.chan sc) with motion := 0 } =
        { countedChannel (some ((f.sequence + 1) % 16)) (s.chan sc) with motion := 0 } := zeroTracked_stays (fun h => notEmpty h.1)
    rw [if_pos stays, goodFrame_stays stays, still]
  · rw [if_neg stays, goodFrame_goes stays]
    cases live : (s.chan sc).live with
    | none =>
      dsimp only
      rw [outOfFault_readings, zeroTracked_stays (fun h => h.2.2.2.1 rfl)]
    | some cal =>
      dsimp only
      rw [outOfFault_readings, zeroTracked_weighed, nextMotion_outOfFault, decideState_eq]
      rfl

end Sys2Proof.Machine
end

section
/-! PROOFS. What a good frame does to the capture, and what it leaves (R48, R51, R71 to R74). -/

namespace Sys2Proof.Machine

/-! ## What a presentation changes -/

/-- From `s` to `t` a presentation of a channel has changed its capture, the tickets, the holds, the tares, the notices and the free
values alone. -/
def PresentsTo (sc : Scale) (s t : State) : Prop :=
  ∃ capture tickets tares holds ports free, t = { s with
    channels := s.channels.set sc { s.chan sc with capture := capture }
    tickets := tickets, tares := tares, holds := holds, ports := ports, free := free }

theorem PresentsTo.refl (sc : Scale) (s : State) : PresentsTo sc s s :=
  ⟨(s.chan sc).capture, s.tickets, s.tares, s.holds, s.ports, s.free,
    congrArg (fun v => { s with channels := v }) (PerScale.set_get s.channels sc).symm⟩

/-- A further change of the yard's books and the notices. -/
theorem PresentsTo.books {sc : Scale} {s t : State} (h : PresentsTo sc s t) (tickets : List Ticket) (tares : List (Option Tare))
    (holds : List HoldEntry) (ports : PerPort PortCtx) (free : Nat) :
    PresentsTo sc s { t with tickets := tickets, tares := tares, holds := holds, ports := ports, free := free } := by
  obtain ⟨capture, -, -, -, -, -, rfl⟩ := h
  exact ⟨capture, tickets, tares, holds, ports, free, rfl⟩

theorem presentsTo_noteLoad (sc : Scale) (k : Capture) (s : State) :
    PresentsTo sc s (s.updChan sc (fun c => { c with capture := some k })) := ⟨some k, _, _, _, _, _, rfl⟩

theorem presentsTo_removeCapture (sc : Scale) (k : Capture) (s : State) : PresentsTo sc s (removeCapture sc k s) := by
  unfold removeCapture
  split
  · exact ⟨none, _, _, _, _, _, rfl⟩
  · exact ⟨none, _, _, _, _, _, rfl⟩

theorem presentsTo_failCapture (sc : Scale) (k : Capture) (r : CaptureFailure) (w : Option Int) (s : State) :
    PresentsTo sc s (failCapture sc k r w s) := ⟨none, _, _, _, _, _, failCapture_eq ..⟩

/-- A close writes the ticket, the hold list, the notices and the count of free values. -/
theorem closeTicket_frame (t : Ticket) (lines : List Line) (source : TareSource) (s : State) :
    ∃ tickets holds ports free, closeTicket t lines source s =
      { s with tickets := tickets, holds := holds, ports := ports, free := free } := by
  unfold closeTicket State.fit32 State.takeFree
  dsimp only
  split
  · split <;> exact ⟨_, _, _, _, rfl⟩
  · exact ⟨_, _, _, _, rfl⟩

theorem appendWeighing_frame (sc : Scale) (k : Capture) (w : Int) (t : Ticket) (s : State) :
    ∃ tickets holds ports free, appendWeighing sc k w t s =
      { s with tickets := tickets, holds := holds, ports := ports, free := free } := by
  unfold appendWeighing
  dsimp only
  split
  · exact ⟨_, _, _, _, rfl⟩
  · exact ⟨_, _, _, _, rfl⟩
  · exact closeTicket_frame ..
  · exact ⟨_, _, _, _, rfl⟩

theorem presentsTo_appended (sc : Scale) (k : Capture) (w : Int) (t : Ticket) (p : Port) (n : State → Notice) (s : State) :
    PresentsTo sc s (let x := appendWeighing sc k w t (removeCapture sc k s); offerTo p (n x) x) := by
  obtain ⟨tickets, holds, ports, free, appended⟩ := appendWeighing_frame sc k w t (removeCapture sc k s)
  dsimp only
  rw [appended]
  exact (presentsTo_removeCapture sc k s).books ..

theorem presentsTo_completeCapture (sc : Scale) (k : Capture) (w : Int) (s : State) :
    PresentsTo sc s (completeCapture sc k w s) := by
  unfold completeCapture
  dsimp only
  split
  · split
    · exact presentsTo_failCapture ..
    · exact (presentsTo_removeCapture sc k s).books ..
  · split
    · exact presentsTo_removeCapture ..
    · split
      · exact presentsTo_failCapture ..
      · exact presentsTo_appended sc k w _ k.port (fun x => weighedNotice sc _ _ w (weighedState x _) x.clock) s

theorem presentsTo_present (sc : Scale) (s : State) : PresentsTo sc s (present sc true s) := by
  unfold present
  dsimp only
  split
  · exact .refl sc s
  · split
    · exact presentsTo_failCapture ..
    · split
      · exact presentsTo_completeCapture ..
      · exact .refl sc s
    · exact presentsTo_noteLoad ..
    · exact presentsTo_noteLoad ..
    · split
      · split
        · split
          · exact presentsTo_completeCapture ..
          · exact .refl sc s
        · exact .refl sc s
      · split
        · exact presentsTo_failCapture ..
        · exact .refl sc s
    · exact .refl sc s

theorem present_uncaptured {sc : Scale} {s : State} (none' : (s.chan sc).capture = none) (good : Bool) : present sc good s = s := by
  rw [present, none']

/-! ## A good frame -/

/-- A channel's count, its weight and its state after a good frame, before zero tracking. -/
def weighedChannel (sc : Scale) (bytes : List RxByte) (s : State) : Channel :=
  goodFrame sc (s.scaleSettings sc) (parseFrame (wholeFrame sc bytes s)).counts
    (beginEvent (nextReference (parseFrame (wholeFrame sc bytes s))) (s.chan sc))

theorem exec_digitizerFrame_good {sc : Scale} {bytes : List RxByte} {s : State} (arrives : GoodFrameArrives sc bytes s) :
    exec (.digitizerFrame sc bytes) s =
      .next (drainTest (zeroTrack sc (present sc true (scaleBecomes sc (weighedChannel sc bytes s) s)))) := by
  obtain ⟨powered, enabled, some', wf, good⟩ := arrives
  refine (exec_digitizerFrame_whole powered enabled some' wf).trans (congrArg (fun t => Host.Outcome.next (drainTest t)) ?_)
  have ref : ((s.updChan sc (fun c => { c with rx := [] })).chan sc).seqRef = (s.chan sc).seqRef := by rw [updChan_chan_same]
  rw [takeDigitizerFrame, ref, frameBegins, good]
  dsimp only
  rw [updScale_beginEvent]
  rfl

theorem outOfFault_capture (next : Option Nat) (c : Channel) : (outOfFault next c).capture = c.capture := by
  unfold outOfFault
  split <;> rfl

theorem weighedChannel_capture (sc : Scale) (bytes : List RxByte) (s : State) :
    (weighedChannel sc bytes s).capture = (s.chan sc).capture := by
  rw [weighedChannel]
  by_cases stays : (s.chan sc).state = .fault ∧ ¬ LeavesFault (s.scaleSettings sc) (s.chan sc)
  · rw [goodFrame_stays stays]
    rfl
  · rw [goodFrame_goes stays]
    cases (s.chan sc).live with
    | none => exact outOfFault_capture ..
    | some cal => exact outOfFault_capture ..

/-- Zero tracking ends the channel's part, whatever has become of its capture. -/
theorem zeroTracked_weighedChannel {sc : Scale} {bytes : List RxByte} {s : State} (arrives : GoodFrameArrives sc bytes s)
    (capture : Option Capture) : zeroTracked sc (s.scaleSettings sc).settle { weighedChannel sc bytes s with capture := capture } =
      { frameChannel sc bytes s with capture := capture } := by
  rw [zeroTracked_capture, frameChannel_eq arrives]
  rfl

theorem zeroTrack_presented {sc : Scale} {bytes : List RxByte} {s x : State} (arrives : GoodFrameArrives sc bytes s)
    {capture : Option Capture} (channels : x.channels = s.channels.set sc { weighedChannel sc bytes s with capture := capture })
    (settings : x.settings = s.settings) :
    zeroTrack sc x = { x with channels := s.channels.set sc { frameChannel sc bytes s with capture := capture } } := by
  have cfg : x.scaleSettings sc = s.scaleSettings sc := by rw [State.scaleSettings, settings]; rfl
  rw [zeroTrack_eq, cfg, State.updChan, channels, PerScale.get_set_same, zeroTracked_weighedChannel arrives, PerScale.set_set]

/-- What the ports hear of a good frame does not depend on zero tracking or on the capture. -/
theorem scaleHeard_weighedChannel {sc : Scale} {bytes : List RxByte} {s : State} (arrives : GoodFrameArrives sc bytes s) :
    scaleHeard sc (weighedChannel sc bytes s) s = scaleHeard sc (frameChannel sc bytes s) s := by
  have state : (frameChannel sc bytes s).state = (weighedChannel sc bytes s).state := by
    rw [frameChannel_eq arrives]
    exact zeroTracked_state ..
  have warns : warn (frameChannel sc bytes s) = warn (weighedChannel sc bytes s) := by
    rw [frameChannel_eq arrives]
    exact zeroTracked_warn ..
  rw [scaleHeard, scaleHeard, state, warns]

theorem capture_stands {c : Channel} {k : Option Capture} (h : c.capture = k) : { c with capture := k } = c := by rw [← h]

theorem frameChannel_capture {sc : Scale} {bytes : List RxByte} {s : State} (arrives : GoodFrameArrives sc bytes s) :
    (frameChannel sc bytes s).capture = none := by rw [frameChannel_eq arrives]

/-- Settles O26: the channel by its count, its weight and zero tracking, and what the presentation between them changes. -/
theorem goodFrameMakesAWeight : Obligations.GoodFrameMakesAWeight := by
  refine ⟨fun cal c1 c2 c3 c4 t1 t2 t3 t4 => ⟨fun trims => calibratedWeight_floors (calibratedWeight_four trims ..),
    fun trims => calibratedWeight_floors (calibratedWeight_one trims c1)⟩, fun sc bytes s arrives => ?_⟩
  refine ⟨_, exec_digitizerFrame_good arrives, ?_⟩
  obtain ⟨capture, tickets, tares, holds, ports, free, presents⟩ :=
    presentsTo_present sc (scaleBecomes sc (weighedChannel sc bytes s) s)
  have channels : (present sc true (scaleBecomes sc (weighedChannel sc bytes s) s)).channels =
      s.channels.set sc { weighedChannel sc bytes s with capture := capture } := by
    rw [presents, scaleBecomes]
    dsimp only [State.chan]
    rw [PerScale.set_set, PerScale.get_set_same]
  have settings : (present sc true (scaleBecomes sc (weighedChannel sc bytes s) s)).settings = s.settings := by rw [presents]; rfl
  have tracked := zeroTrack_presented arrives channels settings
  refine ⟨?_, fun sc' other => ?_, ?_, fun uncaptured => ?_⟩
  · rw [tracked]
    dsimp only [State.chan]
    rw [PerScale.get_set_same]
    exact capture_stands (frameChannel_capture arrives)
  · rw [tracked]
    exact PerScale.get_set_other _ other _
  · rw [tracked, presents]
    rfl
  · have waits : (weighedChannel sc bytes s).capture = none := (weighedChannel_capture sc bytes s).trans uncaptured
    have still : present sc true (scaleBecomes sc (weighedChannel sc bytes s) s) = scaleBecomes sc (weighedChannel sc bytes s) s :=
      present_uncaptured (by rw [scaleBecomes, State.chan, PerScale.get_set_same]; exact waits) true
    have same : scaleBecomes sc (weighedChannel sc bytes s) s = { s with
        channels := s.channels.set sc { weighedChannel sc bytes s with capture := none }
        ports := scaleHeard sc (frameChannel sc bytes s) s } := by
      rw [capture_stands waits, ← scaleHeard_weighedChannel arrives]
      rfl
    rw [still, zeroTrack_presented (x := scaleBecomes sc (weighedChannel sc bytes s) s) (capture := none) arrives (by rw [same]) rfl, same,
      capture_stands (frameChannel_capture arrives)]

end Sys2Proof.Machine
end

section
/-! PROOFS. Tickets found and written, the close of a ticket, and the place of a tare (R35, R43, R49, R51 to R53, R75). -/

namespace Sys2Proof.Machine

/-! ## Tickets found and written (R39, R43) -/

theorem ticket_some {s : State} {n : Nat} {t : Ticket} (h : s.ticket n = some t) : t ∈ s.tickets ∧ t.number = n :=
  ⟨List.mem_of_find?_eq_some h, beq_iff_eq.mp (List.find?_some (p := fun t : Ticket => t.number == n) h)⟩

/-- The tickets when the one with a number is written anew. -/
def putIn (n : Nat) (x : Ticket) (ts : List Ticket) : List Ticket := ts.map (fun y => if y.number = n then x else y)

theorem putTicket_eq (s : State) (t : Ticket) : s.putTicket t = { s with tickets := putIn t.number t s.tickets } := by
  simp only [State.putTicket, State.updTicket, beq_iff_eq, putIn]

theorem updTicket_eq (s : State) (n : Nat) (f : Ticket → Ticket) :
    s.updTicket n f = { s with tickets := s.tickets.map (fun t => if t.number = n then f t else t) } := by
  simp only [State.updTicket, beq_iff_eq]

/-- The ticket found after a change of the tickets that keeps every number. -/
theorem find_map_ticket {f : Ticket → Ticket} (keeps : ∀ t, (f t).number = t.number) (n : Nat) (ts : List Ticket) :
    (ts.map f).find? (fun t => t.number == n) = (ts.find? (fun t => t.number == n)).map f := by
  rw [List.find?_map]
  congr 2
  funext t
  rw [Function.comp_apply, keeps]

theorem find_putIn {x t : Ticket} {n : Nat} {ts : List Ticket} (number : x.number = n)
    (found : ts.find? (fun t => t.number == n) = some t) : (putIn n x ts).find? (fun t => t.number == n) = some x := by
  have at' : t.number = n := 
    beq_iff_eq.mp (List.find?_some (p := fun t : Ticket => t.number == n) found)
  rw [putIn, find_map_ticket, found, Option.map_some, if_pos at']
  intro y
  split
  · rename_i same
    rw [number, same]
  · rfl

/-! ## A capture leaves its scale and its ticket (R72, R75) -/

/-- The tickets when a capture has left. -/
def capturesCleared (k : Capture) (ts : List Ticket) : List Ticket :=
  match k.ticket with
  | some n => ts.map (fun t => if t.number = n then { t with capture := none } else t)
  | none => ts

theorem removeCapture_eq (sc : Scale) (k : Capture) (s : State) : removeCapture sc k s = { s with
    channels := s.channels.set sc { s.chan sc with capture := none }, tickets := capturesCleared k s.tickets } := by
  unfold removeCapture capturesCleared
  cases k.ticket with
  | none => rfl
  | some n => simp only [updTicket_eq]; rfl

/-- A ticket whose capture has left is then written: the writing alone counts. -/
theorem putIn_capturesCleared {k : Capture} {n : Nat} (ticket : k.ticket = some n) (x : Ticket) (ts : List Ticket) :
    putIn n x (capturesCleared k ts) = putIn n x ts := by
  rw [capturesCleared, ticket]
  dsimp only
  rw [putIn, List.map_map]
  refine List.map_congr_left fun t _ => ?_
  rw [Function.comp_apply]
  by_cases same : t.number = n
  · rw [if_pos same, if_pos same, if_pos same]
  · rw [if_neg same, if_neg same]

/-! ## The close of a ticket (R51 to R53) -/

/-- A ticket priced at its close. -/
def pricedTicket (s : State) (t : Ticket) (lines : List Line) (source : TareSource) : Ticket :=
  { t with
    lines := lines.map (priceLine s), tareSource := some source, closedTime := some s.clock
    total := some ((lines.map (priceLine s)).map (fun l => l.amount.getD 0)).sum }

theorem closedRecord_eq (s : State) (t : Ticket) (lines : List Line) (source : TareSource) :
    closedRecord s t lines source = pricedTicket s t lines source := rfl

theorem offerPayable_closed (n : Nat) (s : State) :
    offerPayable n .closed s = broadcast ⟨.ticketPayable, some n, [1#8], s.clock⟩ s := by
  rw [offerPayable, be_one]
  rfl

/-- A close without hold hours makes the ticket PAYABLE. -/
theorem closeTicket_payable {s : State} {lines : List Line} (hours : holdHours s lines = 0) (t : Ticket) (source : TareSource) :
    closeTicket t lines source s = broadcast ⟨.ticketPayable, some t.number, [1#8], s.clock⟩ { s with
      tickets := putIn t.number { pricedTicket s t lines source with state := .payable } s.tickets } := by
  rw [closeTicket, if_neg (by omega), putTicket_eq, offerPayable_closed]
  rfl

/-- A close with hold hours makes the ticket HELD; an expiry past 32 bits is a free value (log 14). -/
theorem closeTicket_held {s : State} {lines : List Line} (hours : 0 < holdHours s lines) (t : Ticket) (source : TareSource) :
    ∃ expiry free,
      (s.clock + holdHours s lines * 3600 < 2 ^ 32 → expiry = s.clock + holdHours s lines * 3600 ∧ free = s.free) ∧
      closeTicket t lines source s = { s with
        tickets := putIn t.number { pricedTicket s t lines source with state := .held, hold := some ⟨expiry, false⟩ } s.tickets
        holds := placeHold ⟨t.number, expiry⟩ s.holds, free := free } := by
  by_cases fits : s.clock + holdHours s lines * 3600 < 2 ^ 32
  · refine ⟨_, s.free, fun _ => ⟨rfl, rfl⟩, ?_⟩
    have expiry : s.fit32 (s.clock + holdHours s lines * 3600) = (s.clock + holdHours s lines * 3600, s) := if_pos fits
    rw [closeTicket, if_pos hours, expiry]
    dsimp only
    rw [putTicket_eq]
    rfl
  · refine ⟨(Config.freeWord s.free).toNat, s.free + 1, fun h => absurd h fits, ?_⟩
    have expiry : s.fit32 (s.clock + holdHours s lines * 3600) =
        ((Config.freeWord s.free).toNat, { s with free := s.free + 1 }) := if_neg fits
    rw [closeTicket, if_pos hours, expiry]
    dsimp only
    rw [putTicket_eq]
    rfl

/-! ## The place of a tare (R35) -/

/-- A slot of the tare table holds an expired entry. -/
abbrev State.expiredAt (s : State) (i : Nat) (e : Tare) : Prop :=
  s.tareAt i = some e ∧ e.time + s.settings.tareValidity * 86400 ≤ s.clock

/-- The entry at one slot was stored before that at another, or at the same time in a slot that is not higher. -/
abbrev State.storedBefore (s : State) (i k : Nat) : Prop :=
  ∀ a b, s.expiredAt i a → s.expiredAt k b → a.time < b.time ∨ (a.time = b.time ∧ i ≤ k)

/-- What a search for the oldest expired entry has found among the slots below `n`. -/
abbrev State.oldestExpiredBelow (s : State) (n : Nat) (best : Option Nat) : Prop :=
  (best = none → ∀ i < n, ∀ e, ¬ s.expiredAt i e) ∧
  ∀ b, best = some b → b < n ∧ (∃ e, s.expiredAt b e) ∧ ∀ i < n, s.storedBefore b i

/-- A slot without an expired entry changes nothing for the search. -/
theorem oldestExpiredBelow_grow {s : State} {n : Nat} {best : Option Nat} (h : s.oldestExpiredBelow n best)
    (fresh : ∀ e, ¬ s.expiredAt n e) : s.oldestExpiredBelow (n + 1) best := by
  obtain ⟨missed, found⟩ := h
  refine ⟨fun no i lt e => ?_, fun b hb => ?_⟩
  · rcases Nat.lt_succ_iff_lt_or_eq.mp lt with lt | rfl
    · exact missed no i lt e
    · exact fresh e
  · obtain ⟨below, holds, before⟩ := found b hb
    refine ⟨by omega, holds, fun i lt a c ha hc => ?_⟩
    rcases Nat.lt_succ_iff_lt_or_eq.mp lt with lt | rfl
    · exact before i lt a c ha hc
    · exact absurd hc (fresh c)

/-- The search takes an expired entry that is older than the best so far. -/
theorem oldestExpiredBelow_take {s : State} {n : Nat} {best : Option Nat} (h : s.oldestExpiredBelow n best) {e : Tare}
    (expired : s.expiredAt n e) (older : ∀ b a, best = some b → s.expiredAt b a → e.time < a.time) :
    s.oldestExpiredBelow (n + 1) (some n) := by
  obtain ⟨missed, found⟩ := h
  refine ⟨fun no => absurd no (by simp), fun b hb => ?_⟩
  cases hb
  refine ⟨by omega, ⟨e, expired⟩, fun i lt a c ha hc => ?_⟩
  have same : a = e := Option.some.inj (ha.1.symm.trans expired.1)
  subst same
  rcases Nat.lt_succ_iff_lt_or_eq.mp lt with lt | rfl
  · cases hb : best with
    | none => exact absurd hc (missed hb i lt c)
    | some b =>
      obtain ⟨-, ⟨x, hx⟩, before⟩ := found b hb
      have first := older b x hb hx
      have next := before i lt x c hx hc
      exact .inl (by omega)
  · have : c = a := Option.some.inj (hc.1.symm.trans expired.1)
    exact .inr ⟨by rw [this], Nat.le_refl _⟩

/-- The search keeps the best so far before an expired entry that is not older. -/
theorem oldestExpiredBelow_keep {s : State} {n b : Nat} (h : s.oldestExpiredBelow n (some b)) {e a : Tare}
    (expired : s.expiredAt n e) (at' : s.expiredAt b a) (notOlder : ¬ e.time < a.time) :
    s.oldestExpiredBelow (n + 1) (some b) := by
  obtain ⟨-, found⟩ := h
  obtain ⟨below, holds, before⟩ := found b rfl
  refine ⟨fun no => absurd no (by simp), fun b' hb => ?_⟩
  cases hb
  refine ⟨by omega, holds, fun i lt x c hx hc => ?_⟩
  rcases Nat.lt_succ_iff_lt_or_eq.mp lt with lt | rfl
  · exact before i lt x c hx hc
  · have first : x = a := Option.some.inj (hx.1.symm.trans at'.1)
    have second : c = e := Option.some.inj (hc.1.symm.trans expired.1)
    rw [first, second]
    omega

theorem not_tareValid_iff (s : State) (e : Tare) :
    s.tareValid e = false ↔ e.time + s.settings.tareValidity * 86400 ≤ s.clock := by
  rw [← Bool.not_eq_true, tareValid_iff, Nat.not_lt]

/-- The entry found is the expired one of oldest stored time, of equal times the one in the lowest slot; none when none has
expired. -/
theorem oldestExpired_spec (s : State) : s.oldestExpiredBelow 32 s.oldestExpired := by
  unfold State.oldestExpired
  generalize 32 = n
  induction n with
  | zero => simp [State.oldestExpiredBelow]
  | succ n ih =>
    simp only [List.range_succ, List.foldl_append, List.foldl_cons, List.foldl_nil]
    generalize (List.range n).foldl _ none = best at ih ⊢
    cases entry : s.tareAt n with
    | none => exact oldestExpiredBelow_grow ih fun e h => absurd (entry.symm.trans h.1) (by simp)
    | some e =>
      dsimp only
      cases valid : s.tareValid e with
      | true =>
        refine oldestExpiredBelow_grow ih fun x h => ?_
        have same : e = x := Option.some.inj (entry.symm.trans h.1)
        have := (tareValid_iff s e).mp valid
        have := h.2
        rw [← same] at this
        omega
      | false =>
        have expired : s.expiredAt n e := ⟨entry, (not_tareValid_iff s e).mp valid⟩
        cases best with
        | none => exact oldestExpiredBelow_take ih expired fun b a hb => absurd hb (by simp)
        | some b =>
          obtain ⟨-, ⟨a, at'⟩, -⟩ := ih.2 b rfl
          rw [if_neg Bool.false_ne_true]
          dsimp only
          rw [at'.1, Option.map_some, Option.getD_some]
          by_cases older : e.time < a.time
          · rw [if_pos older]
            refine oldestExpiredBelow_take ih expired fun b' a' hb ha => ?_
            cases hb
            rw [show a' = a from Option.some.inj (ha.1.symm.trans at'.1)]
            exact older
          · rw [if_neg older]
            exact oldestExpiredBelow_keep ih expired at' older

theorem tarePlace_own {s : State} {v : List Byte} {i : Nat} (own : s.tareSlot v = some i) : s.tarePlace v = some i := by
  rw [State.tarePlace, own]

theorem tarePlace_free {s : State} {v : List Byte} {i : Nat} (own : s.tareSlot v = none)
    (free : s.tares.findIdx? Option.isNone = some i) : s.tarePlace v = some i := by
  rw [State.tarePlace, own, free]

theorem tarePlace_full {s : State} {v : List Byte} (own : s.tareSlot v = none) (free : s.tares.findIdx? Option.isNone = none) :
    s.tarePlace v = s.oldestExpired := by
  rw [State.tarePlace, own, free]

theorem tarePlace_expired {s : State} {v : List Byte} {i : Nat} {e : Tare} (own : s.tareSlot v = none)
    (free : s.tares.findIdx? Option.isNone = none) (inside : i < 32) (expired : s.expiredAt i e)
    (oldest : ∀ i' e', i' < 32 ∧ s.expiredAt i' e' → e.time < e'.time ∨ (e.time = e'.time ∧ i ≤ i')) :
    s.tarePlace v = some i := by
  rw [tarePlace_full own free]
  obtain ⟨missed, found⟩ := oldestExpired_spec s
  cases best : s.oldestExpired with
  | none => exact absurd expired (missed best i inside e)
  | some b =>
    obtain ⟨below, ⟨a, at'⟩, before⟩ := found b best
    have le := before i inside a e at' expired
    have ge := oldest b a ⟨below, at'⟩
    exact congrArg some (by omega)

theorem tarePlace_none {s : State} {v : List Byte} (own : s.tareSlot v = none) (free : s.tares.findIdx? Option.isNone = none)
    (fresh : ∀ i e, ¬ (i < 32 ∧ s.expiredAt i e)) : s.tarePlace v = none := by
  rw [tarePlace_full own free]
  cases best : s.oldestExpired with
  | none => rfl
  | some b =>
    obtain ⟨below, ⟨a, at'⟩, -⟩ := (oldestExpired_spec s).2 b best
    exact absurd ⟨below, at'⟩ (fresh b a)

end Sys2Proof.Machine
end

section
/-! PROOFS. Captures that meet a good frame (R48 to R53, R71 to R74). -/

namespace Sys2Proof.Machine

/-! ## The presentation of a good frame (R71) -/

/-- The state of a yard whose scale a good frame has weighed, with what is armed on it. -/
def weighedYard (sc : Scale) (bytes : List RxByte) (s : State) : State := scaleBecomes sc (weighedChannel sc bytes s) s

/-- The ports that have heard of a good frame. -/
def frameHeard (sc : Scale) (bytes : List RxByte) (s : State) : State := { s with ports := scaleHeard sc (frameChannel sc bytes s) s }

/-- The channels after a good frame, with what has become of the capture. -/
def frameChannels (sc : Scale) (bytes : List RxByte) (s : State) (capture : Option Capture) : PerScale Channel :=
  s.channels.set sc { frameChannel sc bytes s with capture := capture }

section Frame

variable {sc : Scale} {bytes : List RxByte} {s : State}

theorem weighedYard_eq (arrives : GoodFrameArrives sc bytes s) : weighedYard sc bytes s =
    { frameHeard sc bytes s with channels := s.channels.set sc (weighedChannel sc bytes s) } := by
  rw [weighedYard, scaleBecomes, scaleHeard_weighedChannel arrives]
  rfl

theorem weighedYard_chan : (weighedYard sc bytes s).chan sc = weighedChannel sc bytes s := PerScale.get_set_same ..

theorem frameChannel_state (arrives : GoodFrameArrives sc bytes s) :
    (frameChannel sc bytes s).state = (weighedChannel sc bytes s).state := by
  rw [frameChannel_eq arrives]
  exact zeroTracked_state ..

theorem frameChannel_weight (arrives : GoodFrameArrives sc bytes s) :
    (frameChannel sc bytes s).weight = (weighedChannel sc bytes s).weight := by
  rw [frameChannel_eq arrives]
  dsimp only [zeroTracked]
  split <;> rfl

theorem frameChannel_motion (arrives : GoodFrameArrives sc bytes s) :
    (frameChannel sc bytes s).motion = (weighedChannel sc bytes s).motion := by
  rw [frameChannel_eq arrives]
  dsimp only [zeroTracked]
  split <;> rfl

/-- The answer to a good frame: what its presentation leaves, with the channel that zero tracking has ended. -/
theorem exec_presented (arrives : GoodFrameArrives sc bytes s) {x : State} {capture : Option Capture}
    (presents : present sc true (weighedYard sc bytes s) = x)
    (channels : x.channels = s.channels.set sc { weighedChannel sc bytes s with capture := capture })
    (settings : x.settings = s.settings) : exec (.digitizerFrame sc bytes) s =
      .next (drainTest { x with channels := frameChannels sc bytes s capture }) := by
  refine (exec_digitizerFrame_good arrives).trans (congrArg (fun t => Host.Outcome.next (drainTest t)) ?_)
  rw [show present sc true (scaleBecomes sc (weighedChannel sc bytes s) s) = x from presents,
    zeroTrack_presented arrives channels settings]
  rfl

/-- The state when a capture has left. -/
def captureGone (sc : Scale) (bytes : List RxByte) (k : Capture) (s : State) : State :=
  { frameHeard sc bytes s with channels := frameChannels sc bytes s none, tickets := capturesCleared k s.tickets }

theorem removeCapture_weighedYard (arrives : GoodFrameArrives sc bytes s) (k : Capture) :
    removeCapture sc k (weighedYard sc bytes s) = { frameHeard sc bytes s with
      channels := s.channels.set sc { weighedChannel sc bytes s with capture := none }
      tickets := capturesCleared k s.tickets } := by
  rw [removeCapture_eq, weighedYard_chan, weighedYard_eq arrives]
  dsimp only
  rw [PerScale.set_set]
  rfl

/-- A capture that is removed with no notice. -/
theorem exec_frame_removes (arrives : GoodFrameArrives sc bytes s) {k : Capture}
    (presents : present sc true (weighedYard sc bytes s) = removeCapture sc k (weighedYard sc bytes s)) :
    exec (.digitizerFrame sc bytes) s = .next (drainTest (captureGone sc bytes k s)) :=
  exec_presented arrives (presents.trans (removeCapture_weighedYard arrives k)) rfl rfl

/-- A capture that fails. -/
theorem exec_frame_fails (arrives : GoodFrameArrives sc bytes s) {k : Capture} {r : CaptureFailure} {w : Option Int}
    (presents : present sc true (weighedYard sc bytes s) = failCapture sc k r w (weighedYard sc bytes s)) :
    exec (.digitizerFrame sc bytes) s =
      .next (drainTest (offerTo k.port (weighFailed sc k r w s.clock) (captureGone sc bytes k s))) := by
  refine exec_presented arrives (presents.trans ?_) ?_ ?_ (x := offerTo k.port (weighFailed sc k r w s.clock)
    { frameHeard sc bytes s with
      channels := s.channels.set sc { weighedChannel sc bytes s with capture := none }, tickets := capturesCleared k s.tickets })
    (capture := none)
  · rw [failCapture, removeCapture_weighedYard arrives]
    rfl
  · rfl
  · rfl

/-- A capture that waits. -/
theorem exec_frame_waits (arrives : GoodFrameArrives sc bytes s) {capture : Option Capture}
    (presents : present sc true (weighedYard sc bytes s) =
      (weighedYard sc bytes s).updChan sc (fun c => { c with capture := capture })) :
    exec (.digitizerFrame sc bytes) s =
      .next (drainTest { frameHeard sc bytes s with channels := frameChannels sc bytes s capture }) := by
  refine exec_presented arrives (presents.trans ?_) ?_ ?_ (x := { frameHeard sc bytes s with
    channels := s.channels.set sc { weighedChannel sc bytes s with capture := capture } }) (capture := capture)
  · rw [State.updChan, weighedYard_eq arrives]
    dsimp only
    rw [PerScale.get_set_same, PerScale.set_set]
  · rfl
  · rfl

/-! ## What is presented, by the state of the scale (R71) -/

section Presented

variable {k : Capture} (armed : (s.chan sc).capture = some k)

include armed in
theorem weighedChannel_armed : (weighedChannel sc bytes s).capture = some k := (weighedChannel_capture ..).trans armed

include armed in
theorem present_fault (state : (weighedChannel sc bytes s).state = .fault) :
    present sc true (weighedYard sc bytes s) = failCapture sc k .scaleFault none (weighedYard sc bytes s) := by
  rw [present, weighedYard_chan, weighedChannel_armed armed, state]

include armed in
theorem present_loaded (state : (weighedChannel sc bytes s).state = .moving ∨ (weighedChannel sc bytes s).state = .overload) :
    present sc true (weighedYard sc bytes s) =
      (weighedYard sc bytes s).updChan sc (fun c => { c with capture := some { k with loadSeen := true } }) := by
  rw [present, weighedYard_chan, weighedChannel_armed armed]
  rcases state with state | state <;> rw [state]

include armed in
theorem present_stable (state : (weighedChannel sc bytes s).state = .stable) {w : Int}
    (weight : (weighedChannel sc bytes s).weight = some w) :
    present sc true (weighedYard sc bytes s) = completeCapture sc k w (weighedYard sc bytes s) := by
  rw [present, weighedYard_chan, weighedChannel_armed armed, state]
  dsimp only
  rw [weight]
  rfl

theorem platformTare_iff : platformTare sc k = true ↔ sc = .p ∧ k.kind = .tare := by
  rw [platformTare, Bool.and_eq_true, beq_iff_eq, beq_iff_eq]

include armed in
theorem present_left (state : (weighedChannel sc bytes s).state = .empty) (other : ¬ (sc = .p ∧ k.kind = .tare))
    (seen : k.loadSeen = true) : present sc true (weighedYard sc bytes s) =
      failCapture sc k .vehicleLeft none (weighedYard sc bytes s) := by
  rw [present, weighedYard_chan, weighedChannel_armed armed, state]
  dsimp only
  rw [if_neg (platformTare_iff.not.mpr other), if_pos seen]

include armed in
/-- A presentation that changes nothing leaves the capture that is armed. -/
theorem present_same (h : present sc true (weighedYard sc bytes s) = weighedYard sc bytes s) :
    present sc true (weighedYard sc bytes s) =
      (weighedYard sc bytes s).updChan sc (fun c => { c with capture := some k }) := by
  have stands := updChan_stands (s := weighedYard sc bytes s) (sc := sc) (f := fun c => { c with capture := some k })
    (by rw [weighedYard_chan]; exact capture_stands (weighedChannel_armed armed))
  rw [stands, h]

include armed in
theorem present_notLoaded (state : (weighedChannel sc bytes s).state = .empty) (other : ¬ (sc = .p ∧ k.kind = .tare))
    (unseen : k.loadSeen = false) : present sc true (weighedYard sc bytes s) = weighedYard sc bytes s := by
  rw [present, weighedYard_chan, weighedChannel_armed armed, state]
  dsimp only
  rw [if_neg (platformTare_iff.not.mpr other), unseen, if_neg Bool.false_ne_true]

theorem weighedYard_stable : (weighedYard sc bytes s).stable sc = true ↔
    (s.scaleSettings sc).settle ≤ (weighedChannel sc bytes s).motion := by
  rw [stable_iff, weighedYard_chan]
  rfl

include armed in
theorem present_platform (state : (weighedChannel sc bytes s).state = .empty) (tare : sc = .p ∧ k.kind = .tare) {w : Int}
    (weight : (weighedChannel sc bytes s).weight = some w)
    (stable : (s.scaleSettings sc).settle ≤ (weighedChannel sc bytes s).motion) :
    present sc true (weighedYard sc bytes s) = completeCapture sc k (if w < 0 then 0 else w) (weighedYard sc bytes s) := by
  have floor : max w 0 = if w < 0 then 0 else w := by split <;> omega
  rw [present, weighedYard_chan, weighedChannel_armed armed, state]
  dsimp only
  rw [if_pos (platformTare_iff.mpr tare), weight]
  dsimp only
  rw [if_pos ⟨rfl, weighedYard_stable.mpr stable⟩, floor]

include armed in
theorem present_unsettled (state : (weighedChannel sc bytes s).state = .empty) (tare : sc = .p ∧ k.kind = .tare)
    (unsettled : (weighedChannel sc bytes s).weight = none ∨ (weighedChannel sc bytes s).motion < (s.scaleSettings sc).settle) :
    present sc true (weighedYard sc bytes s) = weighedYard sc bytes s := by
  rw [present, weighedYard_chan, weighedChannel_armed armed, state]
  dsimp only
  rw [if_pos (platformTare_iff.mpr tare)]
  cases weight : (weighedChannel sc bytes s).weight with
  | none => rfl
  | some w =>
    have moves := unsettled.resolve_left (by rw [weight]; exact Option.some_ne_none w)
    exact if_neg (fun h => absurd (weighedYard_stable.mp h.2) (Nat.not_le.mpr moves))

end Presented

/-! ## A capture completes (R48, R72 to R74) -/

/-- A capture of a ticket that is in the table. -/
theorem completeCapture_ticket {k : Capture} {t : Ticket} {x : State} (kind : k.kind ≠ .storeTare)
    (found : k.ticket.bind x.ticket = some t) (w : Int) : completeCapture sc k w x =
      match weightFault sc k.kind w t with
      | some r => failCapture sc k r (some w) x
      | none => offerTo k.port (weighedNotice sc k.kind t.number w
          (weighedState (appendWeighing sc k w t (removeCapture sc k x)) t.number)
          (appendWeighing sc k w t (removeCapture sc k x)).clock) (appendWeighing sc k w t (removeCapture sc k x)) := by
  rw [completeCapture, found]
  cases kind' : k.kind with
  | storeTare => exact absurd kind' kind
  | _ => rfl

theorem completeCapture_gone {k : Capture} {x : State} (kind : k.kind ≠ .storeTare) (gone : k.ticket.bind x.ticket = none)
    (w : Int) : completeCapture sc k w x = removeCapture sc k x := by
  rw [completeCapture, gone]
  cases kind' : k.kind with
  | storeTare => exact absurd kind' kind
  | _ => rfl

theorem completeCapture_table {k : Capture} {x : State} (kind : k.kind = .storeTare) (w : Int) : completeCapture sc k w x =
    match x.tarePlace (k.vehicle.getD []) with
    | none => failCapture sc k .tareTableFull none x
    | some slot => offerTo k.port (weighedNotice sc .storeTare slot w 0xFF (removeCapture sc k x).clock)
        { removeCapture sc k x with
          tares := (removeCapture sc k x).tares.set slot
            (some ⟨k.vehicle.getD [], scaleClass sc, w, (removeCapture sc k x).clock⟩) } := by
  rw [completeCapture, kind] <;> rfl

end Frame

end Sys2Proof.Machine
end

section
/-! PROOFS. Captures that complete with the weight of a good frame (R48 to R53, R72 to R74). -/

namespace Sys2Proof.Machine

/-! ## A weighing is appended (R48) -/

/-- A ticket with a weighing appended and its capture gone. -/
def weighedTicket (sc : Scale) (k : Capture) (w : Int) (time : Nat) (t : Ticket) : Ticket :=
  { t with weighings := t.weighings ++ [⟨sc, k.kind, w, time, k.grade⟩], capture := none }

/-- The lines of a ticket with the weight of a load's part attributed (R49). -/
def attributedLines (k : Capture) (w : Int) (t : Ticket) : List Line :=
  attributeWeight (k.grade.getD 0) (lastWeight t - w).toNat t.lines

theorem appendWeighing_gross {k : Capture} (kind : k.kind = .gross) (sc : Scale) (w : Int) (t : Ticket) (s : State) :
    appendWeighing sc k w t s = s.putTicket { weighedTicket sc k w s.clock t with state := .onYard } := by
  rw [appendWeighing, kind, weighedTicket, kind]

theorem appendWeighing_drop {k : Capture} (kind : k.kind = .drop) (sc : Scale) (w : Int) (t : Ticket) (s : State) :
    appendWeighing sc k w t s = s.putTicket { weighedTicket sc k w s.clock t with lines := attributedLines k w t } := by
  rw [appendWeighing, kind, weighedTicket, kind]
  rfl

theorem appendWeighing_tare {k : Capture} (kind : k.kind = .tare) (sc : Scale) (w : Int) (t : Ticket) (s : State) :
    appendWeighing sc k w t s = closeTicket (weighedTicket sc k w s.clock t) (attributedLines k w t) .weighed s := by
  rw [appendWeighing, kind, weighedTicket, kind]
  rfl

theorem weightFault_gross {sc : Scale} {k : CaptureKind} (kind : k = .gross) (w : Int) (t : Ticket) :
    weightFault sc k w t = if w < minimumLoad sc then some .belowMin else none := by
  rw [kind]
  rfl

theorem weightFault_other {sc : Scale} {k : CaptureKind} (kind : k ≠ .gross) (w : Int) (t : Ticket) :
    weightFault sc k w t = if lastWeight t - w < division sc then some .order else none := by
  cases k with
  | gross => exact absurd rfl kind
  | _ => rfl

section Frame

variable {sc : Scale} {bytes : List RxByte} {s : State} {k : Capture} {w : Int}

/-- The state in which a weighing is appended. -/
def yardRemoved (sc : Scale) (bytes : List RxByte) (k : Capture) (s : State) : State := { frameHeard sc bytes s with
  channels := s.channels.set sc { weighedChannel sc bytes s with capture := none }, tickets := capturesCleared k s.tickets }

theorem weighedYard_ticket (n : Nat) : (weighedYard sc bytes s).ticket n = s.ticket n := rfl

/-- What a ticket's completed capture leaves: `new` is the ticket that has been written. -/
def weighedOut (sc : Scale) (bytes : List RxByte) (s : State) (k : Capture) (w : Int) (new : Ticket) (holds : List HoldEntry)
    (ports : PerPort PortCtx) (free : Nat) : State :=
  offerTo k.port (weighedNotice sc k.kind new.number w (ticketStateCode new.state) s.clock) { frameHeard sc bytes s with
    channels := frameChannels sc bytes s none, tickets := putIn new.number new s.tickets, holds := holds, ports := ports
    free := free }

theorem exec_frame_weighs (arrives : GoodFrameArrives sc bytes s)
    (presents : present sc true (weighedYard sc bytes s) = completeCapture sc k w (weighedYard sc bytes s))
    (kind : k.kind ≠ .storeTare) {t : Ticket} (found : k.ticket.bind s.ticket = some t) (ok : weightFault sc k.kind w t = none)
    {new : Ticket} {holds : List HoldEntry} {ports : PerPort PortCtx} {free : Nat} (number : new.number = t.number)
    (appended : appendWeighing sc k w t (yardRemoved sc bytes k s) = { yardRemoved sc bytes k s with
      tickets := putIn new.number new s.tickets, holds := holds, ports := ports, free := free }) :
    exec (.digitizerFrame sc bytes) s = .next (drainTest (weighedOut sc bytes s k w new holds ports free)) := by
  obtain ⟨n, ticket, at'⟩ := Option.bind_eq_some_iff.mp found
  have same : n = t.number := (ticket_some at').2.symm
  have shown : weighedState { yardRemoved sc bytes k s with
      tickets := putIn new.number new s.tickets, holds := holds, ports := ports, free := free } t.number =
      ticketStateCode new.state := by
    rw [weighedState, State.ticket]
    dsimp only
    rw [number, find_putIn number (same ▸ at')]
    rfl
  refine exec_presented arrives (presents.trans ?_) ?_ ?_ (x := offerTo k.port
    (weighedNotice sc k.kind t.number w (ticketStateCode new.state) s.clock) { yardRemoved sc bytes k s with
      tickets := putIn new.number new s.tickets, holds := holds, ports := ports, free := free }) (capture := none) |>.trans ?_
  · rw [completeCapture_ticket (x := weighedYard sc bytes s) kind found, ok]
    dsimp only
    rw [removeCapture_weighedYard arrives, show ({ frameHeard sc bytes s with
      channels := s.channels.set sc { weighedChannel sc bytes s with capture := none }
      tickets := capturesCleared k s.tickets } : State) = yardRemoved sc bytes k s from rfl, appended, shown]
    rfl
  · rfl
  · rfl
  · rw [weighedOut, number]
    rfl

theorem putTicket_yardRemoved {x : Ticket} (ticket : k.ticket = some x.number) :
    (yardRemoved sc bytes k s).putTicket x = { yardRemoved sc bytes k s with tickets := putIn x.number x s.tickets } := by
  rw [putTicket_eq, yardRemoved, putIn_capturesCleared ticket]

/-- Each kind of completed weighing, by the weight that it brings. -/
theorem frame_ticketFails (arrives : GoodFrameArrives sc bytes s)
    (presents : present sc true (weighedYard sc bytes s) = completeCapture sc k w (weighedYard sc bytes s))
    (kind : k.kind ≠ .storeTare) {t : Ticket} (found : k.ticket.bind s.ticket = some t) {r : CaptureFailure}
    (fails : weightFault sc k.kind w t = some r) : exec (.digitizerFrame sc bytes) s =
      .next (drainTest (offerTo k.port (weighFailed sc k r (some w) s.clock) (captureGone sc bytes k s))) := by
  refine exec_frame_fails arrives (presents.trans ?_)
  rw [completeCapture_ticket (x := weighedYard sc bytes s) kind found, fails]

theorem frame_gross (arrives : GoodFrameArrives sc bytes s)
    (presents : present sc true (weighedYard sc bytes s) = completeCapture sc k w (weighedYard sc bytes s))
    (kind : k.kind = .gross) {t : Ticket} (found : k.ticket.bind s.ticket = some t) (heavy : minimumLoad sc ≤ w) :
    exec (.digitizerFrame sc bytes) s = .next (drainTest (weighedOut sc bytes s k w
      { weighedTicket sc k w s.clock t with state := .onYard } s.holds (scaleHeard sc (frameChannel sc bytes s) s) s.free)) := by
  obtain ⟨n, ticket, at'⟩ := Option.bind_eq_some_iff.mp found
  have named : k.ticket = some t.number := by rw [ticket, (ticket_some at').2]
  refine exec_frame_weighs arrives presents (by rw [kind]; exact CaptureKind.noConfusion) found
    ((weightFault_gross kind w t).trans (if_neg (by omega))) rfl ?_
  rw [appendWeighing_gross kind]
  exact putTicket_yardRemoved named

theorem frame_drop (arrives : GoodFrameArrives sc bytes s)
    (presents : present sc true (weighedYard sc bytes s) = completeCapture sc k w (weighedYard sc bytes s))
    (kind : k.kind = .drop) {t : Ticket} (found : k.ticket.bind s.ticket = some t) (less : division sc ≤ lastWeight t - w) :
    exec (.digitizerFrame sc bytes) s = .next (drainTest (weighedOut sc bytes s k w
      { weighedTicket sc k w s.clock t with lines := attributedLines k w t } s.holds
      (scaleHeard sc (frameChannel sc bytes s) s) s.free)) := by
  obtain ⟨n, ticket, at'⟩ := Option.bind_eq_some_iff.mp found
  have named : k.ticket = some t.number := by rw [ticket, (ticket_some at').2]
  refine exec_frame_weighs arrives presents (by rw [kind]; exact CaptureKind.noConfusion) found
    ((weightFault_other (by rw [kind]; exact CaptureKind.noConfusion) w t).trans (if_neg (by omega))) rfl ?_
  rw [appendWeighing_drop kind]
  exact putTicket_yardRemoved named

/-- The tickets of a yard in which the ticket of a removed capture is written. -/
theorem putIn_yardRemoved {n : Nat} (ticket : k.ticket = some n) (x : Ticket) :
    putIn n x (yardRemoved sc bytes k s).tickets = putIn n x s.tickets := putIn_capturesCleared ticket x s.tickets

/-- The ticket that a PLATFORM or BRIDGE TARE closes. -/
def tareClosed (sc : Scale) (s : State) (k : Capture) (w : Int) (t : Ticket) : Ticket :=
  pricedTicket s (weighedTicket sc k w s.clock t) (attributedLines k w t) .weighed

theorem frame_tare_payable (arrives : GoodFrameArrives sc bytes s)
    (presents : present sc true (weighedYard sc bytes s) = completeCapture sc k w (weighedYard sc bytes s))
    (kind : k.kind = .tare) {t : Ticket} (found : k.ticket.bind s.ticket = some t) (less : division sc ≤ lastWeight t - w)
    (hours : holdHours s (attributedLines k w t) = 0) :
    exec (.digitizerFrame sc bytes) s = .next (drainTest (weighedOut sc bytes s k w
      { tareClosed sc s k w t with state := .payable } s.holds
      (broadcast ⟨.ticketPayable, some t.number, [1#8], s.clock⟩ (frameHeard sc bytes s)).ports s.free)) := by
  obtain ⟨n, ticket, at'⟩ := Option.bind_eq_some_iff.mp found
  have named : k.ticket = some t.number := by rw [ticket, (ticket_some at').2]
  refine exec_frame_weighs arrives presents (by rw [kind]; exact CaptureKind.noConfusion) found
    ((weightFault_other (by rw [kind]; exact CaptureKind.noConfusion) w t).trans (if_neg (by omega))) rfl ?_
  rw [appendWeighing_tare kind, closeTicket_payable (s := yardRemoved sc bytes k s) hours,
    putIn_yardRemoved (n := (weighedTicket sc k w (yardRemoved sc bytes k s).clock t).number) named]
  rfl

theorem frame_tare_held (arrives : GoodFrameArrives sc bytes s)
    (presents : present sc true (weighedYard sc bytes s) = completeCapture sc k w (weighedYard sc bytes s))
    (kind : k.kind = .tare) {t : Ticket} (found : k.ticket.bind s.ticket = some t) (less : division sc ≤ lastWeight t - w)
    (hours : 0 < holdHours s (attributedLines k w t)) : ∃ expiry free,
      (s.clock + holdHours s (attributedLines k w t) * 3600 < 2 ^ 32 →
        expiry = s.clock + holdHours s (attributedLines k w t) * 3600 ∧ free = s.free) ∧
      exec (.digitizerFrame sc bytes) s = .next (drainTest (weighedOut sc bytes s k w
        { tareClosed sc s k w t with state := .held, hold := some ⟨expiry, false⟩ } (placeHold ⟨t.number, expiry⟩ s.holds)
        (scaleHeard sc (frameChannel sc bytes s) s) free)) := by
  obtain ⟨n, ticket, at'⟩ := Option.bind_eq_some_iff.mp found
  have named : k.ticket = some t.number := by rw [ticket, (ticket_some at').2]
  obtain ⟨expiry, free, fits, closes⟩ :=
    closeTicket_held (s := yardRemoved sc bytes k s) hours (weighedTicket sc k w s.clock t) .weighed
  refine ⟨expiry, free, fits, exec_frame_weighs arrives presents (by rw [kind]; exact CaptureKind.noConfusion) found
    ((weightFault_other (by rw [kind]; exact CaptureKind.noConfusion) w t).trans (if_neg (by omega))) rfl ?_⟩
  rw [appendWeighing_tare kind]
  refine closes.trans ?_
  rw [putIn_yardRemoved (n := (weighedTicket sc k w s.clock t).number) named]
  rfl

/-! ## A STORE_TARE (R35, R74) -/

theorem frame_tablePlaces (arrives : GoodFrameArrives sc bytes s)
    (presents : present sc true (weighedYard sc bytes s) = completeCapture sc k w (weighedYard sc bytes s))
    (kind : k.kind = .storeTare) {i : Nat} (place : s.tarePlace (k.vehicle.getD []) = some i) :
    exec (.digitizerFrame sc bytes) s = .next (drainTest { captureGone sc bytes k s with
      ports := (offerTo k.port (weighedNotice sc k.kind i w 255 s.clock) (frameHeard sc bytes s)).ports
      tares := s.tares.set i (some ⟨k.vehicle.getD [], scaleClass sc, w, s.clock⟩) }) := by
  have placed : (weighedYard sc bytes s).tarePlace (k.vehicle.getD []) = some i := place
  refine exec_presented arrives (presents.trans ?_) ?_ ?_ (x := offerTo k.port (weighedNotice sc k.kind i w 255 s.clock)
    { yardRemoved sc bytes k s with tares := s.tares.set i (some ⟨k.vehicle.getD [], scaleClass sc, w, s.clock⟩) })
    (capture := none)
  · rw [completeCapture_table kind, placed, removeCapture_weighedYard arrives, kind]
    rfl
  · rfl
  · rfl

theorem frame_tableFull (arrives : GoodFrameArrives sc bytes s)
    (presents : present sc true (weighedYard sc bytes s) = completeCapture sc k w (weighedYard sc bytes s))
    (kind : k.kind = .storeTare) (full : s.tarePlace (k.vehicle.getD []) = none) :
    exec (.digitizerFrame sc bytes) s =
      .next (drainTest (offerTo k.port (weighFailed sc k .tareTableFull none s.clock) (captureGone sc bytes k s))) := by
  have missed : (weighedYard sc bytes s).tarePlace (k.vehicle.getD []) = none := full
  refine exec_frame_fails arrives (presents.trans ?_)
  rw [completeCapture_table kind, missed]

end Frame

/-- Settles O54: what is presented, by the state of the scale, and what a capture that completes does, by its kind. -/
theorem capturesComplete : Obligations.CapturesComplete := by
  intro sc bytes k s arrives armed c chans heard cleared answers waits fails weighed tablePlaces ticketTakes completes weighsEmpty
  have state : c.state = _ := frameChannel_state arrives
  have weight : c.weight = _ := frameChannel_weight arrives
  have motion : c.motion = _ := frameChannel_motion arrives
  have done (w : Int)
      (presents : present sc true (weighedYard sc bytes s) = completeCapture sc k w (weighedYard sc bytes s)) : completes w := by
    refine ⟨fun kind => ⟨fun i own => ?_, fun i own free => ?_, fun i e own free expired oldest => ?_, fun own free fresh => ?_⟩,
      fun kind t found => ⟨fun gross light => ?_, fun gross heavy => ?_, fun other order => ?_, fun drop less => ?_,
        fun tare less hours => ?_, fun tare less hours => ?_⟩, fun kind gone => ?_⟩
    · exact frame_tablePlaces arrives presents kind (tarePlace_own own)
    · exact frame_tablePlaces arrives presents kind (tarePlace_free own free)
    · exact frame_tablePlaces arrives presents kind (tarePlace_expired own free expired.1 expired.2 oldest)
    · exact frame_tableFull arrives presents kind (tarePlace_none own free fresh)
    · exact frame_ticketFails arrives presents kind found ((weightFault_gross gross w t).trans (if_pos light))
    · exact frame_gross arrives presents gross found heavy
    · exact frame_ticketFails arrives presents kind found ((weightFault_other other w t).trans (if_pos order))
    · exact frame_drop arrives presents drop found less
    · exact frame_tare_payable arrives presents tare found less hours
    · exact frame_tare_held arrives presents tare found less hours
    · exact exec_frame_removes arrives
        (presents.trans (completeCapture_gone (x := weighedYard sc bytes s) kind gone w))
  refine ⟨fun moves => ?_, fun fault => ?_, fun w stable held => ?_, fun empty other seen => ?_, fun empty other unseen => ?_,
    fun w empty tare held stable => ?_, fun empty tare unsettled => ?_⟩
  · rw [state] at moves
    exact exec_frame_waits arrives (present_loaded armed moves)
  · rw [state] at fault
    exact exec_frame_fails arrives (present_fault armed fault)
  · rw [state] at stable
    rw [weight] at held
    exact done w (present_stable armed stable held)
  · rw [state] at empty
    exact exec_frame_fails arrives (present_left armed empty other seen)
  · rw [state] at empty
    have waits' := exec_frame_waits arrives (present_same armed (present_notLoaded armed empty other unseen))
    rw [show k = { k with loadSeen := false } by rw [← unseen]] at waits'
    exact waits'
  · rw [state] at empty
    rw [weight] at held
    rw [motion] at stable
    exact done _ (present_platform armed empty tare held stable)
  · rw [state] at empty
    rw [weight, motion] at unsettled
    exact exec_frame_waits arrives (present_same armed (present_unsettled armed empty tare unsettled))

end Sys2Proof.Machine
end

section
/-! PROOFS. Requests on a scale, and its calibration (R10, R13, R14, R16, R17, R20 to R22, R216). -/

namespace Sys2Proof.Machine

/-! ## RESTORE SCALE (R14) -/

theorem exec_restoreScale (p : Port) (scale : Byte) (s : State) :
    exec (.restoreScale p scale) s = request p s (restoreScale p scale) := rfl

/-- A channel restored (R13, R14). -/
def restoredChannel (c : Channel) : Channel :=
  if c.state = .fault then
    { c with faultCount := 0, state := .empty, weight := none, w1 := none, reference := none, motion := 0 }
  else { c with faultCount := 0 }

theorem restoreScale_taken (p : Port) (scale : Byte) (s : State) : restoreScale p scale (taken p s) =
    if s.maskAdmits p scale = false then answered p .role [] s
    else if s.mode = .starting then answered p .mode [] s
    else match scaleOf scale with
      | none => answered p .range [] s
      | some sc =>
        if (s.chan sc).state = .disabled then answered p .scaleState [] s
        else drainTest (presented sc (reply p .ok [] (scaleBecomes sc (restoredChannel (s.chan sc)) (taken p s)))) := by
  simp only [restoreScale, taken_maskAdmits, taken_mode, taken_chan, refuse_taken, Bool.not_eq_true', present_eq,
    updScale_becomes] <;> rfl

/-! ## ZERO SCALE (R16) -/

theorem exec_zeroScale (p : Port) (scale : Byte) (s : State) : exec (.zeroScale p scale) s = request p s (zeroScale p scale) := rfl

theorem loaded_iff (s : State) (sc : Scale) :
    s.loaded sc = true ↔ ∃ w ∈ (s.chan sc).weight, ((s.scaleSettings sc).empty * division sc : Int) < w := by
  unfold State.loaded State.emptyLimit
  cases (s.chan sc).weight with
  | none => simp
  | some w => simp

/-- A scale that carries a load, or moves. -/
theorem unready_iff (s : State) (sc : Scale) : (s.loaded sc = true ∨ (!s.stable sc) = true) ↔
    (∃ w ∈ (s.chan sc).weight, ((s.scaleSettings sc).empty * division sc : Int) < w) ∨
      (s.chan sc).motion < (s.scaleSettings sc).settle := by
  rw [loaded_iff, Bool.not_eq_true', ← Bool.not_eq_true, stable_iff, Nat.not_le]

theorem applyZero_eq (p : Port) (sc : Scale) (w1 : Int) (s : State) : applyZero p sc w1 s =
    if (capacity sc : Int) < 50 * ((s.chan sc).zeroOffset + w1) ∨ 50 * ((s.chan sc).zeroOffset + w1) < -(capacity sc : Int) then
      refuse p .range s
    else reply p .ok [] (s.updChan sc (fun c => { c with zeroOffset := c.zeroOffset + w1, weight := some 0, w1 := some 0 })) := by
  unfold applyZero
  by_cases ok : zeroOk sc ((s.chan sc).zeroOffset + w1) = true
  · have bounds := (zeroOk_iff ..).mp ok
    rw [if_pos ok, if_neg (by omega)]
  · have beyond := (zeroOk_iff ..).not.mp ok
    rw [if_neg ok, if_pos (by omega)]

/-- ZERO SCALE of a scale, by its last five checks. -/
theorem zeroScale_taken (p : Port) (scale : Byte) (s : State) : zeroScale p scale (taken p s) =
    if s.maskAdmits p scale = false then answered p .role [] s
    else if s.mode = .starting then answered p .mode [] s
    else match scaleOf scale with
      | none => answered p .range [] s
      | some sc =>
        if (s.chan sc).state = .disabled ∨ (s.chan sc).state = .fault ∨ (s.chan sc).weight.isNone = true then
          answered p .scaleState [] s
        else if (s.chan sc).capture.isSome = true then answered p .scaleBusy [] s
        else if (taken p s).loaded sc = true ∨ (!(taken p s).stable sc) = true then answered p .scaleState [] s
        else applyZero p sc ((s.chan sc).w1.getD 0) (taken p s) := by
  simp only [zeroScale, taken_maskAdmits, taken_mode, taken_chan, refuse_taken, Bool.not_eq_true'] <;> rfl

theorem zeroScale_answers (p : Port) (scale : Byte) (s : State) (taking : Taking p s) :
    exec (.zeroScale p scale) s = .next (
      if s.maskAdmits p scale = false then answered p .role [] s
      else if s.mode = .starting then answered p .mode [] s
      else match scaleOf scale with
        | none => answered p .range [] s
        | some sc =>
          let c := s.chan sc
          if c.state = .disabled ∨ c.state = .fault ∨ c.weight = none then answered p .scaleState [] s
          else if c.capture ≠ none then answered p .scaleBusy [] s
          else if (∃ w ∈ c.weight, ((s.scaleSettings sc).empty * division sc : Int) < w) ∨
              c.motion < (s.scaleSettings sc).settle then answered p .scaleState [] s
          else if (capacity sc : Int) < 50 * (c.zeroOffset + c.w1.getD 0) ∨
              50 * (c.zeroOffset + c.w1.getD 0) < -(capacity sc : Int) then answered p .range [] s
          else reply p .ok [] ((taken p s).updChan sc (fun c =>
            { c with zeroOffset := c.zeroOffset + c.w1.getD 0, weight := some 0, w1 := some 0 }))) := by
  rw [exec_zeroScale, request_taking taking, zeroScale_taken]
  cases scaleOf scale with
  | none => rfl
  | some sc =>
    have unready := unready_iff (taken p s) sc
    have same : ((taken p s).updChan sc fun c =>
        { c with zeroOffset := c.zeroOffset + (s.chan sc).w1.getD 0, weight := some 0, w1 := some 0 }) =
        (taken p s).updChan sc fun c => { c with zeroOffset := c.zeroOffset + c.w1.getD 0, weight := some 0, w1 := some 0 } := rfl
    simp only [applyZero_eq, unready, taken_chan, taken_scaleSettings, refuse_taken, Option.isNone_iff_eq_none,
      Option.isSome_iff_ne_none, same]

/-- Settles O29: both requests by their checks. -/
theorem restoreAndZeroScale : Obligations.RestoreAndZeroScale := by
  refine ⟨fun p scale s taking => ?_, zeroScale_answers⟩
  have answer := (exec_restoreScale p scale s).trans (request_taking taking _)
  rw [restoreScale_taken] at answer
  refine ⟨fun mask => ?_, fun mask mode => ?_, fun mask mode noScale => ?_, fun sc mask mode named => ⟨fun off => ?_, fun on => ?_⟩⟩
  · rw [answer, if_pos mask]
  · rw [answer, if_neg (by simp [mask]), if_pos mode]
  · rw [answer, if_neg (by simp [mask]), if_neg mode, noScale]
  · rw [answer, if_neg (by simp [mask]), if_neg mode, named]
    exact congrArg _ (if_pos off)
  · rw [answer, if_neg (by simp [mask]), if_neg mode, named]
    exact congrArg _ (if_neg on)

end Sys2Proof.Machine
end

section
/-! PROOFS. SCALE SETTINGS, CALIBRATE and LOCK CALIBRATION, and the end of a calibration write (R10, R17, R20 to R22, R216). -/

namespace Sys2Proof.Machine

/-! ## SCALE SETTINGS (R17) -/

theorem exec_scaleSettings (p : Port) (scale enable settle timeout empty recovery : Byte) (s : State) :
    exec (.scaleSettings p scale enable settle timeout empty recovery) s =
      request p s (scaleSettingsRequest p scale enable settle timeout empty recovery) := rfl

/-- The operands of SCALE SETTINGS lie in their ranges (R1, R17). -/
abbrev SettingsInRange (enable settle timeout empty recovery : Byte) : Prop :=
  enable.toNat ≤ 1 ∧ (3 ≤ settle.toNat ∧ settle.toNat ≤ 20) ∧ (10 ≤ timeout.toNat ∧ timeout.toNat ≤ 120) ∧
    (1 ≤ empty.toNat ∧ empty.toNat ≤ 50) ∧ recovery.toNat ≤ 1

/-- The settings that its operands name. -/
def namedSettings (enable settle timeout empty recovery : Byte) : ScaleSettings :=
  ⟨enable == 1#8, settle.toNat, timeout.toNat, empty.toNat, if recovery = 0#8 then .manual else .auto⟩

theorem byte_le_one {b : Byte} (h : b.toNat ≤ 1) : b = 0#8 ∨ b = 1#8 := by
  rcases Nat.le_one_iff_eq_zero_or_eq_one.mp h with zero | one
  · exact .inl (BitVec.eq_of_toNat_eq zero)
  · exact .inr (BitVec.eq_of_toNat_eq one)

theorem recoveryOf_le_one {b : Byte} (h : b.toNat ≤ 1) : recoveryOf b = some (if b = 0#8 then .manual else .auto) := by
  rcases byte_le_one h with rfl | rfl <;> rfl

theorem recoveryOf_high {b : Byte} (h : ¬ b.toNat ≤ 1) : recoveryOf b = none := by
  rw [recoveryOf, if_neg (by rintro rfl; exact h (by decide)), if_neg (by rintro rfl; exact h (by decide))]

theorem settingsOf_inRange {enable settle timeout empty recovery : Byte}
    (h : SettingsInRange enable settle timeout empty recovery) : settingsOf enable settle timeout empty recovery =
      some (namedSettings enable settle timeout empty recovery) := by
  obtain ⟨en, st, ti, em, re⟩ := h
  rw [settingsOf, recoveryOf_le_one re]
  exact if_pos ⟨en, st, ti, em⟩

theorem settingsOf_outOfRange {enable settle timeout empty recovery : Byte}
    (h : ¬ SettingsInRange enable settle timeout empty recovery) : settingsOf enable settle timeout empty recovery = none := by
  by_cases re : recovery.toNat ≤ 1
  · rw [settingsOf, recoveryOf_le_one re]
    exact if_neg (fun ⟨en, st, ti, em⟩ => h ⟨en, st, ti, em, re⟩)
  · rw [settingsOf, recoveryOf_high re]

/-- A channel that is switched (R17). -/
def switchedChannel (was : Bool) (enable : Byte) (c : Channel) : Channel :=
  if was = true ∧ enable = 0#8 then
    { c with state := .disabled, weight := none, w1 := none, reference := none, motion := 0, faultCount := 0, seqRef := none
             silence := 0, rx := [] }
  else if was = false ∧ enable = 1#8 then { c with state := .empty, weight := none, w1 := none, silence := 0, rx := [] }
  else c

theorem switchChannel_eq {enable : Byte} (h : enable.toNat ≤ 1) (was : Bool) (c : Channel) :
    switchChannel was (enable == 1#8) c = switchedChannel was enable c := by
  rcases byte_le_one h with rfl | rfl <;> cases was <;> rfl

theorem scaleSettingsRequest_eq (p : Port) (scale enable settle timeout empty recovery : Byte) (s : State) :
    scaleSettingsRequest p scale enable settle timeout empty recovery s =
      if s.role p ≠ .office then refuse p .role s
      else if s.mode ≠ .config then refuse p .mode s
      else match scaleOf scale, settingsOf enable settle timeout empty recovery with
        | some sc, some cfg =>
          presented sc (reply p .ok [] (scaleBecomes sc (switchChannel (s.scaleSettings sc).enabled cfg.enabled (s.chan sc))
            (changeSettings (fun t => { t with scales := t.scales.set sc cfg }) s)))
        | _, _ => refuse p .range s := by
  simp only [scaleSettingsRequest, Bool.not_eq_true', isOffice_eq_false_iff, present_eq, updScale_becomes] <;> rfl

/-- Settles O30: the checks, and the settings that the operands name. -/
theorem scaleSettingsAnswers : Obligations.ScaleSettingsAnswers := by
  intro p scale enable settle timeout empty recovery s taking
  have answer := (exec_scaleSettings p scale enable settle timeout empty recovery s).trans (request_taking taking _)
  rw [scaleSettingsRequest_eq, taken_role, taken_mode] at answer
  refine ⟨fun role => ?_, fun role mode => ?_, fun role mode bad => ?_, fun sc role mode named range => ?_⟩
  · rw [answer, if_pos role, refuse_taken]
  · rw [answer, if_neg (not_not_intro role), if_pos mode, refuse_taken]
  · rw [answer, if_neg (not_not_intro role), if_neg (not_not_intro mode), refuse_taken]
    rcases bad with noScale | out
    · rw [noScale]
    · rw [settingsOf_outOfRange out]
      cases scaleOf scale <;> rfl
  · rw [answer, if_neg (not_not_intro role), if_neg (not_not_intro mode), named, settingsOf_inRange range]
    dsimp only
    rw [show (namedSettings enable settle timeout empty recovery).enabled = (enable == 1#8) from rfl, switchChannel_eq range.1]
    rfl

/-! ## CALIBRATE and LOCK CALIBRATION (R20, R22) -/

theorem exec_calibrate (p : Port) (scale : Byte) (zeroSum : Word) (span : Tri) (t1 t2 t3 t4 : Half) (s : State) :
    exec (.calibrate p scale zeroSum span t1 t2 t3 t4) s =
      request p s (calibrate p scale zeroSum span [t1.toNat, t2.toNat, t3.toNat, t4.toNat]) := rfl

theorem exec_lockCalibration (p : Port) (scale : Byte) (s : State) :
    exec (.lockCalibration p scale) s = request p s (lockCalibration p scale) := rfl

theorem calRangeOk_eq_false_iff (sc : Scale) (span : Tri) (trims : List Nat) :
    calRangeOk sc span.toNat trims = false ↔ span = 0 ∨ ∃ t ∈ trims.take (cellCount sc), t < 9000 ∨ 11000 < t := by
  have zero : span.toNat < 1 ↔ span = 0 := by
    rw [Nat.lt_one_iff]
    exact ⟨fun h => BitVec.eq_of_toNat_eq h, fun h => by rw [h]; rfl⟩
  rw [calRangeOk, Bool.and_eq_false_iff, decide_eq_false_iff_not, Nat.not_le, zero, List.all_eq_false]
  simp only [Bool.not_eq_true, Bool.and_eq_false_iff, decide_eq_false_iff_not, Nat.not_le]

theorem calibrate_taken (p : Port) (scale : Byte) (zeroSum : Word) (span : Tri) (trims : List Nat) (s : State) :
    calibrate p scale zeroSum span trims (taken p s) =
      if s.role p ≠ .office then answered p .role [] s
      else if s.mode ≠ .config then answered p .mode [] s
      else match scaleOf scale with
        | none => answered p .range [] s
        | some sc =>
          if span = 0 ∨ ∃ t ∈ trims.take (cellCount sc), t < 9000 ∨ 11000 < t then answered p .range [] s
          else if (s.chan sc).calLocked then answered p .locked [] s
          else if 64 ≤ (s.chan sc).slotsUsed then answered p .counterSpent [] s
          else if s.clockSet = false then answered p .clockUnset [] s
          else if s.calJobs.get sc ≠ none then answered p .state [] s
          else settle ({ taken p s with
            calJobs := s.calJobs.set sc
              (some (.record p ⟨(s.chan sc).calCounter + 1, zeroSum.toInt, span.toNat, trims, s.clock⟩)) }.queueWrite
                (.calRecord sc)) := by
  simp only [calibrate, taken_isOffice, isOffice_eq_false_iff, taken_mode, taken_chan, taken_clockSet, taken_calJobs, refuse_taken,
    Bool.not_eq_true', calRangeOk_eq_false_iff, Option.isSome_iff_ne_none] <;> rfl

theorem lockCalibration_taken (p : Port) (scale : Byte) (s : State) : lockCalibration p scale (taken p s) =
    if s.role p ≠ .office then answered p .role [] s
    else if s.mode ≠ .config then answered p .mode [] s
    else match scaleOf scale with
      | none => answered p .range [] s
      | some sc =>
        if (s.chan sc).calLocked then answered p .locked [] s
        else if (s.chan sc).calCounter = 0 then answered p .state [] s
        else if s.calJobs.get sc ≠ none then answered p .state [] s
        else settle ({ taken p s with calJobs := s.calJobs.set sc (some (.lock p)) }.queueWrite (.calLock sc)) := by
  simp only [lockCalibration, taken_isOffice, isOffice_eq_false_iff, taken_mode, taken_chan, taken_calJobs, refuse_taken,
    Bool.not_eq_true', Nat.lt_one_iff, Option.isSome_iff_ne_none] <;> rfl

/-- Settles O31: both requests by their checks. -/
theorem calibrationRequests : Obligations.CalibrationRequests := by
  intro p scale zeroSum span t1 t2 t3 t4 s taking
  constructor
  · rw [exec_calibrate, request_taking taking, calibrate_taken] <;> rfl
  · rw [exec_lockCalibration, request_taking taking, lockCalibration_taken] <;> rfl

/-! ## The end of a calibration write (R20 to R22, R216) -/

/-- The 20 bytes that a record's check covers. -/
theorem calBytes_eq (r : CalRecord) {t1 t2 t3 t4 : Nat} (trims : r.trims = [t1, t2, t3, t4]) :
    let fields := be 1 r.sequence ++ beInt 4 r.zeroSum ++ be 3 r.span ++ be 2 t1 ++ be 2 t2 ++ be 2 t3 ++ be 2 t4 ++ be 4 r.time
    calBytes r = fields ++ be 2 ((fields.map BitVec.toNat).sum % 65536) ∧ (calBytes r).length = 22 := by
  intro fields
  have body : be 1 r.sequence ++ beInt 4 r.zeroSum ++ be 3 r.span ++ r.trims.flatMap (be 2) ++ be 4 r.time = fields := by
    rw [trims]
    simp only [fields, List.flatMap_cons, List.flatMap_nil, List.append_nil, List.append_assoc]
  have whole : calBytes r = fields ++ be 2 ((fields.map BitVec.toNat).sum % 65536) := by
    rw [calBytes, body, byteSum_eq, show 256 ^ 2 = 65536 from rfl]
  refine ⟨whole, ?_⟩
  rw [whole]
  simp only [fields, List.length_append, length_be, beInt]

theorem goLive_eq (r : CalRecord) (c : Channel) : goLive r c = { c with
    calCounter := c.calCounter + 1, live := some r, zeroOffset := 0, weight := none, w1 := none, reference := none, motion := 0
    state := match c.state with | .fault => .fault | .disabled => .disabled | _ => .empty } := by
  unfold goLive
  cases c.state <;> simp

/-- A presentation leaves the calibration counter. -/
theorem presented_calCounter (sc : Scale) (s : State) : ((presented sc s).chan sc).calCounter = (s.chan sc).calCounter := by
  unfold presented
  dsimp only
  split
  · rfl
  · split
    · exact (congrArg Channel.calCounter (PerScale.get_set_same s.channels sc _) :)
    · split
      · exact (congrArg Channel.calCounter (PerScale.get_set_same s.channels sc _) :)
      · split
        · exact (congrArg Channel.calCounter (PerScale.get_set_same s.channels sc _) :)
        · rfl

/-- The state when a calibration operation has ended in the array. -/
def calEnded (sc : Scale) (a : CalArea) (s : State) : State := { s with
  cal := s.cal.set sc a, calJobs := s.calJobs.set sc none, engine := { s.engine with current := none } }

theorem recordWritten_eq (sc : Scale) (p : Port) (r : CalRecord) (cells : Cells) (s : State) : recordWritten sc p r cells s =
    let after := memProgramVerify (s.cal.get sc).slots (32 * ((s.chan sc).nextSlot - 1)) (calBytes r) cells
    let u := calEnded sc { s.cal.get sc with slots := after.1 } s
    if after.2 then
      settle (reply p .ok (be 1 ((s.chan sc).calCounter + 1)) (presented sc (scaleBecomes sc (goLive r (s.chan sc)) u)))
    else settle (reply p .media [] (setFault .storeMedia (.calArea sc) u)) := by
  have counter (u : State) : ((presented sc (scaleBecomes sc (goLive r (s.chan sc)) u)).chan sc).calCounter =
      (s.chan sc).calCounter + 1 := by
    rw [presented_calCounter, scaleBecomes, State.chan, PerScale.get_set_same, goLive_eq]
  rw [recordWritten]
  simp only [present_eq, updScale_becomes]
  rw [← counter]
  rfl

theorem execRecordWritten_next {sc : Scale} {cells : Cells} {p : Port} {r : CalRecord} {s : State} (powered : s.powered = true)
    (current : s.engine.current = some (.calRecord sc)) (job : s.calJobs.get sc = some (.record p r)) :
    exec (.calibrationRecordWritten sc cells) s = .next (recordWritten sc p r cells s) := by
  refine (exec_calibrationRecordWritten ..).trans ((event_powered powered _).trans ?_)
  rw [current, job]
  exact congrArg _ (if_pos rfl)

theorem execLockWritten_next {sc : Scale} {cells : Cells} {p : Port} {s : State} (powered : s.powered = true)
    (current : s.engine.current = some (.calLock sc)) (job : s.calJobs.get sc = some (.lock p)) :
    exec (.calibrationLockWritten sc cells) s = .next (lockWritten sc p cells s) := by
  refine (exec_calibrationLockWritten ..).trans ((event_powered powered _).trans ?_)
  rw [current, job]
  exact congrArg _ (if_pos rfl)

theorem lockWritten_eq (sc : Scale) (p : Port) (cells : Cells) (s : State) : lockWritten sc p cells s =
    let b := (s.cal.get sc).lock &&& cells.stuck.headD 0#8 &&& ~~~(cells.lost.headD 0#8)
    let u := calEnded sc { s.cal.get sc with lock := b } s
    if b ≠ 0xFF#8 then settle (reply p .ok [] (u.updChan sc (fun c => { c with calLocked := true })))
    else settle (reply p .media [] (setFault .storeMedia (.calLock sc) u)) := by
  rw [lockWritten, lockByte_eq]
  rfl

/-- Settles O32: the two ends, by the read-back. -/
theorem calibrationWritesEnd : Obligations.CalibrationWritesEnd := by
  refine ⟨fun r t1 t2 t3 t4 trims => calBytes_eq r trims, fun sc cells p r s powered => ⟨fun current job => ?_,
    fun current job => ?_⟩⟩
  · have next := execRecordWritten_next (cells := cells) powered current job
    rw [recordWritten_eq] at next
    refine ⟨fun good => ?_, fun failed => ?_⟩
    · rw [next, if_pos good, goLive_eq]
      rfl
    · rw [next, if_neg (by rw [failed]; exact Bool.false_ne_true)]
      rfl
  · have next := execLockWritten_next (cells := cells) powered current job
    rw [lockWritten_eq] at next
    exact ⟨fun set => next.trans (congrArg _ (if_pos set)), fun blank => next.trans (congrArg _ (if_neg (not_not_intro blank)))⟩

end Sys2Proof.Machine
end

section
/-! PROOFS. WEIGH, CANCEL WEIGH and the capture timeout (R27, R43, R68 to R70, R75, R76, R78, R181, R209 to R212). -/

namespace Sys2Proof.Machine

/-! ## Codes and operands (R181, R209 to R211) -/

theorem scaleOf_iff (b : Byte) (sc : Scale) : scaleOf b = some sc ↔ b.toNat = scaleCode sc := by
  simp only [scaleOf, BitVec.toNat_eq, BitVec.toNat_ofNat, Nat.reducePow, Nat.reduceMod]
  cases sc <;> split_ifs <;> simp [scaleCode] <;> omega

theorem portOf_iff (b : Byte) (p : Port) : portOf b = some p ↔ b.toNat = portCode p := by
  simp only [portOf, BitVec.toNat_eq, BitVec.toNat_ofNat, Nat.reducePow, Nat.reduceMod]
  cases p <;> split_ifs <;> simp [portCode] <;> omega

theorem roleOf_iff (b : Byte) (r : Role) : roleOf b = some r ↔ b.toNat = roleCode r := by
  simp only [roleOf, BitVec.toNat_eq, BitVec.toNat_ofNat, Nat.reducePow, Nat.reduceMod]
  cases r <;> split_ifs <;> simp [roleCode] <;> omega

theorem weighKindOf_iff (b : Byte) (k : CaptureKind) : weighKindOf b = some k ↔ b.toNat = captureCode k ∧ k ≠ .storeTare := by
  simp only [weighKindOf, BitVec.toNat_eq, BitVec.toNat_ofNat, Nat.reducePow, Nat.reduceMod]
  cases k <;> split_ifs <;> simp [captureCode] <;> omega

theorem printable_iff (b : Byte) : printable b = true ↔ 0x20 ≤ b.toNat ∧ b.toNat ≤ 0x7E := by
  rw [printable, Bool.and_eq_true, decide_eq_true_eq, decide_eq_true_eq]

theorem idOk_iff (lo hi : Nat) (text : List Byte) : idOk lo hi text = true ↔
    lo ≤ text.length ∧ text.length ≤ hi ∧ ∀ b ∈ text, 0x20 ≤ b.toNat ∧ b.toNat ≤ 0x7E := by
  rw [idOk, Bool.and_eq_true, Bool.and_eq_true, decide_eq_true_eq, decide_eq_true_eq, List.all_eq_true, and_assoc]
  simp only [printable_iff]

theorem maskAdmits_iff (p : Port) (scale : Byte) (s : State) : s.maskAdmits p scale = true ↔ s.role p = .office ∨
    (s.role p = .scale ∧ ∃ sc, scaleOf scale = some sc ∧ (s.portSettings p).scaleMask.getLsbD (scaleCode sc - 1) = true) := by
  rw [State.maskAdmits, Bool.or_eq_true, State.isOffice, beq_iff_eq, Bool.and_eq_true, beq_iff_eq]
  cases scaleOf scale with
  | none => simp
  | some sc => simp [scaleBit]

theorem claimedByOther_iff (p : Port) (t : Ticket) : claimedByOther p t = true ↔ ∃ c, t.claim = some c ∧ c.port ≠ p := by
  rw [claimedByOther]
  cases t.claim with
  | none => simp
  | some c => simp

theorem lineFits_iff (t : Ticket) (g : Nat) : lineFits t g = true ↔ (∃ l ∈ t.lines, l.grade = g) ∨ t.lines.length < 8 := by
  rw [lineFits, Bool.or_eq_true, List.any_eq_true, decide_eq_true_eq]
  simp only [beq_iff_eq]

theorem ticketRestricted_iff (s : State) (t : Ticket) :
    s.ticketRestricted t = true ↔ ∃ l ∈ t.lines, (s.grade l.grade).restricted = true := List.any_eq_true

theorem restrictedClose_iff (s : State) (t : Ticket) (g : Nat) : restrictedClose s t g = true ↔
    (s.grade g).restricted = true ∨ ∃ l ∈ t.lines, (s.grade l.grade).restricted = true := by
  rw [restrictedClose, Bool.or_eq_true, ticketRestricted_iff]
  rfl

/-! ## Requests on a ticket (R43) -/

/-- A request on a ticket answers as R43 says, or goes on with the ticket found. -/
theorem withTicket_taken (p : Port) (n : Half) (f : Ticket → State → State) (s : State) :
    withTicket p n f (taken p s) = onTicket p n s (fun t => f t (taken p s)) := by
  rw [withTicket, taken_namedTicket, State.namedTicket, onTicket]
  by_cases range : n.toNat = 0 ∨ 9999 < n.toNat
  · rw [if_pos range, if_pos range, ← refuse_taken]
  · rw [if_neg range, if_neg range]
    cases s.ticket n.toNat with
    | none => rfl
    | some t => rfl

/-! ## The checks of WEIGH (R68) -/

theorem notClaimed_eq_false_iff (p : Port) (t : Ticket) : (!claimedByOther p t) = false ↔ claimedByOther p t = true := by
  rw [Bool.not_eq_false']

theorem isNone_eq_false_iff {α : Type} (o : Option α) : o.isNone = false ↔ o ≠ none := by cases o <;> simp

theorem stateAgrees_eq_false_iff (k : CaptureKind) (t : Ticket) : stateAgrees k t = false ↔
    (k = .gross ∧ t.state ≠ .opened) ∨ (k ≠ .gross ∧ t.state ≠ .onYard) := by
  rw [stateAgrees]
  split
  · rename_i gross
    simp [gross]
  · rename_i other
    simp [other]

theorem weighable_eq_false_iff (c : Channel) :
    weighable c = false ↔ c.state = .disabled ∨ c.state = .fault ∨ c.live = none := by
  rw [weighable, Bool.and_eq_false_iff, Bool.and_eq_false_iff, bne_eq_false_iff_eq, bne_eq_false_iff_eq,
    Option.isSome_eq_false_iff, Option.isNone_iff_eq_none, or_assoc]

theorem weighingFits_eq_false_iff (k : CaptureKind) (t : Ticket) :
    weighingFits k t = false ↔ (if k = .drop then 9 else 10) ≤ t.weighings.length := by
  rw [weighingFits]
  split <;> simp

theorem namesGrade_iff (k : CaptureKind) : namesGrade k = true ↔ k = .drop ∨ k = .tare := by
  rw [namesGrade, Bool.or_eq_true, beq_iff_eq, beq_iff_eq]

/-- A check that only a kind which names a grade must pass. -/
theorem namedCheck_eq_false_iff {ok : Bool} {bad : Prop} (h : ok = false ↔ bad) (k : CaptureKind) :
    (!namesGrade k || ok) = false ↔ (k = .drop ∨ k = .tare) ∧ bad := by
  rw [Bool.or_eq_false_iff, Bool.not_eq_false', namesGrade_iff, h]

/-- A check that only a close of restricted goods must pass. -/
theorem restrictedCheck_eq_false_iff {ok : Bool} {bad : Prop} (h : ok = false ↔ bad) (k : CaptureKind) (r : Bool) :
    (!(k == .tare && r) || ok) = false ↔ k = .tare ∧ r = true ∧ bad := by
  rw [Bool.or_eq_false_iff, Bool.not_eq_false', Bool.and_eq_true, beq_iff_eq, h, and_assoc]

theorem isSome_eq_false_iff_none {α : Type} (o : Option α) : o.isSome = false ↔ o = none := by cases o <;> simp

/-- WEIGH on a ticket, by the checks 4 to 13 of R68. -/
theorem weighTicket_eq (p : Port) (sc : Scale) (k : CaptureKind) (g : Nat) (t : Ticket) (s : State) : weighTicket p sc k g t s =
    if claimedByOther p t = true then refuse p .claimed s
    else if (k = .gross ∧ t.state ≠ .opened) ∨ (k ≠ .gross ∧ t.state ≠ .onYard) then refuse p .state s
    else if t.capture ≠ none then refuse p .capturePending s
    else if scaleClass sc ≠ t.cls then refuse p .cls s
    else if (s.chan sc).capture ≠ none then refuse p .scaleBusy s
    else if (s.chan sc).state = .disabled ∨ (s.chan sc).state = .fault ∨ (s.chan sc).live = none then refuse p .scaleState s
    else if (if k = .drop then 9 else 10) ≤ t.weighings.length then refuse p .weighingsFull s
    else if (k = .drop ∨ k = .tare) ∧ ¬ ((s.grade g).defined ∧ (s.grade g).active) then refuse p .grade s
    else if (k = .drop ∨ k = .tare) ∧ lineFits t g = false then refuse p .linesFull s
    else if k = .tare ∧ restrictedClose s t g = true ∧ t.seller = none then refuse p .sellerIdRequired s
    else if k = .tare ∧ restrictedClose s t g = true ∧ s.clockSet = false then refuse p .clockUnset s
    else armCapture p sc (newCapture s sc k (some t.number) none (if namesGrade k then some g else none) p) s := by
  rw [weighTicket, guarded_cons_of_iff (notClaimed_eq_false_iff p t), guarded_cons_of_iff (stateAgrees_eq_false_iff k t),
    guarded_cons_of_iff (isNone_eq_false_iff t.capture), guarded_cons_of_iff beq_eq_false_iff_ne,
    guarded_cons_of_iff (isNone_eq_false_iff _), guarded_cons_of_iff (weighable_eq_false_iff _),
    guarded_cons_of_iff (weighingFits_eq_false_iff k t),
    guarded_cons_of_iff (namedCheck_eq_false_iff (gradeActive_eq_false_iff s g) k),
    guarded_cons_of_iff (namedCheck_eq_false_iff Iff.rfl k),
    guarded_cons_of_iff (restrictedCheck_eq_false_iff (isSome_eq_false_iff_none t.seller) k (restrictedClose s t g)),
    guarded_cons_of_iff (restrictedCheck_eq_false_iff Iff.rfl k (restrictedClose s t g)), guarded_nil]

/-! ## WEIGH (R68 to R70) -/

theorem exec_weigh (p : Port) (scale kind : Byte) (n : Half) (grade : Byte) (s : State) :
    exec (.weigh p scale kind n grade) s = request p s (weigh p scale kind n grade) := rfl

theorem exec_weighStoreTare (p : Port) (scale : Byte) (vehicle : List Byte) (s : State) :
    exec (.weighStoreTare p scale vehicle) s = request p s (weighStoreTare p scale vehicle) := rfl

theorem weigh_eq (p : Port) (scale kind : Byte) (n : Half) (grade : Byte) (s : State) : weigh p scale kind n grade s =
    if s.maskAdmits p scale = false then refuse p .role s
    else if s.mode ≠ .run then refuse p .mode s
    else match scaleOf scale, weighKindOf kind with
      | some sc, some k =>
        if (k = .drop ∨ k = .tare) ∧ (grade.toNat = 0 ∨ 64 < grade.toNat) then refuse p .range s
        else withTicket p n (weighTicket p sc k grade.toNat) s
      | _, _ => refuse p .range s := by
  rw [weigh, guarded_cons_of_iff Iff.rfl, guarded_cons_of_iff (isRun_eq_false_iff s), guarded_nil]
  cases scaleOf scale with
  | none => rfl
  | some sc => cases weighKindOf kind with
    | none => rfl
    | some k =>
      dsimp only
      rw [guarded_cons_of_iff (namedCheck_eq_false_iff (gradeOk_eq_false_iff grade) k), guarded_nil]

/-- An armed capture of a ticket. -/
theorem armCapture_ticket (p : Port) (sc : Scale) (k : CaptureKind) (g : Nat) (t : Ticket) (s : State) :
    armCapture p sc (newCapture s sc k (some t.number) none (if namesGrade k then some g else none) p) s =
      reply p .armed [] ((s.updChan sc (fun c => { c with capture := some ⟨k, some t.number, none,
        if k = .drop ∨ k = .tare then some g else none, p, s.clock, (s.scaleSettings sc).timeout,
        (s.chan sc).state == .moving || (s.chan sc).state == .overload⟩ })).updTicket t.number
          (fun r => { r with capture := some sc })) := by
  simp only [namesGrade_iff]
  rfl

theorem weighStoreTare_eq (p : Port) (scale : Byte) (vehicle : List Byte) (s : State) : weighStoreTare p scale vehicle s =
    if s.maskAdmits p scale = false then refuse p .role s
    else if s.mode ≠ .run then refuse p .mode s
    else if idOk 1 10 vehicle = false then refuse p .range s
    else match scaleOf scale with
      | none => refuse p .range s
      | some sc =>
        if (s.chan sc).capture ≠ none then refuse p .scaleBusy s
        else if (s.chan sc).state = .disabled ∨ (s.chan sc).state = .fault ∨ (s.chan sc).live = none then
          refuse p .scaleState s
        else armCapture p sc (newCapture s sc .storeTare none (some vehicle) none p) s := by
  rw [weighStoreTare, guarded_cons_of_iff Iff.rfl, guarded_cons_of_iff (isRun_eq_false_iff s), guarded_cons_of_iff Iff.rfl,
    guarded_nil]
  cases scaleOf scale with
  | none => rfl
  | some sc =>
    dsimp only
    rw [guarded_cons_of_iff (isNone_eq_false_iff _), guarded_cons_of_iff (weighable_eq_false_iff _), guarded_nil]

theorem weigh_answers (p : Port) (scale kind : Byte) (n : Half) (grade : Byte) (s : State) (taking : Taking p s) :
    exec (.weigh p scale kind n grade) s = .next (
      if s.maskAdmits p scale = false then answered p .role [] s
      else if s.mode ≠ .run then answered p .mode [] s
      else match scaleOf scale, weighKindOf kind with
        | some sc, some k =>
          let g := grade.toNat
          let named := k = .drop ∨ k = .tare
          if named ∧ (g = 0 ∨ 64 < g) then answered p .range [] s
          else onTicket p n s (fun t =>
            if claimedByOther p t then answered p .claimed [] s
            else if (k = .gross ∧ t.state ≠ .opened) ∨ (k ≠ .gross ∧ t.state ≠ .onYard) then answered p .state [] s
            else if t.capture ≠ none then answered p .capturePending [] s
            else if scaleClass sc ≠ t.cls then answered p .cls [] s
            else if (s.chan sc).capture ≠ none then answered p .scaleBusy [] s
            else if (s.chan sc).state = .disabled ∨ (s.chan sc).state = .fault ∨ (s.chan sc).live = none then
              answered p .scaleState [] s
            else if (if k = .drop then 9 else 10) ≤ t.weighings.length then answered p .weighingsFull [] s
            else if named ∧ ¬ ((s.grade g).defined ∧ (s.grade g).active) then answered p .grade [] s
            else if named ∧ lineFits t g = false then answered p .linesFull [] s
            else if k = .tare ∧ restrictedClose s t g ∧ t.seller = none then answered p .sellerIdRequired [] s
            else if k = .tare ∧ restrictedClose s t g ∧ s.clockSet = false then answered p .clockUnset [] s
            else
              let capture : Capture := ⟨k, some t.number, none, if named then some g else none, p, s.clock,
                (s.scaleSettings sc).timeout, (s.chan sc).state == .moving || (s.chan sc).state == .overload⟩
              reply p .armed [] (((taken p s).updChan sc (fun c => { c with capture := some capture })).updTicket t.number
                (fun r => { r with capture := some sc })))
        | _, _ => answered p .range [] s) := by
  rw [exec_weigh, request_taking taking, weigh_eq, taken_maskAdmits, taken_mode]
  cases scaleOf scale with
  | none => rfl
  | some sc => cases weighKindOf kind with
    | none => rfl
    | some k =>
      have restricted (t : Ticket) (g : Nat) : restrictedClose (taken p s) t g = restrictedClose s t g := rfl
      simp only [withTicket_taken, weighTicket_eq, armCapture_ticket, taken_chan, taken_grade, taken_clockSet, taken_clock,
        taken_scaleSettings, restricted, refuse_taken]

theorem weighStoreTare_answers (p : Port) (scale : Byte) (vehicle : List Byte) (s : State) (taking : Taking p s) :
    exec (.weighStoreTare p scale vehicle) s = .next (
      if s.maskAdmits p scale = false then answered p .role [] s
      else if s.mode ≠ .run then answered p .mode [] s
      else match scaleOf scale with
        | none => answered p .range [] s
        | some sc =>
          if idOk 1 10 vehicle = false then answered p .range [] s
          else if (s.chan sc).capture ≠ none then answered p .scaleBusy [] s
          else if (s.chan sc).state = .disabled ∨ (s.chan sc).state = .fault ∨ (s.chan sc).live = none then
            answered p .scaleState [] s
          else
            let capture : Capture := ⟨.storeTare, none, some vehicle, none, p, s.clock, (s.scaleSettings sc).timeout,
              (s.chan sc).state == .moving || (s.chan sc).state == .overload⟩
            reply p .armed [] ((taken p s).updChan sc (fun c => { c with capture := some capture }))) := by
  rw [exec_weighStoreTare, request_taking taking, weighStoreTare_eq, taken_maskAdmits, taken_mode]
  cases scaleOf scale with
  | none =>
    simp only [refuse_taken, ite_self]
  | some sc =>
    simp only [taken_chan, refuse_taken] <;> rfl

/-- Settles O33: the operands, and the two requests by their checks. -/
theorem weighArmsACapture : Obligations.WeighArmsACapture :=
  ⟨fun b => ⟨scaleOf_iff b, portOf_iff b, roleOf_iff b, weighKindOf_iff b⟩, idOk_iff, maskAdmits_iff, claimedByOther_iff,
    lineFits_iff, fun s t g => ⟨ticketRestricted_iff s t, restrictedClose_iff s t g⟩, weigh_answers, weighStoreTare_answers⟩

/-! ## CANCEL WEIGH and the capture timeout (R75, R76, R78) -/

theorem exec_cancelWeigh (p : Port) (scale : Byte) (s : State) : exec (.cancelWeigh p scale) s = request p s (cancelWeigh p scale) :=
  rfl

theorem cancelWeigh_eq (p : Port) (scale : Byte) (s : State) : cancelWeigh p scale s =
    if s.maskAdmits p scale = false then refuse p .role s
    else if s.mode = .starting then refuse p .mode s
    else match scaleOf scale with
      | none => refuse p .range s
      | some sc =>
        match (s.chan sc).capture with
        | none => refuse p .state s
        | some k =>
          if k.port ≠ p ∧ s.role p ≠ .office then refuse p .role s
          else drainTest (reply p .ok (cancelData k) (failCapture sc k .cancelled none s)) := by
  rw [cancelWeigh, guarded_cons_of_iff Iff.rfl, guarded_cons_of_iff (started_eq_false_iff s), guarded_nil]
  cases scaleOf scale with
  | none => rfl
  | some sc =>
    dsimp only
    cases (s.chan sc).capture with
    | none => rfl
    | some k =>
      have own : (k.port == p || s.isOffice p) = false ↔ k.port ≠ p ∧ s.role p ≠ .office := by
        rw [Bool.or_eq_false_iff, beq_eq_false_iff_ne, isOffice_eq_false_iff]
      dsimp only
      rw [guarded_cons_of_iff own, guarded_nil]

/-- Settles O34: the notice, CANCEL WEIGH by its checks, and the timeout. -/
theorem capturesEnd : Obligations.CapturesEnd := by
  refine ⟨fun sc k r w time => rfl, rfl, fun p scale s taking => ?_, fun sc s powered => ?_, fun sc k s => ⟨?_, fun n named t found => ?_,
    removeCapture_eq sc k s⟩⟩
  · have answer := (exec_cancelWeigh p scale s).trans (request_taking taking _)
    rw [cancelWeigh_eq, taken_maskAdmits, taken_mode] at answer
    refine ⟨fun mask => ?_, fun mask mode => ?_, fun mask mode noScale => ?_, fun sc mask mode named => ?_⟩
    · rw [answer, if_pos mask, refuse_taken]
    · rw [answer, if_neg (by simp [mask]), if_pos mode, refuse_taken]
    · rw [answer, if_neg (by simp [mask]), if_neg mode, noScale, ← refuse_taken]
    · rw [if_neg (by simp [mask]), if_neg mode, named] at answer
      refine ⟨fun idle => ?_, fun k armed => ⟨fun other role => ?_, fun own => ?_⟩⟩
      · rw [answer, ← refuse_taken]
        dsimp only
        rw [taken_chan, idle]
      · rw [answer]
        dsimp only
        rw [taken_chan, armed]
        exact congrArg _ (if_pos ⟨other, role⟩)
      · rw [answer]
        dsimp only
        rw [taken_chan, armed]
        exact congrArg _ (if_neg (fun h => own.elim h.1 h.2))
  · refine (exec_captureTimeout sc s).trans ((event_powered powered _).trans ?_)
    rw [failArmed]
    cases (s.chan sc).capture <;> rfl
  · rw [removeCapture_eq]
    exact congrArg Channel.capture (PerScale.get_set_same ..)
  · rw [removeCapture_eq, State.ticket] at found
    dsimp only [capturesCleared] at found
    rw [named] at found
    dsimp only at found
    rw [find_map_ticket (fun t => by split <;> rfl)] at found
    obtain ⟨u, at', rfl⟩ := Option.map_eq_some_iff.mp found
    have number : u.number = n := (ticket_some (s := s) at').2
    rw [if_pos number]

end Sys2Proof.Machine
end

section
/-! PROOFS. OPEN TICKET, SET VEHICLE, SET SELLER and DOCK LINE (R40, R45 to R47, R50). -/

namespace Sys2Proof.Machine

/-! ## OPEN TICKET (R40, R45) -/

theorem exec_openTicket (p : Port) (cls : Byte) (vehicle : List Byte) (s : State) :
    exec (.openTicket p cls vehicle) s = request p s (openTicket p cls vehicle) := rfl

theorem classOf_eq_none_iff (cls : Byte) : classOf cls = none ↔ cls ≠ 1#8 ∧ cls ≠ 2#8 := by
  rw [classOf]
  split_ifs <;> simp_all

theorem openCheck_eq_false_iff (cls : Byte) (vehicle : List Byte) :
    ((classOf cls).isSome && idOk 0 10 vehicle) = false ↔ (cls ≠ 1#8 ∧ cls ≠ 2#8) ∨ idOk 0 10 vehicle = false := by
  rw [Bool.and_eq_false_iff, isSome_eq_false_iff_none, classOf_eq_none_iff]

theorem optionalId_eq (t : List Byte) : optionalId t = if t = [] then none else some t := by
  rw [optionalId]
  cases t <;> rfl

theorem openTicket_eq (p : Port) (cls : Byte) (vehicle : List Byte) (s : State) : openTicket p cls vehicle s =
    if s.role p ≠ .scale ∧ s.role p ≠ .office then refuse p .role s
    else if s.mode ≠ .run then refuse p .mode s
    else if (cls ≠ 1#8 ∧ cls ≠ 2#8) ∨ idOk 0 10 vehicle = false then refuse p .range s
    else if 48 ≤ s.tickets.length then refuse p .tableFull s
    else reply p .ok (be 2 s.openNumber) { s with
      tickets := s.tickets ++ [newTicket s.openNumber ((classOf cls).getD .bridge) p s.clock (optionalId vehicle)]
      nextTicket := nextNumber s.openNumber } := by
  rw [openTicket, guarded_cons_of_iff (isScaleOrOffice_eq_false_iff s p), guarded_cons_of_iff (isRun_eq_false_iff s),
    guarded_cons_of_iff (openCheck_eq_false_iff cls vehicle),
    guarded_cons_of_iff (bad := 48 ≤ s.tickets.length) (by simp), guarded_nil]

/-- The class of a code that passes the check. -/
theorem classOf_inRange {cls : Byte} (h : ¬ (cls ≠ 1#8 ∧ cls ≠ 2#8)) :
    (classOf cls).getD .bridge = if cls = 1#8 then .bridge else .platform := by
  rw [classOf]
  by_cases one : cls = 1#8
  · rw [if_pos one, if_pos one]
    rfl
  · have two : cls = 2#8 := by
      by_contra other
      exact h ⟨one, other⟩
    rw [if_neg one, if_neg one, if_pos two]
    rfl

/-- The number a count of steps after another. -/
def numberAfter (n k : Nat) : Nat := (n - 1 + k) % 9999 + 1

theorem numberAfter_zero {n : Nat} (low : 1 ≤ n) (high : n ≤ 9999) : numberAfter n 0 = n := by
  unfold numberAfter
  omega

theorem nextNumber_numberAfter (n k : Nat) : nextNumber (numberAfter n k) = numberAfter n (k + 1) := by
  unfold numberAfter nextNumber
  split <;> omega

/-- A search passes the numbers in use, and ends at the first that is free. -/
theorem searchNumber_spec (s : State) (n : Nat) (fuel k : Nat) :
    ∃ j, k ≤ j ∧ j ≤ k + fuel ∧ searchNumber s fuel (numberAfter n k) = numberAfter n j ∧
      (∀ i, k ≤ i → i < j → s.ticket (numberAfter n i) ≠ none) ∧ (j < k + fuel → s.ticket (numberAfter n j) = none) := by
  induction fuel generalizing k with
  | zero => exact ⟨k, Nat.le_refl k, Nat.le_refl k, rfl, fun i _ _ => by omega, fun h => by omega⟩
  | succ fuel ih =>
    by_cases used : (s.ticket (numberAfter n k)).isSome = true
    · obtain ⟨j, from', upTo, found, passed, free⟩ := ih (k + 1)
      refine ⟨j, by omega, by omega, ?_, fun i le lt => ?_, fun lt => free (by omega)⟩
      · rw [searchNumber, if_pos used, nextNumber_numberAfter, found]
      · rcases Nat.eq_or_lt_of_le le with rfl | later
        · exact Option.isSome_iff_ne_none.mp used
        · exact passed i later lt
    · refine ⟨k, Nat.le_refl k, by omega, ?_, fun i _ _ => by omega, fun _ => ?_⟩
      · rw [searchNumber, if_neg used]
      · exact Option.not_isSome_iff_eq_none.mp used

theorem numberAfter_inj {n i j : Nat} (hi : i < 9999) (hj : j < 9999) (h : numberAfter n i = numberAfter n j) : i = j := by
  unfold numberAfter at h
  omega

/-- The tickets in use carry every number that a search has passed: it passes no more numbers than there are tickets. -/
theorem passed_le_tickets {s : State} {n j : Nat} (small : j ≤ 9999)
    (passed : ∀ i, i < j → s.ticket (numberAfter n i) ≠ none) : j ≤ s.tickets.length := by
  have inUse : (List.range j).map (numberAfter n) ⊆ s.tickets.map (·.number) := by
    intro m mem
    obtain ⟨i, lt, rfl⟩ := List.mem_map.mp mem
    obtain ⟨t, found⟩ := Option.ne_none_iff_exists'.mp (passed i (List.mem_range.mp lt))
    obtain ⟨present, number⟩ := ticket_some found
    exact List.mem_map.mpr ⟨t, present, number⟩
  have distinct : ((List.range j).map (numberAfter n)).Nodup := by
    refine (List.nodup_map_iff_inj_on List.nodup_range).mpr fun a ha b hb same => ?_
    have := List.mem_range.mp ha
    have := List.mem_range.mp hb
    exact numberAfter_inj (by omega) (by omega) same
  have := (distinct.subperm inUse).length_le
  simpa using this

/-- The number that OPEN TICKET gives is the first that is free. -/
theorem openNumber_spec {s : State} (low : 1 ≤ s.nextTicket) (high : s.nextTicket ≤ 9999) (room : s.tickets.length ≤ 47) :
    ∃ k, k ≤ 47 ∧ s.openNumber = numberAfter s.nextTicket k ∧ s.ticket s.openNumber = none ∧
      ∀ j, j < k → s.ticket (numberAfter s.nextTicket j) ≠ none := by
  obtain ⟨j, -, upTo, found, passed, free⟩ := searchNumber_spec s s.nextTicket 48 0
  rw [numberAfter_zero low high] at found
  have few := passed_le_tickets (s := s) (n := s.nextTicket) (j := j) (by omega) fun i lt => passed i (Nat.zero_le i) lt
  refine ⟨j, by omega, found, ?_, fun i lt => passed i (Nat.zero_le i) lt⟩
  rw [show s.openNumber = numberAfter s.nextTicket j from found]
  exact free (by omega)

/-- Settles O35: the checks, and the search of a number. -/
theorem openTicketAnswers : Obligations.OpenTicketAnswers := by
  refine ⟨fun p cls vehicle s taking => ?_, fun s low high room => openNumber_spec low high room⟩
  have answer := (exec_openTicket p cls vehicle s).trans (request_taking taking _)
  have number : (taken p s).openNumber = s.openNumber := rfl
  rw [openTicket_eq, taken_role, taken_mode, taken_tickets, number, refuse_taken, refuse_taken, refuse_taken, refuse_taken,
    optionalId_eq] at answer
  rw [answer]
  by_cases bad : (cls ≠ 1#8 ∧ cls ≠ 2#8) ∨ idOk 0 10 vehicle = false
  · rw [if_pos bad, if_pos bad]
  · rw [if_neg bad, if_neg bad, classOf_inRange (fun h => bad (.inl h))]
    rfl

/-! ## SET VEHICLE, SET SELLER and DOCK LINE (R46, R47, R50) -/

theorem exec_setVehicle (p : Port) (n : Half) (vehicle : List Byte) (s : State) :
    exec (.setVehicle p n vehicle) s = request p s (setVehicle p n vehicle) := rfl

theorem exec_setSeller (p : Port) (n : Half) (seller : List Byte) (s : State) :
    exec (.setSeller p n seller) s = request p s (setSeller p n seller) := rfl

theorem exec_dockLine (p : Port) (n : Half) (grade : Byte) (dock : Word) (s : State) :
    exec (.dockLine p n grade dock) s = request p s (dockLine p n grade dock) := rfl

theorem inYard_eq_false_iff (t : Ticket) : inYard t = false ↔ t.state ≠ .opened ∧ t.state ≠ .onYard := by
  rw [inYard, Bool.or_eq_false_iff, beq_eq_false_iff_ne, beq_eq_false_iff_ne]

theorem setVehicle_taken (p : Port) (n : Half) (vehicle : List Byte) (s : State) : setVehicle p n vehicle (taken p s) =
    if s.role p ≠ .scale ∧ s.role p ≠ .office then answered p .role [] s
    else if s.mode = .starting then answered p .mode [] s
    else if idOk 0 10 vehicle = false then answered p .range [] s
    else onTicket p n s (fun t =>
      if claimedByOther p t then answered p .claimed [] s
      else if t.state ≠ .opened ∧ t.state ≠ .onYard then answered p .state [] s
      else reply p .ok [] ((taken p s).updTicket t.number
        (fun r => { r with vehicle := if vehicle = [] then none else some vehicle }))) := by
  rw [setVehicle, guarded_cons_of_iff (isScaleOrOffice_eq_false_iff _ p), guarded_cons_of_iff (started_eq_false_iff _),
    guarded_cons_of_iff Iff.rfl, guarded_nil, withTicket_taken]
  simp only [guarded_cons_of_iff (notClaimed_eq_false_iff p _), guarded_cons_of_iff (inYard_eq_false_iff _), guarded_nil,
    optionalId_eq, refuse_taken, taken_role, taken_mode]

theorem notCommitting_eq_false_iff (t : Ticket) : (t.state != .committing) = false ↔ t.state = .committing := bne_eq_false_iff_eq

theorem setSeller_taken (p : Port) (n : Half) (seller : List Byte) (s : State) : setSeller p n seller (taken p s) =
    if s.role p = .view then answered p .role [] s
    else if s.mode = .starting then answered p .mode [] s
    else if idOk 1 16 seller = false then answered p .range [] s
    else onTicket p n s (fun t =>
      if claimedByOther p t then answered p .claimed [] s
      else if t.state = .committing then answered p .state [] s
      else reply p .ok [] ((taken p s).updTicket t.number (fun r => { r with seller := some seller }))) := by
  rw [setSeller, guarded_cons_of_iff (notView_eq_false_iff _ p), guarded_cons_of_iff (started_eq_false_iff _),
    guarded_cons_of_iff Iff.rfl, guarded_nil, withTicket_taken]
  simp only [guarded_cons_of_iff (notClaimed_eq_false_iff p _), guarded_cons_of_iff (notCommitting_eq_false_iff _), guarded_nil,
    refuse_taken, taken_role, taken_mode]

theorem notOnYard_eq_false_iff (t : Ticket) : (t.state == .onYard) = false ↔ t.state ≠ .onYard := beq_eq_false_iff_ne

/-- DOCK LINE on a ticket that no other port has claimed and that stands in the yard. -/
theorem dockLine_checks (p : Port) (g dock : Nat) (t : Ticket) (s : State) :
    guarded p [((lineOf t g).isSome, .grade), (decide (dock ≤ netOf t g) && dock % classDivision t.cls == 0, .range)]
      (fun s => reply p .ok (be 4 (netOf t g - dock)) (s.updTicket t.number (setDock g dock))) s =
    match lineOf t g with
    | none => refuse p .grade s
    | some l =>
      if l.net < dock ∨ dock % classDivision t.cls ≠ 0 then refuse p .range s
      else reply p .ok (be 4 (l.net - dock)) (s.updTicket t.number (setDock g dock)) := by
  have range : (decide (dock ≤ netOf t g) && dock % classDivision t.cls == 0) = false ↔
      netOf t g < dock ∨ dock % classDivision t.cls ≠ 0 := by
    rw [Bool.and_eq_false_iff, decide_eq_false_iff_not, Nat.not_le, beq_eq_false_iff_ne]
  rw [guarded_cons_of_iff (isSome_eq_false_iff_none _), guarded_cons_of_iff range, guarded_nil]
  cases line : lineOf t g with
  | none => rfl
  | some l =>
    have net : netOf t g = l.net := by rw [netOf, line]; rfl
    rw [if_neg (Option.some_ne_none l), net]

theorem dockLine_taken (p : Port) (n : Half) (grade : Byte) (dock : Word) (s : State) : dockLine p n grade dock (taken p s) =
    if s.role p ≠ .scale ∧ s.role p ≠ .office then answered p .role [] s
    else if s.mode = .starting then answered p .mode [] s
    else if grade.toNat = 0 ∨ 64 < grade.toNat then answered p .range [] s
    else onTicket p n s (fun t =>
      if claimedByOther p t then answered p .claimed [] s
      else if t.state ≠ .onYard then answered p .state [] s
      else match lineOf t grade.toNat with
        | none => answered p .grade [] s
        | some l =>
          if l.net < dock.toNat ∨ dock.toNat % classDivision t.cls ≠ 0 then answered p .range [] s
          else reply p .ok (be 4 (l.net - dock.toNat)) ((taken p s).updTicket t.number (setDock grade.toNat dock.toNat))) := by
  rw [dockLine, guarded_cons_of_iff (isScaleOrOffice_eq_false_iff _ p), guarded_cons_of_iff (started_eq_false_iff _),
    guarded_cons_of_iff (gradeOk_eq_false_iff grade), guarded_nil, withTicket_taken]
  simp only [guarded_cons_of_iff (notClaimed_eq_false_iff p _), guarded_cons_of_iff (notOnYard_eq_false_iff _), dockLine_checks,
    refuse_taken, taken_role, taken_mode]

theorem setDock_eq (g dock : Nat) (t : Ticket) :
    setDock g dock t = { t with lines := t.lines.map (fun x => if x.grade = g then { x with dock := dock } else x) } := by
  simp only [setDock, beq_iff_eq]

/-- Settles O36: three requests on a ticket, each by its checks. -/
theorem ticketChanges : Obligations.TicketChanges := by
  refine ⟨⟨fun p n vehicle s taking => ?_, fun p n seller s taking => ?_⟩, fun p n grade dock s taking => ?_⟩
  · rw [exec_setVehicle, request_taking taking, setVehicle_taken]
  · rw [exec_setSeller, request_taking taking, setSeller_taken]
  · have docked : setDock grade.toNat dock.toNat = fun t =>
        { t with lines := t.lines.map (fun x => if x.grade = grade.toNat then { x with dock := dock.toNat } else x) } :=
      funext fun t => setDock_eq ..
    rw [exec_dockLine, request_taking taking, dockLine_taken, docked] <;> rfl

end Sys2Proof.Machine
end

section
/-! PROOFS. What a close attributes to a grade, the hold hours and the stored-tare close (R49, R52 to R54). -/

namespace Sys2Proof.Machine

/-! ## Lines (R49, R52) -/

theorem attributeWeight_absent {g : Nat} {ls : List Line} (absent : ∀ l ∈ ls, l.grade ≠ g) (w : Nat) :
    attributeWeight g w ls = ls ++ [⟨g, w, 0, none, none⟩] := by
  refine if_neg ?_
  rw [List.any_eq_true]
  rintro ⟨l, mem, same⟩
  exact absent l mem (beq_iff_eq.mp same)

theorem attributeWeight_present {g : Nat} {ls : List Line} (present : ∃ l ∈ ls, l.grade = g) (w : Nat) :
    attributeWeight g w ls = ls.map (fun l => if l.grade = g then { l with net := l.net + w } else l) := by
  obtain ⟨l, mem, same⟩ := present
  have named : (ls.any fun l => l.grade == g) = true := List.any_eq_true.mpr ⟨l, mem, beq_iff_eq.mpr same⟩
  rw [attributeWeight, if_pos named]
  simp only [beq_iff_eq]

theorem lastWeight_append {t : Ticket} {ws : List Weighing} {w : Weighing} (h : t.weighings = ws ++ [w]) :
    lastWeight t = w.weight := by
  rw [lastWeight, h, List.getLast?_append_of_ne_nil _ (List.cons_ne_nil w [])]
  rfl

/-! ## Hold hours (R53) -/

/-- The hold hours a line brings to its ticket. -/
def lineHours (s : State) (l : Line) : Nat := if s.gradeRestricted l.grade then (s.grade l.grade).holdHours else 0

theorem holdHours_eq (s : State) (ls : List Line) : holdHours s ls = (ls.map (lineHours s)).foldl max 0 := rfl

/-- The largest of a list of numbers is not below the first, not below any of them, and is one of them or the first. -/
theorem foldl_max_spec (xs : List Nat) (a : Nat) :
    a ≤ xs.foldl max a ∧ (∀ x ∈ xs, x ≤ xs.foldl max a) ∧ (xs.foldl max a = a ∨ xs.foldl max a ∈ xs) := by
  induction xs generalizing a with
  | nil => exact ⟨Nat.le_refl a, fun x mem => absurd mem List.not_mem_nil, .inl rfl⟩
  | cons x xs ih =>
    obtain ⟨first, rest, one⟩ := ih (max a x)
    rw [List.foldl_cons]
    refine ⟨by omega, fun y mem => ?_, ?_⟩
    · rcases List.mem_cons.mp mem with rfl | mem
      · omega
      · exact rest y mem
    · rcases one with same | mem
      · rcases Nat.le_total x a with below | above
        · exact .inl (same.trans (Nat.max_eq_left below))
        · exact .inr (List.mem_cons.mpr (.inl (same.trans (Nat.max_eq_right above))))
      · exact .inr (List.mem_cons_of_mem _ mem)

/-- The hold hours of a ticket are the largest among its restricted lines, 0 without one. -/
theorem holdHours_spec (s : State) (ls : List Line) :
    (∀ l ∈ ls, (s.grade l.grade).restricted = true → (s.grade l.grade).holdHours ≤ holdHours s ls) ∧
    (holdHours s ls = 0 ∨ ∃ l ∈ ls, (s.grade l.grade).restricted = true ∧ holdHours s ls = (s.grade l.grade).holdHours) := by
  obtain ⟨-, largest, one⟩ := foldl_max_spec (ls.map (lineHours s)) 0
  rw [← holdHours_eq] at largest one
  constructor
  · intro l mem restricted
    have line : lineHours s l = (s.grade l.grade).holdHours := if_pos restricted
    exact line ▸ largest _ (List.mem_map_of_mem mem)
  · rcases one with none | mem
    · exact .inl none
    · obtain ⟨l, mem, hours⟩ := List.mem_map.mp mem
      by_cases restricted : s.gradeRestricted l.grade = true
      · exact .inr ⟨l, mem, restricted, hours.symm.trans (if_pos restricted)⟩
      · exact .inl (hours.symm.trans (if_neg restricted))

/-! ## CLOSE ON STORED TARE (R54) -/

theorem exec_closeOnStoredTare (p : Port) (n : Half) (grade : Byte) (s : State) :
    exec (.closeOnStoredTare p n grade) s = request p s (closeOnStoredTare p n grade) := rfl

/-- Where the vehicle's tare is asked for, it is the entry of its slot, by its class and its age (R35, R54). -/
theorem storedTare_eq (s : State) (v : List Byte) (c : Class) : s.storedTare v c =
    match (s.tareSlot v).bind s.tareAt with
    | none => .error .noTare
    | some e => if e.cls ≠ c then .error .noTare
      else if e.time + s.settings.tareValidity * 86400 ≤ s.clock then .error .tareExpired else .ok e.weight := by
  rw [State.storedTare]
  cases (s.tareSlot v).bind s.tareAt with
  | none => rfl
  | some e =>
    dsimp only
    have expired := not_tareValid_iff s e
    cases valid : s.tareValid e with
    | true => rw [if_neg (fun h => Bool.noConfusion (valid.symm.trans (expired.mpr h))), if_pos rfl]
    | false => rw [if_pos (expired.mp valid), if_neg Bool.false_ne_true]

theorem order_eq_false_iff (low high : Int) : decide (low ≤ high) = false ↔ high < low := by
  rw [decide_eq_false_iff_not, Int.not_le]

theorem restricted_eq_false_iff {ok : Bool} {bad : Prop} (h : ok = false ↔ bad) (r : Bool) : (!r || ok) = false ↔ r = true ∧ bad := by
  rw [Bool.or_eq_false_iff, Bool.not_eq_false', h]

/-- The rest of a stored-tare close, once the ticket has passed its own checks (R54 from check 9). -/
def storedClose (p : Port) (g : Nat) (t : Ticket) (s : State) : State :=
  match s.storedTare (t.vehicle.getD []) t.cls with
  | .error code => refuse p code s
  | .ok tare =>
    guarded p [(decide (tare + classDivision t.cls ≤ lastWeight t), .order), (s.gradeActive g, .grade),
        (lineFits t g, .linesFull), (!restrictedClose s t g || t.seller.isSome, .sellerIdRequired),
        (!restrictedClose s t g || s.clockSet, .clockUnset)]
      (closeStored p t g tare) s

theorem closeOnStoredTare_eq (p : Port) (n : Half) (grade : Byte) (s : State) : closeOnStoredTare p n grade s =
    guarded p [(s.isScaleOrOffice p, .role), (s.isRun, .mode), (gradeOk grade, .range)]
      (withTicket p n fun t =>
        guarded p [(!claimedByOther p t, .claimed), (t.state == .onYard, .state), (t.capture.isNone, .capturePending),
          (t.vehicle.isSome, .noTare)] (storedClose p grade.toNat t)) s := rfl

/-- The checks of a stored-tare close from the vehicle on (R54). -/
theorem storedClose_checks (p : Port) (g : Nat) (t : Ticket) (s : State) :
    guarded p [(t.vehicle.isSome, .noTare)] (storedClose p g t) s =
    match t.vehicle with
    | none => refuse p .noTare s
    | some v =>
      match (s.tareSlot v).bind s.tareAt with
      | none => refuse p .noTare s
      | some e =>
        if e.cls ≠ t.cls then refuse p .noTare s
        else if e.time + s.settings.tareValidity * 86400 ≤ s.clock then refuse p .tareExpired s
        else if lastWeight t < e.weight + classDivision t.cls then refuse p .order s
        else if ¬ ((s.grade g).defined ∧ (s.grade g).active) then refuse p .grade s
        else if lineFits t g = false then refuse p .linesFull s
        else if restrictedClose s t g ∧ t.seller = none then refuse p .sellerIdRequired s
        else if restrictedClose s t g ∧ s.clockSet = false then refuse p .clockUnset s
        else closeStored p t g e.weight s := by
  rw [guarded_cons_of_iff (isSome_eq_false_iff_none _), guarded_nil, storedClose]
  cases t.vehicle with
  | none => exact if_pos rfl
  | some v =>
    rw [if_neg (Option.some_ne_none v), Option.getD_some, storedTare_eq]
    dsimp only
    cases (s.tareSlot v).bind s.tareAt with
    | none => rfl
    | some e =>
      dsimp only
      by_cases cls : e.cls ≠ t.cls
      · rw [if_pos cls, if_pos cls]
      · rw [if_neg cls, if_neg cls]
        by_cases expired : e.time + s.settings.tareValidity * 86400 ≤ s.clock
        · rw [if_pos expired, if_pos expired]
        · rw [if_neg expired, if_neg expired]
          dsimp only
          rw [guarded_cons_of_iff (order_eq_false_iff _ _), guarded_cons_of_iff (gradeActive_eq_false_iff s g),
            guarded_cons_of_iff Iff.rfl, guarded_cons_of_iff (restricted_eq_false_iff (isSome_eq_false_iff_none _) _),
            guarded_cons_of_iff (restricted_eq_false_iff Iff.rfl _), guarded_nil]

theorem closeOnStoredTare_taken (p : Port) (n : Half) (grade : Byte) (s : State) : closeOnStoredTare p n grade (taken p s) =
    if s.role p ≠ .scale ∧ s.role p ≠ .office then answered p .role [] s
    else if s.mode ≠ .run then answered p .mode [] s
    else if grade.toNat = 0 ∨ 64 < grade.toNat then answered p .range [] s
    else onTicket p n s (fun t =>
      if claimedByOther p t then answered p .claimed [] s
      else if t.state ≠ .onYard then answered p .state [] s
      else if t.capture ≠ none then answered p .capturePending [] s
      else match t.vehicle with
        | none => answered p .noTare [] s
        | some v =>
          match (s.tareSlot v).bind s.tareAt with
          | none => answered p .noTare [] s
          | some e =>
            if e.cls ≠ t.cls then answered p .noTare [] s
            else if e.time + s.settings.tareValidity * 86400 ≤ s.clock then answered p .tareExpired [] s
            else if lastWeight t < e.weight + classDivision t.cls then answered p .order [] s
            else if ¬ ((s.grade grade.toNat).defined ∧ (s.grade grade.toNat).active) then answered p .grade [] s
            else if lineFits t grade.toNat = false then answered p .linesFull [] s
            else if restrictedClose s t grade.toNat ∧ t.seller = none then answered p .sellerIdRequired [] s
            else if restrictedClose s t grade.toNat ∧ s.clockSet = false then answered p .clockUnset [] s
            else closeStored p t grade.toNat e.weight (taken p s)) := by
  rw [closeOnStoredTare_eq, guarded_cons_of_iff (isScaleOrOffice_eq_false_iff _ p), guarded_cons_of_iff (isRun_eq_false_iff _),
    guarded_cons_of_iff (gradeOk_eq_false_iff grade), guarded_nil, withTicket_taken]
  simp only [guarded_cons_of_iff (notClaimed_eq_false_iff p _), guarded_cons_of_iff (notOnYard_eq_false_iff _),
    guarded_cons_of_iff (isNone_eq_false_iff _)]
  simp only [storedClose_checks, refuse_taken]
  rfl

theorem closeData_eq (t : Ticket) : closeData t =
    [flagByte [t.hold.isSome]] ++ [BitVec.ofNat 8 (ticketStateCode t.state)] ++ be 4 (t.total.getD 0) ++
      beOpt 4 (t.hold.map (·.expiry)) := by
  rw [closeData, be_one]

/-- A close on a stored tare without hold hours (R51, R54). -/
theorem closeStored_payable {s : State} {t : Ticket} {g : Nat} {tare : Int} (found : s.ticket t.number = some t)
    (hours : holdHours s (attributeWeight g (lastWeight t - tare).toNat t.lines) = 0) (p : Port) :
    let closed := pricedTicket s t (attributeWeight g (lastWeight t - tare).toNat t.lines) (.stored tare)
    closeStored p t g tare s = reply p .ok (closeData { closed with state := .payable })
      (broadcast ⟨.ticketPayable, some t.number, [1#8], s.clock⟩
        { s with tickets := putIn t.number { closed with state := .payable } s.tickets }) := by
  intro closed
  have put : (putIn t.number { closed with state := .payable } s.tickets).find? (fun y => y.number == t.number) =
      some { closed with state := .payable } := find_putIn rfl found
  rw [closeStored, closeTicket_payable hours, broadcast_eq]
  exact congrArg (fun found : Option Ticket => reply p .ok (found.elim [] closeData) _) put

/-- A close on a stored tare with hold hours (R51, R53, R54). -/
theorem closeStored_held {s : State} {t : Ticket} {g : Nat} {tare : Int} (found : s.ticket t.number = some t)
    (hours : 0 < holdHours s (attributeWeight g (lastWeight t - tare).toNat t.lines)) (p : Port) :
    let net := attributeWeight g (lastWeight t - tare).toNat t.lines
    let closed := pricedTicket s t net (.stored tare)
    ∃ expiry free,
      (s.clock + holdHours s net * 3600 < 2 ^ 32 → expiry = s.clock + holdHours s net * 3600 ∧ free = s.free) ∧
      closeStored p t g tare s = reply p .ok (closeData { closed with state := .held, hold := some ⟨expiry, false⟩ })
        { s with
          tickets := putIn t.number { closed with state := .held, hold := some ⟨expiry, false⟩ } s.tickets
          holds := placeHold ⟨t.number, expiry⟩ s.holds, free := free } := by
  intro net closed
  obtain ⟨expiry, free, fits, closes⟩ := closeTicket_held hours t (.stored tare)
  have put : (putIn t.number { closed with state := .held, hold := some ⟨expiry, false⟩ } s.tickets).find?
      (fun y => y.number == t.number) = some { closed with state := .held, hold := some ⟨expiry, false⟩ } := find_putIn rfl found
  refine ⟨expiry, free, fits, ?_⟩
  rw [closeStored, closes]
  exact congrArg (fun found : Option Ticket => reply p .ok (found.elim [] closeData) _) put

/-- Settles O37: the checks of R54 in their order, then the close by its hold hours, and what the close computes. -/
theorem storedTareClose : Obligations.StoredTareClose := by
  refine ⟨fun p n grade s taking => ⟨?_, fun t tare found => ⟨fun hours => ?_, fun hours => ?_⟩⟩,
    fun g w ls absent => attributeWeight_absent absent w, fun g w ls present => attributeWeight_present present w,
    fun s l => rfl, fun t => ⟨fun none => ?_, fun ws w last => lastWeight_append last⟩, holdHours_spec⟩
  · rw [exec_closeOnStoredTare, request_taking taking, closeOnStoredTare_taken] <;> rfl
  · obtain ⟨-, number⟩ := ticket_some found
    refine (closeStored_payable (s := taken p s) (number ▸ found) hours p).trans ?_
    rw [closeData_eq]
    rfl
  · obtain ⟨-, number⟩ := ticket_some found
    obtain ⟨expiry, free, fits, closes⟩ := closeStored_held (s := taken p s) (number ▸ found) hours p
    refine ⟨expiry, free, fits, closes.trans ?_⟩
    rw [closeData_eq]
    rfl
  · rw [lastWeight, none]
    rfl

end Sys2Proof.Machine
end

section
/-! PROOFS. Claims, the hold list and the yard clock (R83 to R96). -/

namespace Sys2Proof.Machine

/-! ## Claims (R88 to R92) -/

theorem exec_claimTicket (p : Port) (n : Half) (s : State) : exec (.claimTicket p n) s = request p s (claimTicket p n) := rfl

theorem exec_releaseTicket (p : Port) (n : Half) (s : State) : exec (.releaseTicket p n) s = request p s (releaseTicket p n) := rfl

theorem claimsHeld_eq (p : Port) (s : State) :
    s.claimsHeld p = (s.tickets.filter (fun t => ∃ c ∈ t.claim, c.port = p)).length := by
  rw [State.claimsHeld, List.countP_eq_length_filter]
  congr 2
  funext t
  cases t.claim with
  | none => simp
  | some c => simp [beq_eq_decide]

theorem claimRoom_eq_false_iff (claim : Option Claim) (held : Nat) :
    (claim.isSome || decide (held < 2)) = false ↔ claim = none ∧ 2 ≤ held := by
  rw [Bool.or_eq_false_iff, isSome_eq_false_iff_none, decide_eq_false_iff_not, Nat.not_lt]

theorem claimTicket_taken (p : Port) (n : Half) (s : State) : claimTicket p n (taken p s) =
    if s.role p = .view then answered p .role [] s
    else if s.mode = .starting then answered p .mode [] s
    else onTicket p n s (fun t =>
      if claimedByOther p t then answered p .claimed [] s
      else if t.state = .committing then answered p .state [] s
      else if t.claim = none ∧ 2 ≤ s.claimsHeld p then answered p .claimsFull [] s
      else reply p .ok (be 2 s.settings.claimTimeout)
        ((taken p s).updTicket t.number (fun r => { r with claim := some ⟨p, s.settings.claimTimeout⟩ }))) := by
  rw [claimTicket, guarded_cons_of_iff (notView_eq_false_iff _ p), guarded_cons_of_iff (started_eq_false_iff _), guarded_nil,
    withTicket_taken]
  simp only [guarded_cons_of_iff (notClaimed_eq_false_iff p _), guarded_cons_of_iff (notCommitting_eq_false_iff _),
    guarded_cons_of_iff (claimRoom_eq_false_iff _ _), guarded_nil, refuse_taken]
  rfl

theorem releaseTicket_taken (p : Port) (n : Half) (s : State) : releaseTicket p n (taken p s) =
    if s.role p = .view then answered p .role [] s
    else if s.mode = .starting then answered p .mode [] s
    else onTicket p n s (fun t =>
      if claimedByOther p t then answered p .claimed [] s
      else if t.state = .committing then answered p .state [] s
      else if t.claim = none then answered p .notClaimed [] s
      else reply p .ok [] ((taken p s).dropClaim t.number)) := by
  rw [releaseTicket, guarded_cons_of_iff (notView_eq_false_iff _ p), guarded_cons_of_iff (started_eq_false_iff _), guarded_nil,
    withTicket_taken]
  simp only [guarded_cons_of_iff (notClaimed_eq_false_iff p _), guarded_cons_of_iff (notCommitting_eq_false_iff _),
    guarded_cons_of_iff (isSome_eq_false_iff_none _), guarded_nil, refuse_taken]
  rfl

/-- Settles O39: the count of a port's claims, the two requests by their checks, and the expiry. -/
theorem claimsAreHeld : Obligations.ClaimsAreHeld := by
  refine ⟨claimsHeld_eq, fun p n s taking => ⟨?_, ?_⟩, fun n s powered => ?_⟩
  · rw [exec_claimTicket, request_taking taking, claimTicket_taken]
  · rw [exec_releaseTicket, request_taking taking, releaseTicket_taken]
    rfl
  · rw [exec_claimExpiry, execClaimExpiry, event_powered powered, expireClaim] <;> rfl

/-! ## Holds (R93, R95, R96) -/

theorem exec_endHold (p : Port) (n : Half) (s : State) : exec (.endHold p n) s = request p s (endHold p n) := rfl

theorem exec_extendHold (p : Port) (n : Half) (expiry : Word) (s : State) :
    exec (.extendHold p n expiry) s = request p s (extendHold p n expiry) := rfl

theorem notHeld_eq_false_iff (t : Ticket) : (t.state == .held) = false ↔ t.state ≠ .held := beq_eq_false_iff_ne

theorem offerPayable_ended (n : Nat) (s : State) :
    offerPayable n .holdEnded s = broadcast ⟨.ticketPayable, some n, [3#8], s.clock⟩ s := by
  rw [offerPayable, be_one]
  rfl

/-- What END HOLD does with a ticket that passes its checks (R95). -/
def holdEnded (p : Port) (t : Ticket) (s : State) : State :=
  reply p .ok (be 4 ((t.hold.map (·.expiry)).getD 0))
    (offerPayable t.number .holdEnded { s.updTicket t.number (fun r =>
      { r with state := .payable, hold := t.hold.map (fun h => { h with endedEarly := true }) }) with
      holds := dropHold t.number s.holds })

theorem holdEnded_eq (p : Port) (t : Ticket) (s : State) : holdEnded p t s =
    reply p .ok (be 4 ((t.hold.map (·.expiry)).getD 0))
      (broadcast ⟨.ticketPayable, some t.number, [3#8], s.clock⟩ { s.updTicket t.number (fun r =>
        { r with state := .payable, hold := t.hold.map (fun h => { h with endedEarly := true }) }) with
        holds := dropHold t.number s.holds }) := by
  rw [holdEnded, offerPayable_ended]
  rfl

theorem endHold_taken (p : Port) (n : Half) (s : State) : endHold p n (taken p s) =
    if s.role p ≠ .office then answered p .role [] s
    else if s.mode = .starting then answered p .mode [] s
    else onTicket p n s (fun t =>
      if claimedByOther p t then answered p .claimed [] s
      else if t.state ≠ .held then answered p .state [] s
      else holdEnded p t (taken p s)) := by
  rw [endHold, guarded_cons_of_iff (isOffice_eq_false_iff _ p), guarded_cons_of_iff (started_eq_false_iff _), guarded_nil,
    withTicket_taken]
  simp only [guarded_cons_of_iff (notClaimed_eq_false_iff p _), guarded_cons_of_iff (notHeld_eq_false_iff _), guarded_nil,
    refuse_taken]
  rfl

theorem extendOk_eq_false_iff (t : Ticket) (expiry : Nat) : extendOk t expiry = false ↔
    expiry ≤ (t.hold.map (·.expiry)).getD 0 ∨ t.closedTime.getD 0 + 259200 < expiry := by
  rw [extendOk, Bool.and_eq_false_iff, decide_eq_false_iff_not, decide_eq_false_iff_not, Nat.not_lt, Nat.not_le]

theorem extendHold_taken (p : Port) (n : Half) (expiry : Word) (s : State) : extendHold p n expiry (taken p s) =
    if s.role p ≠ .office then answered p .role [] s
    else if s.mode = .starting then answered p .mode [] s
    else onTicket p n s (fun t =>
      if claimedByOther p t then answered p .claimed [] s
      else if t.state ≠ .held then answered p .state [] s
      else if expiry.toNat ≤ (t.hold.map (·.expiry)).getD 0 ∨ t.closedTime.getD 0 + 259200 < expiry.toNat then
        answered p .range [] s
      else reply p .ok (be 4 ((t.hold.map (·.expiry)).getD 0) ++ be 4 expiry.toNat)
        { (taken p s).updTicket t.number (fun r =>
            { r with hold := t.hold.map (fun h => { h with expiry := expiry.toNat }) }) with
          holds := placeHold ⟨t.number, expiry.toNat⟩ (dropHold t.number s.holds) }) := by
  rw [extendHold, guarded_cons_of_iff (isOffice_eq_false_iff _ p), guarded_cons_of_iff (started_eq_false_iff _), guarded_nil,
    withTicket_taken]
  simp only [guarded_cons_of_iff (notClaimed_eq_false_iff p _), guarded_cons_of_iff (notHeld_eq_false_iff _),
    guarded_cons_of_iff (extendOk_eq_false_iff _ _), guarded_nil, refuse_taken]
  rfl

/-- In a list in order of expiry, an entry is placed after those that expire no later and before the others. -/
theorem placeHold_eq_filter (e : HoldEntry) {hs : List HoldEntry} (sorted : hs.Pairwise (fun a b => a.expiry ≤ b.expiry)) :
    placeHold e hs = hs.filter (fun h => h.expiry ≤ e.expiry) ++ e :: hs.filter (fun h => e.expiry < h.expiry) := by
  induction hs with
  | nil => rfl
  | cons h hs ih =>
    obtain ⟨first, rest⟩ := List.pairwise_cons.mp sorted
    rw [placeHold]
    by_cases early : h.expiry ≤ e.expiry
    · rw [if_pos early, ih rest, List.filter_cons_of_pos (by simpa), List.filter_cons_of_neg (by simpa)]
      rfl
    · have later : ∀ a ∈ h :: hs, e.expiry < a.expiry := fun a mem => by
        rcases List.mem_cons.mp mem with rfl | mem
        · omega
        · have := first a mem
          omega
      have before : (h :: hs).filter (fun a => decide (a.expiry ≤ e.expiry)) = [] :=
        List.filter_eq_nil_iff.mpr fun a mem => by simpa using later a mem
      have after : (h :: hs).filter (fun a => decide (e.expiry < a.expiry)) = h :: hs :=
        List.filter_eq_self.mpr fun a mem => by simpa using later a mem
      rw [if_neg early, before, after]
      rfl

theorem placeHold_pairwise (e : HoldEntry) {hs : List HoldEntry} (sorted : hs.Pairwise (fun a b => a.expiry ≤ b.expiry)) :
    (placeHold e hs).Pairwise (fun a b => a.expiry ≤ b.expiry) := by
  rw [placeHold_eq_filter e sorted]
  refine List.pairwise_append.mpr ⟨sorted.filter _, List.pairwise_cons.mpr ⟨fun b mem => ?_, sorted.filter _⟩,
    fun a early b late => ?_⟩
  · have late : e.expiry < b.expiry := by simpa using (List.mem_filter.mp mem).2
    exact Nat.le_of_lt late
  · have before : a.expiry ≤ e.expiry := by simpa using (List.mem_filter.mp early).2
    rcases List.mem_cons.mp late with rfl | mem
    · exact before
    · have after : e.expiry < b.expiry := by simpa using (List.mem_filter.mp mem).2
      omega

/-- Settles O40: the two requests by their checks, and the place of an entry in an ordered list. -/
theorem holdsEndAndMove : Obligations.HoldsEndAndMove := by
  refine ⟨fun p n expiry s taking => ⟨?_, ?_⟩, fun e hs sorted => ⟨placeHold_pairwise e sorted, placeHold_eq_filter e sorted⟩⟩
  · rw [exec_endHold, request_taking taking, endHold_taken]
    simp only [holdEnded_eq]
    rfl
  · rw [exec_extendHold, request_taking taking, extendHold_taken]
    rfl

/-! ## The yard clock (R83, R84) -/

theorem exec_setClock (p : Port) (time : Word) (s : State) : exec (.setClock p time) s = request p s (setClock p time) := rfl

/-- The entries that an examination removes are those due. -/
theorem examineHolds_due (s : State) :
    s.holds.length - (examineHolds s).holds.length = (s.holds.takeWhile (fun h => h.expiry ≤ s.clock)).length := by
  have left : (examineHolds s).holds = s.holds.dropWhile (fun h => h.expiry ≤ s.clock) := congrArg State.holds (examineHolds_eq s)
  have parts := congrArg List.length (List.takeWhile_append_dropWhile (p := fun h : HoldEntry => h.expiry ≤ s.clock) (l := s.holds))
  rw [List.length_append] at parts
  rw [left]
  omega

theorem setClock_taken (p : Port) (time : Word) (s : State) : setClock p time (taken p s) =
    if s.role p ≠ .office then answered p .role [] s
    else if s.mode = .starting then answered p .mode [] s
    else reply p .ok (be 4 s.clock ++ be 4 time.toNat ++
        be 1 (s.holds.takeWhile (fun h => h.expiry ≤ time.toNat)).length)
      (examineHolds { taken p s with clock := time.toNat, clockSet := true }) := by
  rw [setClock, guarded_cons_of_iff (isOffice_eq_false_iff _ p), guarded_cons_of_iff (started_eq_false_iff _), guarded_nil]
  have due := examineHolds_due { taken p s with clock := time.toNat, clockSet := true }
  exact congrArg (fun due : Nat => if s.role p ≠ .office then answered p .role [] s
    else if s.mode = .starting then answered p .mode [] s
    else reply p .ok (be 4 s.clock ++ be 4 time.toNat ++ be 1 due)
      (examineHolds { taken p s with clock := time.toNat, clockSet := true })) due

/-- The notices of an examination do not depend on the yard clock's own fields. -/
theorem payable_ports_clock (due : List HoldEntry) (time clock : Nat) (set : Bool) (s : State) :
    (due.foldl (fun x e => broadcast ⟨.ticketPayable, some e.ticket, [2#8], time⟩ x)
      { s with clock := clock, clockSet := set }).ports =
    (due.foldl (fun x e => broadcast ⟨.ticketPayable, some e.ticket, [2#8], time⟩ x) s).ports :=
  foldl_payable_ports due time rfl

/-- Settles O41: both examine the hold list against the new count, unless the clock's advance finds the part held. -/
theorem yardClock : Obligations.YardClock := by
  refine ⟨fun p time s taking => ⟨fun role => ?_, fun role mode => ?_, fun role mode => ?_⟩,
    fun s => ⟨fun last => ?_, fun below still => ?_, fun below powered mode => ?_⟩⟩
  · rw [exec_setClock, request_taking taking, setClock_taken, if_pos role]
  · rw [exec_setClock, request_taking taking, setClock_taken, if_neg (not_not.mpr role), if_pos mode]
  · rw [exec_setClock, request_taking taking, setClock_taken, if_neg (not_not.mpr role), if_neg mode, examineHolds_eq]
    dsimp only
    rw [payable_ports_clock]
    rfl
  · rw [exec_clockAdvance, execClockAdvance, if_neg (by rw [lastSecond]; omega)]
  · rw [exec_clockAdvance, execClockAdvance, if_pos (by rw [lastSecond]; omega)]
    dsimp only
    rw [if_neg]
    rintro ⟨powered, mode⟩
    rcases still with off | starting
    · exact Bool.noConfusion (off.symm.trans powered)
    · exact mode starting
  · rw [exec_clockAdvance, execClockAdvance, if_pos (by rw [lastSecond]; omega)]
    dsimp only
    rw [if_pos ⟨powered, mode⟩, examineHolds_eq]
    dsimp only
    rw [payable_ports_clock]

end Sys2Proof.Machine
end

section
/-! PROOFS. The data of the read requests: their fields and their lengths (R18, R62, R63, R85, R140, R161, R172, R193). -/

namespace Sys2Proof.Machine

/-! ## Lengths of fields (R209) -/

theorem length_absent (w : Nat) : (absent w).length = w := List.length_replicate

theorem length_beInt (w : Nat) (i : Int) : (beInt w i).length = w := length_be w _

theorem length_beIntOpt (w : Nat) (i : Option Int) : (beIntOpt w i).length = w := by
  cases i with
  | none => exact length_absent w
  | some i => exact length_beInt w i

theorem length_beReceipt (n : Option Nat) : (beReceipt n).length = 4 := length_be 4 _

theorem length_sizedOpt (t : Option (List Byte)) : (sizedOpt t).length = t.elim 1 (·.length + 1) := by
  cases t <;> rfl

theorem length_faultDetailBytes (d : FaultDetail) : (faultDetailBytes d).length = 4 := by
  cases d with
  | none => exact length_absent 4
  | _ => exact length_be 4 _

/-- Items of one length. -/
theorem length_flatMap_same {α : Type} {f : α → List Byte} {k : Nat} (same : ∀ a, (f a).length = k) (l : List α) :
    (l.flatMap f).length = k * l.length := by
  rw [List.length_flatMap, List.map_congr_left (g := fun _ => k) fun a _ => same a, List.map_const', List.sum_replicate_nat,
    Nat.mul_comm]

theorem flatMap_filterMap_elim {α β : Type} (f : α → Option β) (g : α → β → List Byte) (l : List α) :
    l.flatMap (fun a => (f a).elim [] (g a)) =
      (l.filterMap (fun a => (f a).map (fun b => (a, b)))).flatMap (fun x => g x.1 x.2) := by
  induction l with
  | nil => rfl
  | cons a l ih =>
    rw [List.flatMap_cons, ih, List.filterMap_cons]
    cases f a <;> rfl

/-! ## READ TICKET and LIST TICKETS (R62, R63) -/

theorem length_commitData (c : Option TicketCommit) : (commitData c).length = 8 := by
  simp only [commitData, List.length_append, length_beOpt, length_beReceipt]

theorem length_lineData (l : Line) : (lineData l).length = 16 := by
  simp only [lineData, List.length_append, length_be, length_beOpt]

theorem length_weighingData (w : Weighing) : (weighingData w).length = 11 := by
  simp only [weighingData, List.length_append, length_be, length_beInt, length_beOpt]

theorem length_ticketHead (t : Ticket) : (ticketHead t).length = 4 := by
  simp only [ticketHead, List.length_append, length_be]

theorem length_ticketPart0 (s : State) (t : Ticket) : (ticketPart0 s t).length =
    42 + (t.vehicle.elim 1 (·.length + 1)) + (t.seller.elim 1 (·.length + 1)) + 16 * t.lines.length := by
  simp only [ticketPart0, List.length_append, List.length_singleton, length_be, length_beOpt, length_beIntOpt, length_sizedOpt,
    length_ticketHead, length_commitData, length_flatMap_same length_lineData]
  omega

theorem length_ticketPart1 (t : Ticket) : (ticketPart1 t).length = 4 + 11 * t.weighings.length := by
  rw [ticketPart1, List.length_append, length_ticketHead, length_flatMap_same length_weighingData]

theorem listItem_eq (s : State) (t : Ticket) : listItem s t = be 2 t.number ++
    be 1 (ticketStateCode t.state + 8 * (if t.cls = .platform then 1 else 0) + 16 * (s.ticketRestricted t).toNat) ++
    be 1 (t.claim.elim 7 (fun c => portCode c.port) + 16 * t.capture.elim 0 scaleCode) := by
  rw [listItem]
  cases t.cls <;> cases t.claim <;> cases t.capture <;> rfl

theorem insertTicket_perm (t : Ticket) (ts : List Ticket) : (insertTicket t ts).Perm (t :: ts) := by
  induction ts with
  | nil => exact .refl _
  | cons u us ih =>
    rw [insertTicket]
    split
    · exact .refl _
    · exact (ih.cons u).trans (.swap t u us)

theorem insertTicket_pairwise (t : Ticket) {ts : List Ticket} (sorted : ts.Pairwise (fun t u => t.number ≤ u.number)) :
    (insertTicket t ts).Pairwise (fun t u => t.number ≤ u.number) := by
  induction ts with
  | nil => exact List.pairwise_singleton _ t
  | cons u us ih =>
    obtain ⟨first, rest⟩ := List.pairwise_cons.mp sorted
    rw [insertTicket]
    split
    · rename_i low
      refine List.pairwise_cons.mpr ⟨fun x mem => ?_, sorted⟩
      rcases List.mem_cons.mp mem with rfl | mem
      · exact low
      · exact Nat.le_trans low (first x mem)
    · rename_i high
      refine List.pairwise_cons.mpr ⟨fun x mem => ?_, ih rest⟩
      rcases List.mem_cons.mp ((insertTicket_perm t us).subset mem) with rfl | mem
      · exact Nat.le_of_lt (Nat.lt_of_not_le high)
      · exact first x mem

theorem ticketsInOrder_spec (s : State) :
    s.ticketsInOrder.Perm s.tickets ∧ s.ticketsInOrder.Pairwise (fun t u => t.number ≤ u.number) := by
  rw [State.ticketsInOrder]
  induction s.tickets with
  | nil => exact ⟨.refl _, .nil⟩
  | cons t ts ih =>
    obtain ⟨perm, sorted⟩ := ih
    exact ⟨(insertTicket_perm t _).trans (perm.cons t), insertTicket_pairwise t sorted⟩

/-! ## READ CLOCK and READ JOURNAL STATE (R85, R140) -/

theorem length_clockData (s : State) : (clockData s).length = 19 := by
  simp only [clockData, allPorts, List.flatMap_cons, List.flatMap_nil, List.length_append, List.length_singleton, List.length_nil,
    length_be, length_beOpt]

theorem eraseData_eq (e : Option EraseJob) : eraseData e = beOpt 1 (e.map (·.sector)) ++ beOpt 1 (e.map (·.count)) := by
  cases e <;> rfl

theorem length_sectorData (c : Sector) : (sectorData c).length = 6 := by
  simp only [sectorData, List.length_append, length_be, length_beReceipt]

theorem length_journalData {s : State} (sectors : s.sectors.length = 32) : (journalData s).length = 246 := by
  simp only [journalData, allPorts, eraseData_eq, List.flatMap_cons, List.flatMap_nil, List.length_append, List.length_singleton,
    List.length_nil, length_be, length_beOpt, length_beInt, length_beReceipt, length_flatMap_same length_sectorData, sectors]

/-! ## LIST PRINT QUEUE and READ PRINTER (R161) -/

theorem length_jobData (slot : Nat) (j : Job) : (jobData slot j).length = 15 := by
  simp only [jobData, List.length_append, List.length_singleton, length_be, length_beOpt, length_beReceipt]

theorem queueData_eq (s : State) : queueData s = be 1 s.freeSlots ++
    ((List.range 16).filterMap (fun slot => (s.job slot).map (fun j => (slot, j)))).flatMap (fun x => jobData x.1 x.2) := by
  rw [queueData, flatMap_filterMap_elim s.job jobData]

theorem length_queueData (s : State) : (queueData s).length =
    1 + 15 * ((List.range 16).filterMap (fun slot => (s.job slot).map (fun j => (slot, j)))).length := by
  have same (x : Nat × Job) : (jobData x.1 x.2).length = 15 := length_jobData x.1 x.2
  rw [queueData_eq, List.length_append, length_be, length_flatMap_same same]

theorem jobsIn_eq (s : State) (st : JobState) : s.jobsIn st = (s.jobs.filter (fun k => ∃ j ∈ k, j.state = st)).length := by
  rw [State.jobsIn, List.countP_eq_length_filter]
  congr 2
  funext k
  cases k with
  | none => simp
  | some j => simp [beq_eq_decide]

theorem length_printerData (s : State) : (printerData s).length = 20 := by
  simp only [printerData, List.length_append, List.length_cons, List.length_nil, length_be, length_beOpt, length_beReceipt]

/-! ## READ FAULT (R193) -/

theorem length_faultData (s : State) (k : FaultKind) : (faultData s k).length = 11 := by
  rw [faultData]
  cases s.fault k with
  | none => rfl
  | some r => simp only [List.length_append, List.length_cons, List.length_nil, length_be, length_faultDetailBytes]

theorem length_firstFaultData (f : Option FirstFault) : (firstFaultData f).length = 10 := by
  cases f with
  | none => rfl
  | some f => simp only [firstFaultData, List.length_append, List.length_singleton, length_be, length_faultDetailBytes]

/-! ## READ SCALE and READ TALLY (R18, R172) -/

theorem captureData_eq (k : Option Capture) : captureData k = (match k with
    | none => 0x00#8 :: List.replicate 9 0xFF#8
    | some k => [0x01#8] ++ be 1 (captureCode k.kind) ++ be 1 (portCode k.port) ++
      (match k.vehicle with | some v => sized v | none => beOpt 2 k.ticket) ++ be 4 k.armedTime ++ be 1 k.remaining) := by
  cases k <;> rfl

theorem weight32_none (s : State) : s.weight32 none = (absent 4, s) := rfl

theorem weight32_fits {w : Int} (low : -(2 ^ 31) ≤ w) (high : w < 2 ^ 31) (s : State) : s.weight32 (some w) = (beInt 4 w, s) :=
  if_pos ⟨low, high⟩

theorem weight32_free {w : Int} (beyond : w < -(2 ^ 31) ∨ 2 ^ 31 ≤ w) (s : State) :
    s.weight32 (some w) = (be 4 (Config.freeWord s.free).toNat, { s with free := s.free + 1 }) :=
  if_neg fun inside => by omega

/-- The grades with figures from a first grade on, as READ TALLY lists them. -/
theorem nonZeroGrades_from (t : Tally) (first : Nat) : t.nonZeroGrades.filter (fun g => first ≤ g) =
    ((List.range 64).map (· + 1)).filter (fun g => 0 < (t.figures g).lines ∧ first ≤ g) := by
  rw [Tally.nonZeroGrades, List.filter_filter]
  congr 1
  funext g
  rw [Bool.and_comm, Bool.decide_and]
  rfl

theorem length_figuresData (t : Tally) (g : Nat) : (figuresData t g).length = 24 := by
  simp only [figuresData, List.length_append, length_be]

theorem length_tallyData (s : State) (source : Byte) (t : Tally) (receipt : Option Nat) (first : Nat) :
    (tallyData s source t receipt first).length =
      40 + 24 * min 8 (((List.range 64).map (· + 1)).filter (fun g => 0 < (t.figures g).lines ∧ first ≤ g)).length := by
  simp only [tallyData, shiftData, nonZeroGrades_from, List.length_append, List.length_singleton, length_be, length_beOpt,
    length_beReceipt, length_flatMap_same (length_figuresData t), List.length_take]
  omega

end Sys2Proof.Machine
end

section
/-! PROOFS. The read requests answer with their data and change nothing else (R18, R62, R63, R85, R140, R161, R172, R193). -/

namespace Sys2Proof.Machine

theorem exec_readTicket (p : Port) (n : Half) (part : Byte) (s : State) :
    exec (.readTicket p n part) s = request p s (readTicket p n part) := rfl

theorem exec_listTickets (p : Port) (selection : Byte) (s : State) :
    exec (.listTickets p selection) s = request p s (listTickets p selection) := rfl

theorem exec_readScale (p : Port) (scale : Byte) (s : State) : exec (.readScale p scale) s = request p s (readScale p scale) := rfl

theorem exec_readTally (p : Port) (source first : Byte) (s : State) :
    exec (.readTally p source first) s = request p s (readTally p source first) := rfl

/-- A read with no check but the mode, of data that taking the request leaves as they are. -/
theorem read_answers {p : Port} {s : State} (taking : Taking p s) {data : State → List Byte} (same : data (taken p s) = data s)
    {i : Instr} (reads : exec i s = request p s (guarded p [((taken p s).started, .mode)] (fun s => reply p .ok (data s) s))) :
    exec i s = .next (if s.mode = .starting then answered p .mode [] s else answered p .ok (data s) s) := by
  rw [reads, request_taking taking, guarded_cons_of_iff (started_eq_false_iff _), guarded_nil, same]
  rfl

theorem taken_stream (p q : Port) (s : State) : ((taken p s).port q).stream = (s.port q).stream := by
  by_cases h : q = p
  · rw [h, taken_eq, updPort_port_same]
  · rw [taken_eq, updPort_port_other _ h]

theorem taken_journalData (p : Port) (s : State) : journalData (taken p s) = journalData s := by
  simp only [journalData, taken_counter, taken_exhausted, taken_lowFlag, taken_engine, taken_auditMark, taken_oldest,
    taken_newest, taken_space, taken_commitQueue, taken_head, taken_sectors, taken_pass, taken_pendingMarks, taken_stream]

theorem selection_eq_false_iff (n : Nat) : (n != 0) = false ↔ n = 0 := bne_eq_false_iff_eq

theorem part_eq_false_iff (n : Nat) : decide (n ≤ 1) = false ↔ 1 < n := by
  rw [decide_eq_false_iff_not, Nat.not_le]

theorem readTicket_taken (p : Port) (n : Half) (part : Byte) (s : State) : readTicket p n part (taken p s) =
    if s.mode = .starting then answered p .mode [] s
    else if 1 < part.toNat then answered p .range [] s
    else onTicket p n s (fun t => answered p .ok (if part = 0#8 then ticketPart0 s t else ticketPart1 t) s) := by
  rw [readTicket, guarded_cons_of_iff (started_eq_false_iff _), guarded_cons_of_iff (part_eq_false_iff _), guarded_nil,
    withTicket_taken]
  rfl

theorem listTickets_taken (p : Port) (selection : Byte) (s : State) : listTickets p selection (taken p s) =
    if s.mode = .starting then answered p .mode [] s
    else if selection.toNat % 32 = 0 then answered p .range [] s
    else
      let ts := s.ticketsInOrder.filter (fun t => selection.getLsbD (ticketStateCode t.state))
      answered p .ok (be 1 ts.length ++ ts.flatMap (listItem s)) s := by
  rw [listTickets, guarded_cons_of_iff (started_eq_false_iff _), guarded_cons_of_iff (selection_eq_false_iff _), guarded_nil]
  rfl

/-- READ SCALE reports a scale in the state that follows its weight's field, which only a free value changes. -/
theorem readScale_eq (p : Port) (scale : Byte) (s : State) : readScale p scale s =
    if s.mode = .starting then refuse p .mode s
    else (scaleOf scale).elim (refuse p .range s) fun sc =>
      reply p .ok (scaleData (s.weight32 (s.chan sc).weight).2 sc (s.weight32 (s.chan sc).weight).1)
        (s.weight32 (s.chan sc).weight).2 := by
  rw [readScale]
  cases scaleOf scale <;> rfl

theorem readScale_started {s : State} (mode : s.mode ≠ .starting) {scale : Byte} {sc : Scale} (named : scaleOf scale = some sc)
    {field : List Byte} {t : State} {p : Port} (weight : (taken p s).weight32 (s.chan sc).weight = (field, t)) :
    readScale p scale (taken p s) = reply p .ok (scaleData t sc field) t := by
  rw [readScale_eq, taken_mode, if_neg mode, named, Option.elim_some, taken_chan, weight]

theorem scaleData_taken (p : Port) (s : State) (sc : Scale) (w : List Byte) (free : Nat) :
    scaleData { taken p s with free := free } sc w = scaleData s sc w := rfl

theorem readTally_taken (p : Port) (source first : Byte) (s : State) : readTally p source first (taken p s) =
    if s.mode = .starting then answered p .mode [] s
    else if 1 < source.toNat ∨ first.toNat = 0 ∨ 64 < first.toNat then answered p .range [] s
    else if source = 0#8 then answered p .ok (tallyData s source s.tally none first.toNat) s
    else match s.snapshot with
      | some x => answered p .ok (tallyData s source x.tally (some x.receipt) first.toNat) s
      | none => answered p .state [] s := by
  have range : (decide (source.toNat ≤ 1) && gradeOk first) = false ↔ 1 < source.toNat ∨ first.toNat = 0 ∨ 64 < first.toNat := by
    rw [Bool.and_eq_false_iff, part_eq_false_iff, gradeOk_eq_false_iff]
  rw [readTally, guarded_cons_of_iff (started_eq_false_iff _), guarded_cons_of_iff range, guarded_nil]
  rfl

theorem readScale_answers (p : Port) (scale : Byte) (s : State) (taking : Taking p s) :
    (s.mode = .starting → exec (.readScale p scale) s = .next (answered p .mode [] s)) ∧
    (s.mode ≠ .starting → scaleOf scale = none → exec (.readScale p scale) s = .next (answered p .range [] s)) ∧
    (∀ sc, s.mode ≠ .starting → scaleOf scale = some sc → (s.chan sc).weight = none →
      exec (.readScale p scale) s = .next (answered p .ok (scaleData s sc (absent 4)) s)) ∧
    (∀ sc w, s.mode ≠ .starting → scaleOf scale = some sc → (s.chan sc).weight = some w → -(2 ^ 31) ≤ w → w < 2 ^ 31 →
      exec (.readScale p scale) s = .next (answered p .ok (scaleData s sc (beInt 4 w)) s)) ∧
    (∀ sc w, s.mode ≠ .starting → scaleOf scale = some sc → (s.chan sc).weight = some w → (w < -(2 ^ 31) ∨ 2 ^ 31 ≤ w) →
      ∃ bytes : List Byte, bytes.length = 4 ∧
        exec (.readScale p scale) s = .next (reply p .ok (scaleData s sc bytes) { taken p s with free := s.free + 1 })) := by
  rw [exec_readScale, request_taking taking]
  refine ⟨fun mode => ?_, fun mode unnamed => ?_, fun sc mode named blank => ?_, fun sc w mode named held low high => ?_,
    fun sc w mode named held beyond => ⟨be 4 (Config.freeWord s.free).toNat, length_be 4 _, ?_⟩⟩
  · rw [readScale_eq, taken_mode, if_pos mode, refuse_taken]
  · rw [readScale_eq, taken_mode, if_neg mode, unnamed, Option.elim_none, refuse_taken]
  · rw [readScale_started mode named (blank ▸ weight32_none (taken p s))]
    rfl
  · rw [readScale_started mode named (held ▸ weight32_fits low high (taken p s))]
    rfl
  · rw [readScale_started mode named (held ▸ weight32_free beyond (taken p s)), taken_free, scaleData_taken]

/-- What READ TICKET and LIST TICKETS report of a ticket. -/
theorem ticketData_eq (s : State) (t : Ticket) :
    let head := be 1 (ticketStateCode t.state) ++ be 1 (classCode t.cls) ++ be 2 t.number
    ticketPart0 s t = [flagByte [t.closedTime.isSome, t.hold.isSome]] ++ head ++ be 1 (portCode t.openedBy) ++ be 4 t.openedTime ++
      sizedOpt t.vehicle ++ sizedOpt t.seller ++ beOpt 1 (t.tareSource.map tareSourceCode) ++
      beIntOpt 4 (match t.tareSource with | some (.stored w) => some w | _ => none) ++ beOpt 4 t.closedTime ++ beOpt 4 t.total ++
      [flag (s.ticketRestricted t)] ++ beOpt 4 (t.hold.map (·.expiry)) ++ beOpt 1 (t.hold.map (fun h => h.endedEarly.toNat)) ++
      beOpt 1 (t.claim.map (fun c => portCode c.port)) ++ beOpt 2 (t.claim.map (·.remaining)) ++
      beOpt 1 (t.capture.map scaleCode) ++ beOpt 1 (t.commit.map (fun c => entryKindCode c.kind)) ++
      beOpt 1 (t.commit.bind (·.reason)) ++ beOpt 1 (t.commit.map (fun c => portCode c.port)) ++
      beOpt 1 (t.commit.map (fun c => ticketStateCode c.before)) ++ be 4 ((t.commit.bind (·.receipt)).getD 0) ++
      be 1 t.weighings.length ++ t.lines.flatMap (fun l =>
        be 1 l.grade ++ be 4 l.net ++ be 4 l.dock ++ beOpt 3 l.price ++ beOpt 4 l.amount) ∧
    (ticketPart0 s t).length =
      42 + (t.vehicle.elim 1 (·.length + 1)) + (t.seller.elim 1 (·.length + 1)) + 16 * t.lines.length ∧
    ticketPart1 t = head ++ t.weighings.flatMap (fun w => be 1 (scaleCode w.scale) ++ be 1 (captureCode w.kind) ++
      beInt 4 w.weight ++ be 4 w.time ++ beOpt 1 w.grade) ∧
    (ticketPart1 t).length = 4 + 11 * t.weighings.length := by
  refine ⟨?_, length_ticketPart0 s t, rfl, length_ticketPart1 t⟩
  simp only [ticketPart0, commitData, List.append_assoc] <;> rfl

theorem printerData_eq (s : State) :
    let count (st : JobState) := (s.jobs.filter (fun k => ∃ j ∈ k, j.state = st)).length
    printerData s = be 1 (activityCode s.pe.activity) ++ beOpt 1 s.pe.job ++
      [flag (s.pe.pausePaper || s.pe.pauseCover || s.pe.pauseStart)] ++
      [flagByte [s.pe.pausePaper, s.pe.pauseCover, s.pe.pauseStart]] ++ be 1 (paperCode s.pe.paper) ++
      be 1 (coverCode s.pe.cover) ++ be 1 s.pe.linkErrors ++ be 1 (linkCode s.pe.link) ++
      [JobState.reserved, .queued, .printing, .retryWait].flatMap (fun st => be 1 (count st)) ++
      be 4 ((s.backlog.map (·.next)).getD 0) ++ be 4 ((s.backlog.map (·.last)).getD 0) := by
  intro count
  simp only [count, ← jobsIn_eq, List.flatMap_cons, List.flatMap_nil, List.append_nil, List.append_assoc, printerData]
  rfl

theorem journalData_eq (s : State) :
    let step (h : Head) : Nat := match h.step with | .header => 3 | .body => 4 | .complete => 5 | _ => 2
    journalData s = be 4 s.counter ++ [flagByte [s.exhausted, s.lowFlag, s.engine.erase.any (·.suspended)]] ++
      be 4 s.auditMark ++ be 4 (s.oldest.getD 0) ++ be 4 (s.newest.getD 0) ++ beInt 2 s.space ++ be 1 s.commitQueue.length ++
      be 4 ((s.head.map (·.number)).getD 0) ++ beOpt 1 (s.head.map step) ++ beOpt 1 (s.head.map (·.attempt)) ++
      s.sectors.flatMap (fun c => be 1 (sectorStateCode c.state) ++ be 4 (c.first.getD 0) ++ be 1 c.used) ++
      beOpt 1 (s.engine.erase.map (·.sector)) ++ beOpt 1 (s.engine.erase.map (·.count)) ++
      be 4 ((s.pass.map (·.target)).getD 0) ++ be 4 ((s.pass.map (·.next)).getD 0) ++
      beOpt 1 (s.pass.map (fun q => portCode q.port)) ++ be 1 s.pendingMarks.length ++
      [Port.s0, .s1, .s2, .s3].flatMap (fun p => be 4 ((s.port p).stream.getD 0)) := by
  intro step
  have same : step = fun h => stepNumber h.step := by
    funext h
    simp only [step]
    cases h.step <;> rfl
  rw [same, journalData, eraseData_eq]
  simp only [List.append_assoc]
  rfl

theorem queueData_fields (s : State) :
    let jobs := (List.range 16).filterMap (fun slot => (s.job slot).map (fun j => (slot, j)))
    queueData s = be 1 s.freeSlots ++ jobs.flatMap (fun x =>
      be 1 x.1 ++ be 1 (jobKindCode x.2.kind) ++ be 4 (x.2.receipt.getD 0) ++ beOpt 1 (x.2.port.map portCode) ++
      be 1 (jobStateCode x.2.state) ++ be 1 x.2.attempts ++ [flag x.2.restarted] ++ be 4 x.2.age ++
      (if x.2.state = .retryWait then be 1 x.2.wait else [0xFF#8])) ∧
    (queueData s).length = 1 + 15 * jobs.length := by
  intro jobs
  have job (x : Nat × Job) : jobData x.1 x.2 = be 1 x.1 ++ be 1 (jobKindCode x.2.kind) ++ be 4 (x.2.receipt.getD 0) ++
      beOpt 1 (x.2.port.map portCode) ++ be 1 (jobStateCode x.2.state) ++ be 1 x.2.attempts ++ [flag x.2.restarted] ++
      be 4 x.2.age ++ (if x.2.state = .retryWait then be 1 x.2.wait else [0xFF#8]) := by
    rw [jobData]
    split <;> rfl
  refine ⟨?_, length_queueData s⟩
  rw [queueData_eq]
  exact congrArg (fun f : Nat × Job → List Byte => be 1 s.freeSlots ++ jobs.flatMap f) (funext job)

theorem faultData_eq (s : State) (k : FaultKind) :
    faultData s k = [flag (s.fault k).isSome, flag (s.settings.faultMasks.getLsbD (faultIndex k)),
      flag (s.settings.faultStops.getLsbD (faultIndex k))] ++
      (match s.fault k with
        | some r => faultDetailBytes r.detail ++ be 4 r.time
        | none => List.replicate 8 0xFF#8) := by
  rw [faultData]
  cases s.fault k <;> rfl

theorem tallyData_eq (s : State) (source : Byte) (t : Tally) (receipt : Option Nat) (first : Nat) :
    let gs := ((List.range 64).map (· + 1)).filter (fun g => 0 < (t.figures g).lines ∧ first ≤ g)
    tallyData s source t receipt first = [source] ++ be 4 t.shift ++ be 4 t.openTime ++ be 6 t.receipts ++ be 6 t.voids ++
      be 6 t.torn ++ be 6 t.total ++ [flag t.incomplete] ++ be 4 (receipt.getD 0) ++ [flag s.snapshot.isSome] ++
      (gs.take 8).flatMap (fun g => be 6 (t.figures g).net ++ be 6 (t.figures g).payable ++ be 6 (t.figures g).amount ++
        be 6 (t.figures g).lines) ++ (match gs[8]? with | some g => be 1 g | none => [0xFF#8]) := by
  intro gs
  rw [tallyData, nonZeroGrades_from]
  simp only [shiftData, List.append_assoc]
  congr 9

/-- Settles O38: the fields of each read's data, and each read's answer. -/
theorem readRequestsAnswer : Obligations.ReadRequestsAnswer := by
  refine ⟨fun s t => ?_, ticketsInOrder_spec, fun s => ⟨?_, length_clockData s, ?_, length_journalData,
    ?_, ?_, length_printerData s, ?_, fun k => ⟨?_, length_faultData s k⟩, ?_,
    length_firstFaultData _⟩, fun s sc weight => ?_, fun s source t receipt first =>
    ⟨tallyData_eq s source t receipt first, length_tallyData s source t receipt first⟩,
    fun p n part selection s taking => ⟨?_, ?_, fun x mem => ?_⟩, readScale_answers, fun p source first s taking => ?_⟩
  · obtain ⟨part0, length0, part1, length1⟩ := ticketData_eq s t
    exact ⟨part0, length0, part1, length1, listItem_eq s t, rfl⟩
  · rfl
  · exact journalData_eq s
  · exact queueData_fields s
  · exact printerData_eq s
  · rfl
  · exact faultData_eq s k
  · cases s.firstFault <;> rfl
  · exact congrArg₂ (· ++ ·) rfl (captureData_eq _)
  · rw [exec_readTicket, request_taking taking, readTicket_taken]
  · rw [exec_listTickets, request_taking taking, listTickets_taken]
  · simp only [List.mem_cons, List.not_mem_nil, or_false] at mem
    rcases mem with rfl | rfl | rfl | rfl | rfl
    · exact read_answers taking (data := clockData) rfl rfl
    · exact read_answers taking (taken_journalData p s) rfl
    · exact read_answers taking (data := queueData) rfl rfl
    · exact read_answers taking (data := printerData) rfl rfl
    · exact read_answers taking (data := fun s => faultPresence s ++ faultKinds.flatMap (faultData s) ++
        firstFaultData s.firstFault ++ [flag s.faultOutput]) rfl rfl
  · rw [exec_readTally, request_taking taking, readTally_taken] <;> rfl

end Sys2Proof.Machine
end

section
/-! PROOFS. The printer's status bytes (R147, R156, R157). -/

namespace Sys2Proof.Machine

theorem offerPrinterState_eq (s : State) : offerPrinterState s = { s with ports := printerHeard s.pe s } := rfl

theorem interruptJob_idle {s : State} (idle : s.inHand = none) : interruptJob s = s := by
  rw [interruptJob, idle]

/-- The fetch in hand, if any, left to be discarded (R156). -/
def discarded (op : Option EngineOp) : Option EngineOp :=
  match op with
  | some (.fetch n _) => some (.fetch n false)
  | op => op

/-- The job in hand returns to QUEUED as RESTARTED (R156). -/
theorem interruptJob_holds {s : State} {slot : Nat} {j : Job} (hand : s.inHand = some (slot, j)) :
    interruptJob s = { s with
      jobs := s.jobs.set slot (some { j with state := .queued, restarted := true })
      pe := { s.pe with activity := .idle, job := none, responseTimer := none, tx := [] }
      engine := { s.engine with
        current := discarded s.engine.current, reads := s.engine.reads.filter (fun r => r != .fetch) } } := by
  rw [interruptJob, hand] <;> rfl

/-- What PRINTER_STATE tells does not depend on the job in hand. -/
theorem printerHeard_released (e : PrintEngine) (s : State) :
    printerHeard { e with activity := .idle, job := none, responseTimer := none, tx := [] } s = printerHeard e s := rfl

/-- A pause with no job in hand. -/
theorem pauseEngine_idle {s : State} (idle : s.inHand = none) (f : PrintEngine → PrintEngine) :
    pauseEngine f s = settle { s with pe := f (answerQuery s.pe), ports := printerHeard (f (answerQuery s.pe)) s } := by
  rw [pauseEngine, interruptJob_idle idle, offerPrinterState_eq] <;> rfl

/-- A pause that interrupts the job in hand. -/
theorem pauseEngine_holds {s : State} {slot : Nat} {j : Job} (hand : s.inHand = some (slot, j)) (f : PrintEngine → PrintEngine) :
    let e := f (answerQuery { s.pe with activity := .idle, job := none, responseTimer := none, tx := [] })
    pauseEngine f s = settle { s with
      jobs := s.jobs.set slot (some { j with state := .queued, restarted := true })
      pe := e
      engine := { s.engine with
        current := discarded s.engine.current, reads := s.engine.reads.filter (fun r => r != .fetch) }
      ports := printerHeard e s } := by
  rw [pauseEngine, interruptJob_holds hand, offerPrinterState_eq] <;> rfl

/-- Settles O55: PAPER_LOW and the two that make the printer ready change the engine alone; the two pauses interrupt its job. -/
theorem statusBytes : Obligations.StatusBytes := by
  refine ⟨offerPrinterState_eq, fun s powered => ⟨?_, fun x mem => ⟨fun idle => ?_, fun slot j hand => ?_⟩, fun x mem timer => ?_⟩⟩
  · rw [exec_paperLow, execPaperLow, event_powered powered, updPrinter_heard] <;> rfl
  · rcases List.mem_pair.mp mem with rfl | rfl
    · rw [exec_paperOut, execPaperOut, event_powered powered, pauseEngine_idle idle] <;> rfl
    · rw [exec_coverOpen, execCoverOpen, event_powered powered, pauseEngine_idle idle] <;> rfl
  · rcases List.mem_pair.mp mem with rfl | rfl
    · rw [exec_paperOut, execPaperOut, event_powered powered, pauseEngine_holds hand] <;> rfl
    · rw [exec_coverOpen, execCoverOpen, event_powered powered, pauseEngine_holds hand] <;> rfl
  · rcases List.mem_pair.mp mem with rfl | rfl
    · rw [exec_ready, execReady, event_powered powered, updPrinter_heard] <;> rfl
    · rw [exec_statusQueryTimeout, execStatusQueryTimeout, event_powered powered,
        if_pos (Option.isSome_iff_ne_none.mpr (timer rfl)), updPrinter_heard] <;> rfl

end Sys2Proof.Machine
end

section
/-! PROOFS. The print queue: jobs created, jobs that leave their slots, and the backlog walk one examination at a time (R144,
R165). -/

namespace Sys2Proof.Machine

/-! ## Slots -/

theorem job_set_same {s : State} {jobs : List (Option Job)} {slot : Nat} (empty : s.jobs = jobs.set slot none) :
    s.job slot = none := by
  rw [State.job, empty, List.getD_eq_getElem?_getD, List.getElem?_set]
  by_cases inside : slot < jobs.length
  · simp [inside]
  · simp [inside]

theorem job_set_other {s t : State} {slot i : Nat} {x : Option Job} (set : t.jobs = s.jobs.set slot x) (other : i ≠ slot) :
    t.job i = s.job i := by
  rw [State.job, State.job, set, List.getD_eq_getElem?_getD, List.getD_eq_getElem?_getD, List.getElem?_set_ne (Ne.symm other)]

/-- From one state to another a slot has stayed as it is, or a job without a port has been queued in it while it was free. -/
def SlotGrows (i : Nat) (s t : State) : Prop :=
  t.job i = s.job i ∨ (s.job i = none ∧ ∃ b, t.job i = some b ∧ b.port = none ∧ b.state = .queued)

theorem SlotGrows.refl (i : Nat) (s : State) : SlotGrows i s s := .inl rfl

theorem SlotGrows.trans {i : Nat} {s t u : State} (first : SlotGrows i s t) (second : SlotGrows i t u) : SlotGrows i s u := by
  rcases first with same | ⟨free, b, put, queued⟩
  · rcases second with same' | ⟨free, new⟩
    · exact .inl (same'.trans same)
    · exact .inr ⟨same ▸ free, new⟩
  · rcases second with same' | ⟨free', _⟩
    · exact .inr ⟨free, b, same'.trans put, queued⟩
    · exact absurd (put.symm.trans free') (Option.some_ne_none b)

theorem SlotGrows.left {slot : Nat} {s u : State} (grows : SlotGrows slot s u) (left : SlotLeft slot s) : SlotLeft slot u := by
  rcases grows with same | ⟨_, new⟩
  · rw [SlotLeft, same]
    exact left
  · exact .inr new

theorem SlotGrows.stays {i : Nat} {s u : State} (grows : SlotGrows i s u) {k : Job} (held : s.job i = some k) :
    u.job i = some k := by
  rcases grows with same | ⟨free, _⟩
  · exact same.trans held
  · exact absurd (held.symm.trans free) (Option.some_ne_none k)

/-- From one state to another jobs without a port have been queued in free slots, and no other slot has changed. -/
def QueueGrows (s t : State) : Prop := ∀ i, SlotGrows i s t

theorem QueueGrows.refl (s : State) : QueueGrows s s := fun i => .refl i s

theorem QueueGrows.of_jobs {s t : State} (same : t.jobs = s.jobs) : QueueGrows s t :=
  fun i => .inl (by rw [State.job, State.job, same])

theorem QueueGrows.trans {s t u : State} (first : QueueGrows s t) (second : QueueGrows t u) : QueueGrows s u :=
  fun i => (first i).trans (second i)

theorem job_free {s : State} {slot : Nat} (lowest : s.jobs.findIdx? Option.isNone = some slot) : s.job slot = none := by
  obtain ⟨inside, free, -⟩ := List.findIdx?_eq_some_iff_getElem.mp lowest
  rw [State.job, List.getD_eq_getElem _ _ inside]
  exact Option.isNone_iff_eq_none.mp free

theorem createJob_grows (kind : JobKind) (receipt : Option Nat) (s : State) :
    QueueGrows s (createJob kind receipt none .queued s) := by
  rw [createJob_eq]
  cases lowest : s.jobs.findIdx? Option.isNone with
  | none => exact .refl s
  | some slot =>
    intro i
    by_cases own : i = slot
    · obtain ⟨inside, -, -⟩ := List.findIdx?_eq_some_iff_getElem.mp lowest
      refine .inr ⟨own ▸ job_free lowest, ⟨kind, receipt, none, .queued, 0, false, s.ageCounter, 0⟩, ?_, rfl, rfl⟩
      rw [own, State.job, List.getD_eq_getElem?_getD, List.getElem?_set_self inside]
      rfl
    · exact .inl (job_set_other rfl own)

theorem examineBacklog_grows (n : Nat) (s : State) : QueueGrows s (examineBacklog n s) := by
  rw [examineBacklog_eq]
  cases s.walkCreates n with
  | none => exact .refl s
  | some kind => exact createJob_grows kind (some n) s

theorem walkBacklog_grows (fuel : Nat) (s : State) : QueueGrows s (walkBacklog fuel s) := by
  induction fuel generalizing s with
  | zero => exact .refl s
  | succ fuel ih =>
    rw [walkBacklog]
    cases s.backlog with
    | none => exact .refl s
    | some b =>
      dsimp only
      split
      · cases (s.retainedFrom b.next).filter (· ≤ b.last) with
        | none => exact .of_jobs rfl
        | some n => exact ((examineBacklog_grows n s).trans (.of_jobs rfl)).trans (ih _)
      · exact .refl s

theorem testBacklog_grows (s : State) : QueueGrows s (testBacklog s) := walkBacklog_grows _ s

/-- A slot that is freed holds no job, or one of the backlog walk. -/
theorem slotFreed_left (slot : Nat) (s : State) : SlotLeft slot (slotFreed slot s) :=
  (testBacklog_grows _ slot).left (.inl (job_set_same rfl))

theorem slotFreed_grows {slot i : Nat} (other : i ≠ slot) (s : State) : SlotGrows i s (slotFreed slot s) :=
  SlotGrows.trans (.inl (job_set_other rfl other)) (testBacklog_grows _ i)

/-- A slot that is freed leaves the jobs in the others. -/
theorem slotFreed_stays {slot i : Nat} {s : State} {k : Job} (other : i ≠ slot) (held : s.job i = some k) :
    (slotFreed slot s).job i = some k := (slotFreed_grows other s).stays held

theorem slotFreed_frame (slot : Nat) (s : State) : slotFreed slot s = { s with
    jobs := (slotFreed slot s).jobs, backlog := (slotFreed slot s).backlog
    ageCounter := (slotFreed slot s).ageCounter, free := (slotFreed slot s).free } :=
  testBacklog_frame { s with jobs := s.jobs.set slot none }

theorem removeJob_eq (slot : Nat) (s : State) : removeJob slot s = slotFreed slot s := rfl

/-! ## What the walk asks of the queue -/

theorem markPending_iff (s : State) (n : Nat) : s.markPending n = true ↔ ∃ m ∈ s.pendingMarks, m.receipt = n := by
  simp only [State.markPending, List.any_eq_true, beq_iff_eq]

theorem firstPrint_iff (k : JobKind) : firstPrint k = true ↔ k = .original ∨ k = .voidSlip ∨ k = .shiftReport := by
  simp only [firstPrint, Bool.or_eq_true, beq_iff_eq, or_assoc]

theorem hasFirstPrint_iff (s : State) (n : Nat) : s.hasFirstPrint n = true ↔
    ∃ j, some j ∈ s.jobs ∧ (j.kind = .original ∨ j.kind = .voidSlip ∨ j.kind = .shiftReport) ∧ j.receipt = some n := by
  rw [State.hasFirstPrint, List.any_eq_true]
  constructor
  · rintro ⟨x, mem, holds⟩
    cases x with
    | none => exact absurd holds Bool.false_ne_true
    | some j =>
      obtain ⟨kind, receipt⟩ := (Bool.and_eq_true _ _).mp holds
      exact ⟨j, mem, (firstPrint_iff _).mp kind, beq_iff_eq.mp receipt⟩
  · rintro ⟨j, mem, kind, receipt⟩
    exact ⟨some j, mem, (Bool.and_eq_true _ _).mpr ⟨(firstPrint_iff _).mpr kind, beq_iff_eq.mpr receipt⟩⟩

theorem freeSlots_eq_zero_iff (s : State) : s.freeSlots = 0 ↔ none ∉ s.jobs := by
  rw [State.freeSlots, List.countP_eq_zero]
  constructor
  · exact fun full mem => full none mem rfl
  · rintro full x mem free
    exact full (Option.isNone_iff_eq_none.mp free ▸ mem)

theorem backlogJobs_eq (s : State) : s.backlogJobs = s.jobs.countP (fun x => x.any (fun j => j.port.isNone)) := by
  refine congrArg (fun f => s.jobs.countP f) (funext fun x => ?_)
  cases x <;> rfl

/-- The walk goes on: fewer than 8 jobs without a port, a free slot, and its next number not past its end. -/
theorem walks_iff (s : State) (b : Backlog) : s.walks b ↔
    ¬ (8 ≤ s.jobs.countP (fun x => x.any (fun j => j.port.isNone)) ∨ none ∉ s.jobs ∨ b.last < b.next) := by
  have free := freeSlots_eq_zero_iff s
  have jobs := backlogJobs_eq s
  rw [← free, ← jobs]
  constructor
  · rintro ⟨few, room, open'⟩
    omega
  · intro goes
    exact ⟨by omega, by omega, by omega⟩

theorem entryMark_eq_some_iff (s : State) (n : Nat) (m : Mark) :
    s.entryMark n = some m ↔ ∃ i slot, s.lookup n = some (i, slot) ∧ s.slotMark i slot = m := by
  rw [State.entryMark]
  cases s.lookup n with
  | none => simp
  | some x =>
    obtain ⟨i, slot⟩ := x
    simp

/-- The entry at a number waits for its first print (R165). -/
abbrev State.awaitsPrint (s : State) (n : Nat) : Prop :=
  s.entryMark n = some .complete ∧ (∀ m ∈ s.pendingMarks, m.receipt ≠ n) ∧
    ∀ j, some j ∈ s.jobs → (j.kind = .original ∨ j.kind = .voidSlip ∨ j.kind = .shiftReport) → j.receipt ≠ some n

theorem awaitsPrint_iff (s : State) (n : Nat) :
    s.awaitsPrint n ↔ s.entryMark n = some .complete ∧ s.markPending n = false ∧ s.hasFirstPrint n = false := by
  rw [State.awaitsPrint, ← Bool.not_eq_true (s.markPending n), ← Bool.not_eq_true (s.hasFirstPrint n), markPending_iff,
    hasFirstPrint_iff]
  push Not
  rfl

theorem walkCreates_eq {s : State} {n i slot : Nat} (place : s.lookup n = some (i, slot)) (awaits : s.awaitsPrint n) :
    s.walkCreates n = some (printKind (kindOf ((s.sector i).kinds.getD slot 0#8))) := by
  obtain ⟨complete, pending, queued⟩ := (awaitsPrint_iff s n).mp awaits
  obtain ⟨i', slot', place', mark⟩ := (entryMark_eq_some_iff s n .complete).mp complete
  rw [place, Option.some_inj, Prod.mk.injEq] at place'
  obtain ⟨rfl, rfl⟩ := place'
  rw [State.walkCreates, place, Option.bind_some, if_pos ⟨mark, by rw [pending]; rfl, by rw [queued]; rfl⟩]

theorem walkCreates_none {s : State} {n : Nat} (printed : ¬ s.awaitsPrint n) : s.walkCreates n = none := by
  rw [State.walkCreates]
  cases place : s.lookup n with
  | none => rfl
  | some x =>
    obtain ⟨i, slot⟩ := x
    refine if_neg ?_
    rintro ⟨mark, pending, queued⟩
    exact printed ((awaitsPrint_iff s n).mpr ⟨(entryMark_eq_some_iff s n _).mpr ⟨i, slot, place, mark⟩,
      (Bool.not_eq_true' _).mp pending, (Bool.not_eq_true' _).mp queued⟩)

/-- The kind byte of a header gives the kind of the first print (R165). -/
theorem printKind_kindOf (b : Byte) : let kind := printKind (kindOf b)
    (kind = .original ∨ kind = .voidSlip ∨ kind = .shiftReport) ∧ (b = 1#8 → kind = .original) ∧ (b = 2#8 → kind = .voidSlip) ∧
      (b = 3#8 → kind = .shiftReport) := by
  intro kind
  refine ⟨?_, fun one => ?_, fun two => ?_, fun three => ?_⟩
  · simp only [kind]
    cases kindOf b with
    | payout => exact .inl rfl
    | void => exact .inr (.inl rfl)
    | shift => exact .inr (.inr rfl)
  · simp only [kind, one]
    rfl
  · simp only [kind, two]
    rfl
  · simp only [kind, three]
    rfl

/-- One examination of the walk, which then goes on from the next number. -/
theorem testBacklog_goesOn {s : State} {b : Backlog} (pending : s.backlog = some b) (walks : s.walks b) :
    testBacklog s = testBacklog ((examineBacklog b.next s).withWalk (if b.next = b.last then none else some ⟨b.next + 1, b.last⟩)) := by
  have risen : b.risen = if b.next = b.last then none else some ⟨b.next + 1, b.last⟩ := by
    obtain ⟨-, -, open'⟩ := walks
    rw [Backlog.risen]
    by_cases last : b.next = b.last
    · rw [if_pos last, if_pos (by omega)]
    · rw [if_neg last, if_neg (by omega)]
  rw [testBacklog_examines pending walks, risen]

end Sys2Proof.Machine
end

section
/-! PROOFS. The requests on the print queue and the backlog walk (R144, R152, R155, R159, R160, R165). -/

namespace Sys2Proof.Machine

theorem exec_printReceipt (p : Port) (receipt : Word) (s : State) :
    exec (.printReceipt p receipt) s = request p s (printReceipt p receipt) := rfl

theorem exec_cancelPrint (p : Port) (slot kind : Byte) (receipt : Word) (s : State) :
    exec (.cancelPrint p slot kind receipt) s = request p s (cancelPrint p slot kind receipt) := rfl

theorem exec_restorePrinter (p : Port) (s : State) : exec (.restorePrinter p) s = request p s (restorePrinter p) := rfl

/-! ## PRINT RECEIPT (R159) -/

theorem printableEntry_eq_false_iff (s : State) (n : Nat) : s.printable n = false ↔
    s.entryMark n ≠ some .complete ∧ s.entryMark n ≠ some .printed ∧ s.entryMark n ≠ some .audited := by
  rw [State.printable, Bool.or_eq_false_iff, Bool.or_eq_false_iff, beq_eq_false_iff_ne, beq_eq_false_iff_ne, beq_eq_false_iff_ne,
    and_assoc]

theorem unprinted_iff (s : State) (n : Nat) : s.unprinted n = true ↔ s.entryMark n = some .complete ∧ s.markPending n = false := by
  rw [State.unprinted, Bool.and_eq_true, beq_iff_eq, Bool.not_eq_true']

theorem printed_eq_false_iff (s : State) (n : Nat) : (!(s.unprinted n && s.hasFirstPrint n)) = false ↔
    (s.entryMark n = some .complete ∧ s.markPending n = false) ∧ s.hasFirstPrint n = true := by
  rw [Bool.not_eq_false', Bool.and_eq_true, unprinted_iff]

theorem slots_eq_false_iff (n : Nat) : decide (0 < n) = false ↔ n = 0 := by
  rw [decide_eq_false_iff_not]
  omega

/-- The kind of the job that PRINT RECEIPT queues (R159). -/
def receiptJob (s : State) (n : Nat) : JobKind :=
  if s.entryMark n = some .complete ∧ s.markPending n = false then .original else .duplicate

theorem receiptJob_eq (s : State) (n : Nat) : (if s.unprinted n then JobKind.original else .duplicate) = receiptJob s n :=
  if_congr (unprinted_iff s n) rfl rfl

theorem printReceipt_taken (p : Port) (receipt : Word) (s : State) :
    let n := receipt.toNat
    let mark := s.entryMark n
    printReceipt p receipt (taken p s) =
      if s.role p ≠ .window ∧ s.role p ≠ .office then answered p .role [] s
      else if s.mode ≠ .run then answered p .mode [] s
      else if mark ≠ some .complete ∧ mark ≠ some .printed ∧ mark ≠ some .audited then answered p .range [] s
      else if (mark = some .complete ∧ s.markPending n = false) ∧ s.hasFirstPrint n = true then answered p .state [] s
      else if s.freeSlots = 0 then answered p .queueFull [] s
      else settle (reply p .ok (be 1 ((s.jobs.findIdx? Option.isNone).getD 16) ++ be 1 (jobKindCode (receiptJob s n)))
        (createJob (receiptJob s n) (some n) (some p) .queued (taken p s))) := by
  intro n mark
  have kind := receiptJob_eq (taken p s) n
  rw [receiptJob, taken_entryMark, taken_markPending] at kind
  rw [printReceipt, guarded_cons_of_iff (isWindowOrOffice_eq_false_iff _ p), guarded_cons_of_iff (isRun_eq_false_iff _),
    guarded_cons_of_iff (printableEntry_eq_false_iff _ _), guarded_cons_of_iff (printed_eq_false_iff _ _),
    guarded_cons_of_iff (slots_eq_false_iff _), guarded_nil, kind, taken_entryMark, taken_markPending, taken_hasFirstPrint]
  rfl

/-! ## CANCEL PRINT (R160) -/

theorem jobKindOf_iff (b : Byte) (k : JobKind) : jobKindOf b = some k ↔ b.toNat = jobKindCode k := by
  simp only [jobKindOf, BitVec.toNat_eq, BitVec.toNat_ofNat, Nat.reducePow, Nat.reduceMod]
  cases k <;> split_ifs <;> simp [jobKindCode] <;> omega

theorem namedJob_eq_some_iff (s : State) (slot kind : Byte) (receipt : Word) (j : Job) :
    s.namedJob slot kind receipt = some j ↔ slot.toNat ≤ 15 ∧ s.job slot.toNat = some j ∧ kind.toNat = jobKindCode j.kind ∧
      receipt.toNat = j.receipt.getD 0 := by
  rw [State.namedJob, Option.filter_eq_some_iff]
  simp only [Bool.and_eq_true, decide_eq_true_eq, beq_iff_eq, jobKindOf_iff]
  constructor
  · rintro ⟨held, ⟨inside, code⟩, number⟩
    exact ⟨inside, held, code, number.symm⟩
  · rintro ⟨inside, held, code, number⟩
    exact ⟨held, ⟨inside, code⟩, number.symm⟩

theorem cancelPrint_taken (p : Port) (slot kind : Byte) (receipt : Word) (s : State) :
    cancelPrint p slot kind receipt (taken p s) =
      if s.role p ≠ .window ∧ s.role p ≠ .office then answered p .role [] s
      else if s.mode = .starting then answered p .mode [] s
      else (s.namedJob slot kind receipt).elim (answered p .range [] s) fun j =>
        if ¬ (s.role p = .office ∨ (j.kind = .duplicate ∧ j.port = some p)) then answered p .role [] s
        else if j.state = .reserved then answered p .state [] s
        else if j.state = .printing then answered p .tooLate [] s
        else settle (reply p .ok (be 1 (jobKindCode j.kind) ++ beReceipt j.receipt)
          (endSnapshot j.kind (removeJob slot.toNat (taken p s)))) := by
  have own (j : Job) : (s.isOffice p || (j.kind == .duplicate && j.port == some p)) = false ↔
      ¬ (s.role p = .office ∨ (j.kind = .duplicate ∧ j.port = some p)) := by
    rw [Bool.or_eq_false_iff, isOffice_eq_false_iff, ← Bool.not_eq_true, Bool.and_eq_true, beq_iff_eq, beq_iff_eq, not_or]
  have reserved (j : Job) (st : JobState) : (j.state != st) = false ↔ j.state = st := bne_eq_false_iff_eq
  rw [cancelPrint, guarded_cons_of_iff (isWindowOrOffice_eq_false_iff _ p), guarded_cons_of_iff (started_eq_false_iff _),
    guarded_nil, taken_namedJob]
  cases s.namedJob slot kind receipt with
  | none => rfl
  | some j =>
    dsimp only
    rw [taken_isOffice, guarded_cons_of_iff (own j), guarded_cons_of_iff (reserved j _), guarded_cons_of_iff (reserved j _),
      guarded_nil]
    rfl

/-- The job that CANCEL PRINT removes leaves its slot; a TALLY's snapshot goes with it (R160, R171). -/
theorem cancelled_eq (k : JobKind) (slot : Nat) (p : Port) (s : State) :
    let freed := slotFreed slot (taken p s)
    endSnapshot k (removeJob slot (taken p s)) = { taken p s with
      jobs := freed.jobs, backlog := freed.backlog, ageCounter := freed.ageCounter, free := freed.free
      snapshot := if k = .tally then none else s.snapshot } := by
  intro freed
  rw [removeJob_eq, endSnapshot, slotFreed_frame slot (taken p s)]
  by_cases tally : k = .tally
  · rw [if_pos tally, if_pos tally]
  · rw [if_neg tally, if_neg tally]
    rfl

theorem restorePrinter_taken (p : Port) (s : State) : restorePrinter p (taken p s) =
    if s.role p ≠ .window ∧ s.role p ≠ .office then answered p .role [] s
    else if s.mode = .starting then answered p .mode [] s
    else settle (reply p .ok (be 1 s.pe.linkErrors)
      (printerBecomes { s.pe with linkErrors := 0, link := .normal } (taken p s))) := by
  rw [restorePrinter, guarded_cons_of_iff (isWindowOrOffice_eq_false_iff _ p), guarded_cons_of_iff (started_eq_false_iff _),
    guarded_nil, updPrinter_heard]
  rfl

/-! ## The wait of a job and a job's creation (R144, R152) -/

theorem retryEnded_waits {s : State} {slot : Nat} {j : Job} (held : s.job slot = some j) (waits : j.state = .retryWait) :
    retryEnded slot s = settle (s.setJob slot (some { j with state := .queued, wait := 0 })) := by
  rw [retryEnded, held]
  exact if_pos waits

theorem retryEnded_other {s : State} {slot : Nat} (other : ∀ j, s.job slot = some j → j.state ≠ .retryWait) :
    retryEnded slot s = s := by
  rw [retryEnded]
  cases held : s.job slot with
  | none => rfl
  | some j => exact if_neg (other j held)

theorem createJob_full {s : State} (full : none ∉ s.jobs) (kind : JobKind) (receipt : Option Nat) (port : Option Port)
    (st : JobState) : createJob kind receipt port st s = s := by
  have none' : s.jobs.findIdx? Option.isNone = none :=
    List.findIdx?_eq_none_iff.mpr fun x mem => by
      cases x with
      | none => exact absurd mem full
      | some j => rfl
  rw [createJob_eq, none']

theorem createJob_free {s : State} {i : Nat} (lowest : s.jobs.findIdx? Option.isNone = some i) (kind : JobKind)
    (receipt : Option Nat) (port : Option Port) (st : JobState) : ∃ age free,
    (s.ageCounter + 1 < 2 ^ 32 → age = s.ageCounter + 1 ∧ free = s.free) ∧
    createJob kind receipt port st s = { s with
      jobs := s.jobs.set i (some ⟨kind, receipt, port, st, 0, false, s.ageCounter, 0⟩), ageCounter := age, free := free } := by
  rw [createJob_eq, lowest]
  exact ⟨_, _, fun fits => ⟨if_pos fits, if_pos fits⟩, rfl⟩

/-! ## The obligation -/

/-- The walk that a freed slot starts, and what it reads of the queue. -/
theorem backlogWalk (s : State) :
    let firstPrint (j : Job) : Prop := j.kind = .original ∨ j.kind = .voidSlip ∨ j.kind = .shiftReport
    let stands : Prop := s.backlog = none ∨ ∃ b, s.backlog = some b ∧
      (8 ≤ s.jobs.countP (fun x => x.any (fun j => j.port.isNone)) ∨ none ∉ s.jobs ∨ b.last < b.next)
    (stands → testBacklog s = s) ∧
    (∀ b, s.backlog = some b → ¬ stands →
      let n := b.next
      let goesOn (x : State) : State := testBacklog { x with backlog := if n = b.last then none else some ⟨n + 1, b.last⟩ }
      let unprinted := s.entryMark n = some .complete ∧ (∀ m ∈ s.pendingMarks, m.receipt ≠ n) ∧
        ∀ j, some j ∈ s.jobs → firstPrint j → j.receipt ≠ some n
      (¬ unprinted → testBacklog s = goesOn s) ∧
      (∀ i slot, unprinted → s.lookup n = some (i, slot) →
        let byte := (s.sector i).kinds.getD slot 0#8
        ∃ kind, testBacklog s = goesOn (createJob kind (some n) none .queued s) ∧
          (kind = .original ∨ kind = .voidSlip ∨ kind = .shiftReport) ∧ (byte = 1#8 → kind = .original) ∧
          (byte = 2#8 → kind = .voidSlip) ∧ (byte = 3#8 → kind = .shiftReport))) := by
  intro firstPrint stands
  refine ⟨fun still => testBacklog_stands fun b pending walks => ?_, fun b pending goes => ?_⟩
  · rcases still with none | ⟨b', pending', holds⟩
    · exact absurd (pending.symm.trans none) (Option.some_ne_none b)
    · obtain rfl := Option.some_inj.mp (pending.symm.trans pending')
      exact (walks_iff s b).mp walks holds
  · intro n goesOn unprinted
    have walks : s.walks b := (walks_iff s b).mpr fun holds => goes (.inr ⟨b, pending, holds⟩)
    have examined := testBacklog_goesOn pending walks
    rw [examineBacklog_eq] at examined
    refine ⟨fun printed => ?_, fun i slot awaits place => ?_⟩
    · rw [walkCreates_none printed] at examined
      exact examined
    · rw [walkCreates_eq place awaits] at examined
      exact ⟨_, examined, printKind_kindOf _⟩

/-- Each answer of CANCEL PRINT, check by check. -/
theorem cancelPrint_answers (p : Port) (receipt : Word) (slot kind : Byte) (s : State) (taking : Taking p s) :
    let refused (code : ResultCode) : Prop := exec (.cancelPrint p slot kind receipt) s = .next (answered p code [] s)
    let named (j : Job) : Prop := slot.toNat ≤ 15 ∧ s.job slot.toNat = some j ∧ kind.toNat = jobKindCode j.kind ∧
      receipt.toNat = j.receipt.getD 0
    let admitted := s.role p = .window ∨ s.role p = .office
    (¬ admitted → refused .role) ∧
    (admitted → s.mode = .starting → refused .mode) ∧
    (admitted → s.mode ≠ .starting → (∀ j, ¬ named j) → refused .range) ∧
    (∀ j, admitted → s.mode ≠ .starting → named j →
      let own := s.role p = .office ∨ (j.kind = .duplicate ∧ j.port = some p)
      (¬ own → refused .role) ∧
      (own → j.state = .reserved → refused .state) ∧
      (own → j.state = .printing → refused .tooLate) ∧
      (own → j.state ≠ .reserved → j.state ≠ .printing →
        let freed := slotFreed slot.toNat (taken p s)
        let u : State := { taken p s with
          jobs := freed.jobs, backlog := freed.backlog, ageCounter := freed.ageCounter, free := freed.free
          snapshot := if j.kind = .tally then none else s.snapshot }
        exec (.cancelPrint p slot kind receipt) s =
          .next (settle (reply p .ok (be 1 (jobKindCode j.kind) ++ be 4 (j.receipt.getD 0)) u)) ∧
        SlotLeft slot.toNat u ∧ ∀ i k, i ≠ slot.toNat → s.job i = some k → u.job i = some k)) := by
  intro refused named admitted
  have role : admitted ↔ ¬ (s.role p ≠ .window ∧ s.role p ≠ .office) := by
    rw [not_and_or, not_not, not_not]
  simp only [refused]
  rw [exec_cancelPrint, request_taking taking, cancelPrint_taken]
  refine ⟨fun other => ?_, fun ok starting => ?_, fun ok started unnamed => ?_, fun j ok started holds => ?_⟩
  · rw [if_pos (not_not.mp (mt role.mpr other))]
  · rw [if_neg (role.mp ok), if_pos starting]
  · have nothing : s.namedJob slot kind receipt = none :=
      Option.eq_none_iff_forall_ne_some.mpr fun j found => unnamed j ((namedJob_eq_some_iff ..).mp found)
    rw [if_neg (role.mp ok), if_neg started, nothing, Option.elim_none]
  · rw [if_neg (role.mp ok), if_neg started, (namedJob_eq_some_iff ..).mpr holds, Option.elim_some]
    refine ⟨fun other => ?_, fun own reserved => ?_, fun own printing => ?_, fun own waiting still => ?_⟩
    · rw [if_pos other]
    · rw [if_neg (not_not.mpr own), if_pos reserved]
    · rw [if_neg (not_not.mpr own), if_neg (by rw [printing]; decide), if_pos printing]
    · rw [if_neg (not_not.mpr own), if_neg waiting, if_neg still, cancelled_eq]
      exact ⟨rfl, slotFreed_left _ (taken p s), fun i k other held => slotFreed_stays (s := taken p s) other held⟩

/-- Settles O56: the walk's tests and examinations, the three requests by their checks, the end of a wait and a job's creation. -/
theorem printQueueRequests : Obligations.PrintQueueRequests := by
  refine ⟨fun s => ?_, rfl, fun p receipt slot kind s taking => ⟨?_, cancelPrint_answers p receipt slot kind s taking, ?_⟩,
    fun slot s powered => ⟨fun j held waits => ?_, fun other => ?_⟩,
    fun kind receipt port st s => ⟨fun full => createJob_full full .., fun i lowest => createJob_free lowest ..⟩⟩
  · obtain ⟨still, goes⟩ := backlogWalk s
    exact ⟨markPending_iff s, hasFirstPrint_iff s, fun slot => ⟨rfl, rfl⟩, still, goes, _, _, _, _, testBacklog_frame s⟩
  · rw [exec_printReceipt, request_taking taking, printReceipt_taken]
    rfl
  · rw [exec_restorePrinter, request_taking taking, restorePrinter_taken]
  · rw [exec_retryWait, execRetryWait, event_powered powered, retryEnded_waits held waits]
  · rw [exec_retryWait, execRetryWait, event_powered powered, retryEnded_other other]

end Sys2Proof.Machine
end

section
/-! PROOFS. The text of a print (R149, R158, R171, R214). -/

namespace Sys2Proof.Machine

theorem jobText_eq (s : State) (k : Job) (timeUnset : Bool) (body : List (List Byte)) :
    let marker (on : Bool) (word : String) : List (List Byte) := if on then [padRight (ascii word)] else []
    jobText s k timeUnset body = (s.settings.headers ++ marker (k.kind == .duplicate) "DUPLICATE" ++
      marker k.restarted "RESTARTED" ++ marker timeUnset "TIME NOT SET" ++ body ++ [List.replicate 32 0x2D#8]).flatMap
        (fun l => l ++ [0x0A#8]) ++ [0x1D#8] := by
  intro marker
  have duplicate : marker (k.kind == .duplicate) "DUPLICATE" = if k.kind = .duplicate then labelLine "DUPLICATE" else [] :=
    if_congr beq_iff_eq rfl rfl
  rw [duplicate]
  rfl

theorem padRight_fits {t : List Byte} (fits : t.length ≤ 32) : padRight t = t ++ List.replicate (32 - t.length) 0x20#8 := by
  rw [padRight, List.take_append, List.take_of_length_le fits, List.take_replicate, Nat.min_eq_left (Nat.sub_le _ _)]

theorem field_eq (label : String) (value : List Byte) :
    let l := ascii label
    let spaces (n : Nat) : List Byte := List.replicate n 0x20#8
    (l.length + value.length ≤ 32 → field label value = [l ++ spaces (32 - l.length - value.length) ++ value]) ∧
    (l.length ≤ 32 → 32 < l.length + value.length →
      field label value = [l ++ spaces (32 - l.length), spaces (32 - value.length) ++ value]) := by
  intro l spaces
  refine ⟨fun both => if_pos both, fun fits beyond => ?_⟩
  refine (if_neg (Nat.not_le.mpr beyond)).trans ?_
  rw [padRight_fits fits]
  rfl

theorem fieldOpt_eq (label : String) (v : Option (List Byte)) : fieldOpt label v = v.elim [] (field label) := by
  cases v <;> rfl

/-- The bodies of the three kinds of entry (R158). -/
theorem entryBody_eq (s : State) (e : List Byte) :
    let num (label : String) (off len : Nat) := field label (decimal (entryNat e off len))
    let time (label : String) (off : Nat) := field label (dateTime (entryNat e off 4))
    let kg (label : String) (w : Nat) := field label (fixedPoint 1 w)
    let word (w : String) : List (List Byte) := [padRight (ascii w)]
    let shown (on : Bool) (ls : List (List Byte)) : List (List Byte) := if on then ls else []
    let opt (label : String) (v : Option (List Byte)) : List (List Byte) := v.elim [] (field label)
    let closed := entryFlag e 1
    let ticket := num "TICKET NUMBER" 18 2 ++ time "OPENED TIME" 20
    let ids := opt "VEHICLE ID" (entryText e 28 10) ++ opt "SELLER ID" (entryText e 39 16)
    let grade (l : Line) : List (List Byte) := [padRight (decimal l.grade ++ [0x20#8] ++ (s.grade l.grade).name)]
    let counters := num "CALIBRATION COUNTER A" 60 1 ++ num "CALIBRATION COUNTER B" 61 1 ++ num "CALIBRATION COUNTER P" 62 1
    let total := field "TOTAL" (fixedPoint 2 (entryNat e 200 4))
    (entryKind e = .payout → entryBody s e =
      num "RECEIPT NUMBER" 1 4 ++ time "COMMITTED TIME" 6 ++ ticket ++ shown closed (time "CLOSED TIME" 24) ++ ids ++
      (entryLines e).flatMap (fun l => grade l ++ kg "NET WEIGHT" l.net ++ kg "DOCK WEIGHT" l.dock ++
        kg "PAYABLE WEIGHT" (l.net - l.dock) ++ opt "LATCHED PRICE" (l.price.map (fixedPoint 3)) ++
        opt "AMOUNT" (l.amount.map (fixedPoint 2))) ++
      shown closed ((if entryFlag e 2 then field "TARE SOURCE" (ascii "STORED") ++ kg "STORED TARE WEIGHT" (entryNat e 56 4)
        else field "TARE SOURCE" (ascii "WEIGHED")) ++ total) ++
      (if entryFlag e 4 then word "HOLD ENDED EARLY" else shown (entryFlag e 3) (time "HOLD EXPIRY" 64)) ++ counters) ∧
    (entryKind e = .void → entryBody s e =
      word "VOID" ++ num "RECEIPT NUMBER" 1 4 ++ time "COMMITTED TIME" 6 ++ num "VOID REASON" 63 1 ++ ticket ++ ids ++
      (entryLines e).flatMap (fun l => grade l ++ kg "NET WEIGHT" l.net ++ kg "DOCK WEIGHT" l.dock ++
        opt "PRICE" (l.price.map (fixedPoint 3)) ++ opt "AMOUNT" (l.amount.map (fixedPoint 2))) ++
      shown closed total ++ counters) ∧
    (entryKind e = .shift → entryBody s e =
      word "SHIFT CLOSE" ++ num "RECEIPT NUMBER" 1 4 ++ time "COMMITTED TIME" 6 ++ num "SHIFT NUMBER" 204 4 ++
      time "OPEN TIME" 208 ++ num "RECEIPTS COMMITTED" 212 4 ++ num "VOIDS" 216 4 ++ num "TORN ENTRIES FOUND" 220 4 ++
      field "TOTAL AMOUNT" (fixedPoint 2 (entryNat e 224 6)) ++ shown (entryNat e 230 1 != 0) (word "INCOMPLETE")) := by
  intro num time kg word shown opt closed ticket ids grade counters total
  refine ⟨fun kind => ?_, fun kind => ?_, fun kind => ?_⟩
  · rw [entryBody, kind]
    simp only [payoutBody, fieldOpt_eq, List.append_assoc, ids]
    rfl
  · rw [entryBody, kind]
    simp only [voidBody, fieldOpt_eq, List.append_assoc, ids]
    rfl
  · have incomplete : shown (entryNat e 230 1 != 0) (word "INCOMPLETE") =
        if entryNat e 230 1 = 0 then [] else labelLine "INCOMPLETE" := by
      by_cases zero : entryNat e 230 1 = 0
      · rw [if_pos zero]
        exact if_neg (by rw [zero]; decide)
      · rw [if_neg zero]
        exact if_pos (bne_iff_ne.mpr zero)
    rw [entryBody, kind, incomplete]
    rfl

theorem flatMap_filter {α β : Type} (p : α → Bool) (f : α → List β) (l : List α) :
    (l.filter p).flatMap f = l.flatMap (fun a => if p a then f a else []) := by
  induction l with
  | nil => rfl
  | cons a l ih =>
    rw [List.filter_cons, List.flatMap_cons, ← ih]
    split <;> rfl

/-- The body of a TALLY job (R171). -/
theorem tallyBody_eq (s : State) (n : Snapshot) :
    let num (label : String) (x : Nat) := field label (decimal x)
    tallyBody s n = [padRight (ascii "SHIFT TALLY")] ++ num "SHIFT NUMBER" n.tally.shift ++
      (if n.tally.incomplete then [padRight (ascii "INCOMPLETE")] else []) ++
      ((List.range 64).map (· + 1)).flatMap (fun g =>
        let f := n.tally.grades.getD (g - 1) ⟨0, 0, 0, 0⟩
        if f.lines = 0 then [] else
          [padRight (decimal g ++ [0x20#8] ++ (s.grade g).name)] ++ num "LINE COUNT" f.lines ++
          field "NET WEIGHT" (fixedPoint 1 f.net) ++ field "PAYABLE WEIGHT" (fixedPoint 1 f.payable) ++
          field "AMOUNT" (fixedPoint 2 f.amount)) ++
      field "TOTAL AMOUNT" (fixedPoint 2 n.tally.total) ++ num "RECEIPT NUMBER" n.receipt := by
  intro num
  rw [tallyBody, Tally.nonZeroGrades, flatMap_filter]
  congr 3
  refine List.flatMap_congr fun g _ => ?_
  by_cases none : (n.tally.figures g).lines = 0
  · refine (if_neg ?_).trans (if_pos none).symm
    rw [GradeFigures.nonZero, none]
    decide
  · refine (if_pos ?_).trans (if_neg none).symm
    exact decide_eq_true (Nat.pos_of_ne_zero none)

end Sys2Proof.Machine
end

section
/-! PROOFS. The job in hand: its fetch, its transmission, its answer and its end (R148 to R157). -/

namespace Sys2Proof.Machine

/-! ## PRINT_ABANDONED (R148, R153) -/

/-- The four ports' contexts, each as a function gives it. -/
def portsOf (f : Port → PortCtx) : PerPort PortCtx := ⟨f .s0, f .s1, f .s2, f .s3⟩

/-- A port after a broadcast to the OFFICE-role ports other than one. -/
def officeHears (except : Option Port) (n : Notice) (s : State) (v : PerPort PortCtx) (p : Port) : PortCtx :=
  if s.role p = .office ∧ except ≠ some p then hear n (v.get p) else v.get p

theorem broadcastOffice_eq (except : Option Port) (n : Notice) (s : State) (v : PerPort PortCtx) :
    broadcastOffice except n (s.withPorts v) = s.withPorts (portsOf (officeHears except n s v)) := by
  have step (v : PerPort PortCtx) (p : Port) :
      (if ((s.withPorts v).portSettings p).role = .office ∧ except ≠ some p then (s.withPorts v).updPort p (hear n)
        else s.withPorts v) = s.withPorts (v.set p (officeHears except n s v p)) := by
    rw [officeHears]
    by_cases heard : s.role p = .office ∧ except ≠ some p
    · rw [if_pos heard]
      exact if_pos heard
    · rw [if_neg heard]
      refine (if_neg heard).trans (congrArg s.withPorts ?_)
      cases p <;> rfl
  simp only [broadcastOffice, allPorts, List.foldl_cons, List.foldl_nil, step]
  rfl

theorem offerAbandoned_eq (slot : Nat) (j : Job) (reason : Nat) (s : State) :
    offerAbandoned slot j reason s = { s with ports := abandonedHeard slot j reason s } := by
  let n : Notice := ⟨.printAbandoned, some (j.receipt.getD 0), be 1 slot ++ be 1 (jobKindCode j.kind) ++ be 1 reason, s.clock⟩
  have heard (v : PerPort PortCtx) (ports : (match j.port with | some p => offerTo p n s | none => s) = s.withPorts v)
      (same : ∀ p, officeHears j.port n s v p =
        if j.port = some p then enqueue n (s.port p) else if s.role p = .office then hear n (s.port p) else s.port p) :
      offerAbandoned slot j reason s = { s with ports := abandonedHeard slot j reason s } := by
    have offered : offerAbandoned slot j reason s =
        broadcastOffice j.port n (match j.port with | some p => offerTo p n s | none => s) := rfl
    rw [offered, ports, broadcastOffice_eq, funext same]
    rfl
  cases addressed : j.port with
  | none =>
    refine heard s.ports (by rw [addressed]; rfl) fun p => ?_
    rw [addressed, officeHears, if_neg (Option.some_ne_none p).symm]
    exact if_congr (and_iff_left (Option.some_ne_none p).symm) rfl rfl
  | some q =>
    refine heard (s.ports.set q (enqueue n (s.ports.get q))) (by rw [addressed]; rfl) fun p => ?_
    rw [addressed, officeHears]
    by_cases own : q = p
    · subst own
      rw [if_neg (fun h => h.2 rfl), if_pos rfl, PerPort.get_set_same]
      rfl
    · have other : some q ≠ some p := fun h => own (Option.some_inj.mp h)
      rw [if_neg other, PerPort.get_set_other _ (Ne.symm own)]
      exact if_congr (and_iff_left other) rfl rfl

/-! ## A job leaves the queue (R144, R148, R153) -/

/-- The walk reads and writes neither the ports nor the snapshot. -/
theorem slotFreed_outside (slot : Nat) (s : State) (ports : PerPort PortCtx) (snapshot : Option Snapshot) :
    slotFreed slot { s with ports := ports, snapshot := snapshot } =
      { slotFreed slot s with ports := ports, snapshot := snapshot } := by
  have same := testBacklog_congr (s := { s with ports := ports, snapshot := snapshot, jobs := s.jobs.set slot none })
    (t := { s with jobs := s.jobs.set slot none }) rfl
  simp only [State.walkView, Prod.mk.injEq] at same
  obtain ⟨jobs, backlog, age, free, -, -, -⟩ := same
  rw [slotFreed_frame slot s, slotFreed_frame slot { s with ports := ports, snapshot := snapshot }]
  simp only [slotFreed, jobs, backlog, age, free]

/-- The walk reads and writes nothing of the print engine. -/
theorem slotFreed_releaseJob (slot : Nat) (s : State) : slotFreed slot (releaseJob s) = releaseJob (slotFreed slot s) := by
  have same := testBacklog_congr (s := { releaseJob s with jobs := s.jobs.set slot none })
    (t := { s with jobs := s.jobs.set slot none }) rfl
  simp only [State.walkView, Prod.mk.injEq] at same
  obtain ⟨jobs, backlog, age, free, -, -, -⟩ := same
  have released : slotFreed slot (releaseJob s) = testBacklog { releaseJob s with jobs := s.jobs.set slot none } := rfl
  rw [slotFreed_frame slot s, released, testBacklog_frame { releaseJob s with jobs := s.jobs.set slot none }, jobs, backlog, age, free]
  rfl

theorem jobLeaves_released (slot : Nat) (s : State) : JobLeaves slot s (releaseJob (slotFreed slot s)) := by
  refine ⟨slotFreed_left slot s, fun i k other held => slotFreed_stays other held, ?_⟩
  intro freed
  have frame : slotFreed slot s = _ := slotFreed_frame slot s
  conv => lhs; rw [frame]
  rfl

/-- A job is removed with PRINT_ABANDONED, and the engine is IDLE. -/
theorem jobAbandoned_released (slot : Nat) (j : Job) (reason : Nat) (s : State) (snapshot : Option Snapshot) :
    JobAbandoned slot j reason { s with snapshot := snapshot }
      (releaseJob { offerAbandoned slot j reason (removeJob slot s) with snapshot := snapshot }) := by
  have ports : abandonedHeard slot j reason (slotFreed slot s) = abandonedHeard slot j reason s := by
    rw [slotFreed_frame]
    rfl
  have left := jobLeaves_released slot { s with ports := abandonedHeard slot j reason s, snapshot := snapshot }
  rw [slotFreed_outside slot s] at left
  rw [removeJob_eq, offerAbandoned_eq, ports]
  exact left

theorem abandonFetch_abandons {s : State} {slot : Nat} {j : Job} (hand : s.pe.job = some slot) (held : s.job slot = some j)
    (reason : Nat) : JobAbandoned slot j reason s (abandonFetch reason s) := by
  have fetch : abandonFetch reason s = releaseJob (offerAbandoned slot j reason (removeJob slot s)) := by
    rw [abandonFetch, hand]
    dsimp only
    rw [held]
  have snapshot : offerAbandoned slot j reason (removeJob slot s) =
      { offerAbandoned slot j reason (removeJob slot s) with snapshot := s.snapshot } := by
    rw [offerAbandoned_eq, removeJob_eq, slotFreed_frame]
  rw [fetch, snapshot]
  exact jobAbandoned_released slot j reason s s.snapshot

end Sys2Proof.Machine
end

section
/-! PROOFS. What becomes of the print job in hand (R148 to R157). -/

namespace Sys2Proof.Machine

theorem inHand_eq {s : State} {slot : Nat} {j : Job} (hand : s.pe.job = some slot) (held : s.job slot = some j) :
    s.inHand = some (slot, j) := by
  rw [State.inHand, hand, Option.bind_some, held, Option.map_some]

/-! ## The end of a fetch (R130, R148) -/

theorem printFetch_ends {s : State} {n : Nat} {live : Bool} (powered : s.powered = true)
    (current : s.engine.current = some (.fetch n live)) (decay : List (Nat × Byte)) :
    exec (.printFetch decay) s = .next (settle (fetchRead n live decay s.endOp)) := by
  rw [exec_printFetch, execPrintFetch, event_powered powered, current]

/-- The array as a fetch finds it: bytes that read otherwise stay so (log 7). -/
def fetched (i place : Nat) (decay : List (Nat × Byte)) (s : State) : State :=
  { s.endOp with journal := memDecay s.journal (entryAddr i place) 256 decay }

theorem fetchRead_missing {s : State} {n : Nat} (gone : s.lookup n = none) (live : Bool) (decay : List (Nat × Byte)) :
    fetchRead n live decay s.endOp = if live then abandonFetch 2 s.endOp else s.endOp := by
  have missing : s.endOp.lookup n = none := gone
  rw [fetchRead, missing]

theorem fetchRead_found {s : State} {n i place : Nat} (found : s.lookup n = some (i, place)) (live : Bool)
    (decay : List (Nat × Byte)) :
    let t := fetched i place decay s
    fetchRead n live decay s.endOp =
      if bodyHolds (t.entryBytes i place) then (if live then beginSending (t.entryBytes i place) t else t)
      else if live then abandonFetch 3 (setFault .journalMedia (.receipt n) t) else setFault .journalMedia (.receipt n) t := by
  intro t
  have place' : s.endOp.lookup n = some (i, place) := found
  rw [fetchRead, place']
  rfl

/-- A first print of an entry printed before becomes a DUPLICATE (R148). -/
theorem fetchedKind_eq (k : JobKind) (m : Mark) : fetchedKind k m =
    if (k = .original ∨ k = .voidSlip ∨ k = .shiftReport) ∧ (m = .printed ∨ m = .audited) then .duplicate else k :=
  if_congr (and_congr_left' (firstPrint_iff k)) rfl rfl

/-- The job in hand has its entry: it is laid out and sent. -/
theorem beginSending_eq {s : State} {slot : Nat} {j : Job} (hand : s.inHand = some (slot, j)) (e : List Byte) :
    let k := { j with kind := fetchedKind j.kind (markOf e) }
    beginSending e s = { s with
      jobs := s.jobs.set slot (some k)
      pe := { s.pe with activity := .sending, tx := jobText s k (entryFlag e 0) (entryBody s e) } } := by
  intro k
  rw [beginSending, hand]
  rfl

/-! ## Counted attempts (R146, R151, R154) -/

/-- The link that an error count brings (R146). -/
def linkAfter (n : Nat) (link : Link) : Link :=
  if link = .offline ∨ 128 ≤ n then .offline else if 64 ≤ n then .warn else .normal

theorem setLinkErrors_eq (n : Nat) (e : PrintEngine) :
    setLinkErrors n e = { e with linkErrors := n, link := linkAfter n e.link } := by
  rw [setLinkErrors, linkAfter, linkOf]
  by_cases offline : e.link = .offline
  · rw [if_pos offline, if_pos (.inl offline)]
  · rw [if_neg offline]
    by_cases high : 128 ≤ n
    · rw [if_pos high, if_pos (.inr high)]
    · rw [if_neg high, if_neg (not_or.mpr ⟨offline, high⟩)]

theorem linkAfter_offline_iff {link : Link} (online : link ≠ .offline) (n : Nat) :
    linkAfter n link = .offline ↔ linkOf n = .offline := by
  have same : linkAfter n link = linkOf n := if_congr (or_iff_right online) rfl rfl
  rw [same]

/-- A changed error count, with PRINTER_STATE when the link changes by it (R146). -/
def linkCounted (n : Nat) (s : State) : State :=
  let counted : State := { s with pe := { s.pe with linkErrors := n, link := linkAfter n s.pe.link } }
  if linkAfter n s.pe.link = s.pe.link then counted else offerPrinterState counted

theorem updPrinter_setLinkErrors (n : Nat) (s : State) : updPrinter (setLinkErrors n) s = linkCounted n s := by
  rw [updPrinter_heard, setLinkErrors_eq, printerBecomes, linkCounted]
  by_cases same : linkAfter n s.pe.link = s.pe.link
  · rw [if_pos same, if_pos ⟨rfl, rfl, rfl, rfl, rfl, same⟩]
  · rw [if_neg same, if_neg fun view => same view.2.2.2.2.2]
    rfl

theorem linkDown_eq (timeout : Bool) (s : State) :
    let n := min 255 (s.pe.linkErrors + 16)
    linkDown timeout s = linkCounted n
      (if s.pe.link ≠ .offline ∧ linkAfter n s.pe.link = .offline then setFault .printerOffline (.attempt timeout) s else s) := by
  intro n
  have fails : (s.pe.link ≠ .offline ∧ linkOf n = .offline) ↔ (s.pe.link ≠ .offline ∧ linkAfter n s.pe.link = .offline) :=
    and_congr_right fun online => (linkAfter_offline_iff online n).symm
  rw [linkDown, updPrinter_setLinkErrors]
  exact congrArg (linkCounted n) (if_congr fails rfl rfl)

/-- A counted attempt changes the fault status, the link and the ports alone. -/
theorem linkDown_jobs (timeout : Bool) (s : State) : (linkDown timeout s).jobs = s.jobs ∧ (linkDown timeout s).snapshot = s.snapshot := by
  have counted (n : Nat) (x : State) : (linkCounted n x).jobs = x.jobs ∧ (linkCounted n x).snapshot = x.snapshot := by
    rw [linkCounted]
    split <;> exact ⟨rfl, rfl⟩
  rw [linkDown_eq]
  obtain ⟨jobs, snapshot⟩ := counted (min 255 (s.pe.linkErrors + 16))
    (if s.pe.link ≠ .offline ∧ linkAfter (min 255 (s.pe.linkErrors + 16)) s.pe.link = .offline then
      setFault .printerOffline (.attempt timeout) s else s)
  rw [jobs, snapshot]
  split
  · rw [setFault_frame]
    exact ⟨rfl, rfl⟩
  · exact ⟨rfl, rfl⟩

theorem endSnapshot_eq (k : JobKind) (s : State) : endSnapshot k s = { s with snapshot := if k = .tally then none else s.snapshot } := by
  rw [endSnapshot]
  split <;> rfl

theorem countAttempt_retries {s : State} {slot : Nat} {j : Job} (hand : s.inHand = some (slot, j)) (early : j.attempts < 2)
    (timeout : Bool) :
    let w := linkDown timeout s
    countAttempt timeout s = { w with
      jobs := s.jobs.set slot (some { j with attempts := j.attempts + 1, state := .retryWait, wait := 2 })
      pe := { w.pe with activity := .idle, job := none, responseTimer := none, tx := [] } } := by
  intro w
  obtain ⟨jobs, -⟩ := linkDown_jobs timeout s
  rw [countAttempt, hand]
  refine (if_pos (by dsimp only; omega)).trans ?_
  rw [← jobs]
  rfl

theorem countAttempt_abandons {s : State} {slot : Nat} {j : Job} (hand : s.inHand = some (slot, j)) (last : 2 ≤ j.attempts)
    (timeout : Bool) : JobAbandoned slot j 1
      { linkDown timeout s with snapshot := if j.kind = .tally then none else s.snapshot } (countAttempt timeout s) := by
  obtain ⟨-, snapshot⟩ := linkDown_jobs timeout s
  have kept : (offerAbandoned slot j 1 (removeJob slot (linkDown timeout s))).snapshot = s.snapshot := by
    rw [offerAbandoned_eq, removeJob_eq, slotFreed_frame]
    exact snapshot
  have counted : countAttempt timeout s = releaseJob { offerAbandoned slot j 1 (removeJob slot (linkDown timeout s)) with
      snapshot := if j.kind = .tally then none else s.snapshot } := by
    rw [countAttempt, hand]
    refine (if_neg (by dsimp only; omega)).trans ?_
    rw [endSnapshot_eq, ← kept]
    rfl
  rw [counted]
  exact jobAbandoned_released slot j 1 (linkDown timeout s) _

/-! ## Success (R150) -/

/-- The state in which a job that has succeeded leaves the queue. -/
def finished (slot : Nat) (j : Job) (s : State) : State :=
  let n := s.pe.linkErrors - 4
  let told : State := match j.port with
    | some p => offerTo p ⟨.printDone, some (j.receipt.getD 0), be 1 slot ++ be 1 (jobKindCode j.kind), s.clock⟩ s
    | none => s
  linkCounted n { told with
    pendingMarks := if j.kind = .original ∨ j.kind = .voidSlip ∨ j.kind = .shiftReport then
      s.pendingMarks ++ [⟨j.receipt.getD 0, s.clock⟩] else s.pendingMarks
    snapshot := if j.kind = .tally then none else s.snapshot }

theorem marked_eq (j : Job) (s : State) :
    (if firstPrint j.kind then { s with pendingMarks := s.pendingMarks ++ [⟨j.receipt.getD 0, s.clock⟩] } else s) = { s with
      pendingMarks := if j.kind = .original ∨ j.kind = .voidSlip ∨ j.kind = .shiftReport then
        s.pendingMarks ++ [⟨j.receipt.getD 0, s.clock⟩] else s.pendingMarks } := by
  by_cases first : firstPrint j.kind = true
  · rw [if_pos first, if_pos ((firstPrint_iff _).mp first)]
  · rw [if_neg first, if_neg (mt (firstPrint_iff _).mpr first)]

theorem finishJob_eq (slot : Nat) (j : Job) (s : State) : finishJob slot j s = releaseJob (slotFreed slot (finished slot j s)) := by
  have counted (x : State) : updPrinter (fun e => setLinkErrors (e.linkErrors - 4) e) x = linkCounted (x.pe.linkErrors - 4) x :=
    updPrinter_setLinkErrors (x.pe.linkErrors - 4) x
  rw [← slotFreed_releaseJob, ← removeJob_eq, finishJob, finished, counted, endSnapshot_eq, marked_eq]
  cases j.port <;> rfl

/-- A job that has succeeded leaves the queue. -/
theorem finishJob_leaves (slot : Nat) (j : Job) (s : State) : JobLeaves slot (finished slot j s) (finishJob slot j s) := by
  rw [finishJob_eq]
  exact jobLeaves_released slot _

/-! ## The answers of a printer (R147, R149 to R151) -/

theorem updPrinter_answerQuery (s : State) : updPrinter answerQuery s = queryAnswered s := updPrinter_heard answerQuery s

theorem queryAnswered_inHand (s : State) : (queryAnswered s).inHand = s.inHand := rfl

theorem ack_idle {s : State} (powered : s.powered = true) (idle : s.inHand = none) : exec .ack s = .next (settle (queryAnswered s)) := by
  rw [exec_ack, execAck, event_powered powered, updPrinter_answerQuery]
  dsimp only
  rw [queryAnswered_inHand, idle]

theorem ack_holds {s : State} {slot : Nat} {j : Job} (powered : s.powered = true) (hand : s.inHand = some (slot, j)) :
    exec .ack s = .next (settle (if s.pe.activity = .awaiting then finishJob slot j (queryAnswered s) else queryAnswered s)) := by
  rw [exec_ack, execAck, event_powered powered, updPrinter_answerQuery]
  dsimp only
  rw [queryAnswered_inHand, hand]
  rfl

theorem err_eq {s : State} (powered : s.powered = true) : exec .err s = .next (settle
    (if s.pe.activity = .sending ∨ s.pe.activity = .awaiting then countAttempt false (queryAnswered s) else queryAnswered s)) := by
  rw [exec_err, execErr, event_powered powered, updPrinter_answerQuery]
  rfl

theorem countAttempt_idle {s : State} (idle : s.inHand = none) (timeout : Bool) : countAttempt timeout s = s := by
  rw [countAttempt, idle]

theorem err_idle {s : State} (powered : s.powered = true) (idle : s.inHand = none) : exec .err s = .next (settle (queryAnswered s)) := by
  rw [err_eq powered, countAttempt_idle (queryAnswered_inHand s ▸ idle), ite_self]

theorem responseTimeout_eq {s : State} (powered : s.powered = true) : exec .responseTimeout s = .next
    (if s.pe.activity = .awaiting then settle (countAttempt true s) else s) := by
  rw [exec_responseTimeout, execResponseTimeout, event_powered powered]

theorem endOfJobSent_eq {s : State} (powered : s.powered = true) (sending : s.pe.activity = .sending) :
    exec .endOfJobSent s = .next { s with
      pe := { s.pe with activity := .awaiting, responseTimer := some 5, sent := s.pe.tx, tx := [] } } := by
  rw [exec_endOfJobSent, execEndOfJobSent, event_powered powered, if_pos sending]

end Sys2Proof.Machine
end

section
/-! PROOFS. The obligation on the print jobs (R148 to R158). -/

namespace Sys2Proof.Machine

/-- The end of the fetch of the job in hand, by the entry's place and its body check (R148). -/
theorem fetchEnds {s : State} {slot : Nat} {j : Job} (powered : s.powered = true) (job : s.pe.job = some slot)
    (held : s.job slot = some j) (n : Nat) (decay : List (Nat × Byte)) :
    let done : State := { s with engine := { s.engine with current := none } }
    let read (i place : Nat) : State := { done with journal := memDecay s.journal (entryAddr i place) 256 decay }
    let e (i place : Nat) := memBytes (read i place).journal (entryAddr i place) 256
    (∀ i place, s.engine.current = some (.fetch n true) → s.lookup n = some (i, place) → bodyHolds (e i place) = true →
      let first := j.kind = .original ∨ j.kind = .voidSlip ∨ j.kind = .shiftReport
      let printed := markOf (e i place) = .printed ∨ markOf (e i place) = .audited
      let k := { j with kind := if first ∧ printed then .duplicate else j.kind }
      exec (.printFetch decay) s = .next (settle { read i place with
        jobs := s.jobs.set slot (some k)
        pe := { s.pe with
          activity := .sending, tx := jobText s k (entryFlag (e i place) 0) (entryBody s (e i place)) } })) ∧
    (∀ i place, s.engine.current = some (.fetch n true) → s.lookup n = some (i, place) → bodyHolds (e i place) = false →
      ∃ u, exec (.printFetch decay) s = .next (settle u) ∧
        JobAbandoned slot j 3 (setFault .journalMedia (.receipt n) (read i place)) u) ∧
    (s.engine.current = some (.fetch n true) → s.lookup n = none →
      ∃ u, exec (.printFetch decay) s = .next (settle u) ∧ JobAbandoned slot j 2 done u) ∧
    (s.engine.current = some (.fetch n false) →
      exec (.printFetch decay) s = .next (settle (match s.lookup n with
        | none => done
        | some (i, place) => if bodyHolds (e i place) then read i place
            else setFault .journalMedia (.receipt n) (read i place)))) := by
  intro done read e
  refine ⟨fun i place current found good => ?_, fun i place current found bad => ?_, fun current gone => ?_, fun current => ?_⟩
  · have hand : (fetched i place decay s).inHand = some (slot, j) := inHand_eq (s := fetched i place decay s) job held
    have good' : bodyHolds ((fetched i place decay s).entryBytes i place) = true := good
    rw [printFetch_ends powered current, fetchRead_found found, if_pos good', if_pos rfl, beginSending_eq hand, fetchedKind_eq]
    rfl
  · have bad' : ¬ bodyHolds ((fetched i place decay s).entryBytes i place) = true := (Bool.not_eq_true _).mpr bad
    refine ⟨abandonFetch 3 (setFault .journalMedia (.receipt n) (fetched i place decay s)), ?_, ?_⟩
    · rw [printFetch_ends powered current, fetchRead_found found, if_neg bad', if_pos rfl]
    · have frame := setFault_frame .journalMedia (.receipt n) (read i place)
      refine abandonFetch_abandons ?_ ?_ 3
      · rw [frame]
        exact job
      · rw [frame]
        exact held
  · refine ⟨abandonFetch 2 s.endOp, ?_, abandonFetch_abandons (s := s.endOp) job held 2⟩
    rw [printFetch_ends powered current, fetchRead_missing gone, if_pos rfl]
  · rw [printFetch_ends powered current]
    cases place : s.lookup n with
    | none =>
      rw [fetchRead_missing place, if_neg Bool.false_ne_true]
      rfl
    | some x =>
      obtain ⟨i, slot'⟩ := x
      rw [fetchRead_found place, if_neg Bool.false_ne_true, if_neg Bool.false_ne_true]
      rfl

theorem fetchNumber_eq {s : State} {slot : Nat} {j : Job} (job : s.pe.job = some slot) (held : s.job slot = some j) :
    s.fetchNumber = j.receipt.getD 0 := by
  rw [State.fetchNumber, job, Option.bind_some, held, Option.bind_some]

/-- What a counted attempt leaves, with its FAULT and PRINTER_STATE notices (R146, R154). -/
theorem linkDown_states (timeout : Bool) (s : State) :
    let n := min 255 (s.pe.linkErrors + 16)
    let link : Link := if s.pe.link = .offline ∨ 128 ≤ n then .offline else if 64 ≤ n then .warn else .normal
    let set : State := if s.pe.link ≠ .offline ∧ link = .offline then setFault .printerOffline (.attempt timeout) s else s
    let counted : State := { set with pe := { set.pe with linkErrors := n, link := link } }
    linkDown timeout s = if link = s.pe.link then counted else offerPrinterState counted := by
  intro n link set counted
  have pe : set.pe = s.pe := by
    simp only [set]
    split
    · rw [setFault_frame]
    · rfl
  have down : linkDown timeout s = linkCounted n set := linkDown_eq timeout s
  rw [down, linkCounted, pe]
  simp only [counted, pe]
  rfl

/-- What a job's success leaves before its slot is freed (R150). -/
theorem finished_eq (slot : Nat) (j : Job) (s : State) :
    let n := s.pe.linkErrors - 4
    let link : Link := if s.pe.link = .offline ∨ 128 ≤ n then .offline else if 64 ≤ n then .warn else .normal
    let told : State := match j.port with
      | some p => offerTo p ⟨.printDone, some (j.receipt.getD 0), be 1 slot ++ be 1 (jobKindCode j.kind), s.clock⟩ s
      | none => s
    let counted : State := { told with pe := { s.pe with linkErrors := n, link := link } }
    finished slot j s = { counted with
      pendingMarks := if j.kind = .original ∨ j.kind = .voidSlip ∨ j.kind = .shiftReport then
        s.pendingMarks ++ [⟨j.receipt.getD 0, s.clock⟩] else s.pendingMarks
      snapshot := if j.kind = .tally then none else s.snapshot
      ports := (if link = s.pe.link then counted else offerPrinterState counted).ports } := by
  intro n link told counted
  have pe : told.pe = s.pe := by
    simp only [told]
    cases j.port <;> rfl
  have whole : finished slot j s = linkCounted n { told with
      pendingMarks := if j.kind = .original ∨ j.kind = .voidSlip ∨ j.kind = .shiftReport then
        s.pendingMarks ++ [⟨j.receipt.getD 0, s.clock⟩] else s.pendingMarks
      snapshot := if j.kind = .tally then none else s.snapshot } := by
    rw [finished] <;> rfl
  have after : linkAfter n s.pe.link = link := rfl
  rw [whole, linkCounted]
  dsimp only
  rw [pe, after]
  by_cases same : link = s.pe.link
  · rw [if_pos same, if_pos same]
  · rw [if_neg same, if_neg same]
    rfl

/-- Settles O53: the text of a print, and the job in hand by what ends its fetch, its transmission and its wait. -/
theorem printJobsProceed : Obligations.PrintJobsProceed := by
  refine ⟨jobText_eq, field_eq, by decide +kernel, by decide +kernel, by decide +kernel, by decide +kernel, by decide +kernel,
    by decide +kernel, entryBody_eq, tallyBody_eq, fun s powered idle => ⟨ack_idle powered idle, err_idle powered idle⟩,
    fun slot j s powered job held => ?_⟩
  have hand := inHand_eq job held
  refine ⟨fetchEnds powered job held, abandonFetch_abandons job held, fun gone => ?_, endOfJobSent_eq powered, fun awaiting => ?_,
    fun still => ⟨?_, ?_⟩, fun still idle => ?_, fun x mem active => ⟨fun early => ?_, fun last => ?_⟩⟩
  · have missing : s.lookup s.fetchNumber = none := by rwa [fetchNumber_eq job held]
    rw [takeRead_fetch rfl, missing]
    exact abandonFetch_abandons (s := { s with engine := { s.engine with reads := s.engine.reads.erase .fetch } }) job held 2
  · refine ⟨finishJob slot j (queryAnswered s), ?_, ?_⟩
    · rw [ack_holds powered hand, if_pos awaiting]
    · have leaves := finishJob_leaves slot j (queryAnswered s)
      rw [finished_eq] at leaves
      exact leaves
  · rw [ack_holds powered hand, if_neg still]
  · rw [responseTimeout_eq powered, if_neg still]
  · rw [err_eq powered, if_neg (not_or.mpr ⟨idle, still⟩)]
  · rcases List.mem_pair.mp mem with rfl | rfl
    · have counts : s.pe.activity = .sending ∨ s.pe.activity = .awaiting := active.elim .inr fun a => .inl a.1
      have retries := countAttempt_retries (s := queryAnswered s) hand early false
      rw [linkDown_states] at retries
      rw [err_eq powered, if_pos counts]
      exact congrArg (fun u => Host.Outcome.next (settle u)) retries
    · have counts : s.pe.activity = .awaiting := active.elim id fun ⟨_, same⟩ => nomatch same
      have retries := countAttempt_retries hand early true
      rw [linkDown_states] at retries
      rw [responseTimeout_eq powered, if_pos counts]
      exact congrArg (fun u => Host.Outcome.next (settle u)) retries
  · rcases List.mem_pair.mp mem with rfl | rfl
    · have counts : s.pe.activity = .sending ∨ s.pe.activity = .awaiting := active.elim .inr fun a => .inl a.1
      refine ⟨countAttempt false (queryAnswered s), by rw [err_eq powered, if_pos counts], ?_⟩
      have abandons := countAttempt_abandons (s := queryAnswered s) hand last false
      rw [linkDown_states] at abandons
      exact abandons
    · have counts : s.pe.activity = .awaiting := active.elim id fun ⟨_, same⟩ => nomatch same
      refine ⟨countAttempt true s, by rw [responseTimeout_eq powered, if_pos counts], ?_⟩
      have abandons := countAttempt_abandons hand last true
      rw [linkDown_states] at abandons
      exact abandons

end Sys2Proof.Machine
end

section
/-! PROOFS. PORT DISABLE (R77, R91, R162, R182). -/

namespace Sys2Proof.Machine

theorem exec_portDisable (p : Port) (port : Byte) (s : State) :
    exec (.portDisable p port) s = request p s (portDisable p port) := rfl

/-! ## The captures that a port armed (R77) -/

/-- The capture that a port armed on a scale. -/
def armedBy (q : Port) (sc : Scale) (s : State) : Option Capture := (s.chan sc).capture.filter (fun k => k.port = q)

/-- A channel when the capture named, if any, has failed. -/
def channelFreed (k : Option Capture) (c : Channel) : Channel := { c with capture := if k.isSome then none else c.capture }

/-- A ticket when the capture named, if any, has failed. -/
def ticketFreed (k : Option Capture) (t : Ticket) : Ticket :=
  { t with capture := if ∃ x ∈ k, x.ticket = some t.number then none else t.capture }

/-- The port disabled when the capture named, if any, has failed. -/
def portFailed (sc : Scale) (time : Nat) (k : Option Capture) (c : PortCtx) : PortCtx :=
  match k with
  | some k => enqueue (weighFailed sc k .portDisabled none time) c
  | none => c

theorem ticketFreed_none : ticketFreed none = id := by
  funext t
  simp [ticketFreed]

theorem ticketFreed_some (k : Capture) (ts : List Ticket) : ts.map (ticketFreed (some k)) =
    match k.ticket with
    | some n => ts.map (fun t => if t.number = n then { t with capture := none } else t)
    | none => ts := by
  cases ticket : k.ticket with
  | none =>
    have same : ticketFreed (some k) = id := by
      funext t
      simp [ticketFreed, ticket]
    rw [same, List.map_id]
  | some n =>
    refine List.map_congr_left fun t _ => ?_
    by_cases own : t.number = n
    · rw [if_pos own, ticketFreed, if_pos ⟨k, rfl, own ▸ ticket⟩]
    · rw [if_neg own, ticketFreed, if_neg]
      rintro ⟨x, mem, other⟩
      obtain rfl := Option.some_inj.mp mem
      exact own (Option.some_inj.mp (other.symm.trans ticket))

theorem failArmedBy_eq (q : Port) (s : State) (sc : Scale) : failArmedBy q s sc = { s with
    channels := s.channels.set sc (channelFreed (armedBy q sc s) (s.chan sc))
    tickets := s.tickets.map (ticketFreed (armedBy q sc s))
    ports := s.ports.set q (portFailed sc s.clock (armedBy q sc s) (s.port q)) } := by
  have stands (unarmed : armedBy q sc s = none) : s = { s with
      channels := s.channels.set sc (channelFreed (armedBy q sc s) (s.chan sc))
      tickets := s.tickets.map (ticketFreed (armedBy q sc s))
      ports := s.ports.set q (portFailed sc s.clock (armedBy q sc s) (s.port q)) } := by
    have chan : s.channels.set sc (channelFreed none (s.chan sc)) = s.channels := PerScale.set_get s.channels sc
    have port : s.ports.set q (portFailed sc s.clock none (s.port q)) = s.ports := by cases q <;> rfl
    rw [unarmed, chan, port, ticketFreed_none, List.map_id]
  rw [failArmedBy]
  cases capture : (s.chan sc).capture with
  | none => exact stands (by rw [armedBy, capture]; rfl)
  | some k =>
    dsimp only
    by_cases own : k.port = q
    · have armed : armedBy q sc s = some k := by
        rw [armedBy, capture, Option.filter_some, if_pos (decide_eq_true own)]
      rw [if_pos own, failCapture_eq, armed, ticketFreed_some, own]
      rfl
    · rw [if_neg own]
      exact stands (by rw [armedBy, capture, Option.filter_some, if_neg (by simpa using own)])

/-- The captures of a port fail on the scales A, B, P in this order. -/
theorem failures_eq (q : Port) (s : State) : allScales.foldl (failArmedBy q) s = { s with
    channels := ⟨channelFreed (armedBy q .a s) (s.chan .a), channelFreed (armedBy q .b s) (s.chan .b),
      channelFreed (armedBy q .p s) (s.chan .p)⟩
    tickets := ((s.tickets.map (ticketFreed (armedBy q .a s))).map (ticketFreed (armedBy q .b s))).map
      (ticketFreed (armedBy q .p s))
    ports := s.ports.set q (portFailed .p s.clock (armedBy q .p s) (portFailed .b s.clock (armedBy q .b s)
      (portFailed .a s.clock (armedBy q .a s) (s.port q)))) } := by
  simp only [allScales, List.foldl_cons, List.foldl_nil, failArmedBy_eq, State.port, PerPort.get_set_same, PerPort.set_set]
  rfl

theorem dropClaims_eq (q : Port) (t : Ticket) : (if t.claim.any (fun c => c.port == q) then { t with claim := none } else t) =
    { t with claim := t.claim.filter (fun c => c.port ≠ q) } := by
  have kept : t.claim.filter (fun c => c.port ≠ q) = if t.claim.any (fun c => c.port == q) then none else t.claim := by
    cases t.claim with
    | none => rfl
    | some c =>
      by_cases own : c.port = q
      · simp [own]
      · simp [own]
  rw [kept]
  split <;> rfl

/-- A ticket when a port has been disabled (R77, R91). -/
def ticketDisabled (q : Port) (armed : Scale → Option Capture) (t : Ticket) : Ticket := { t with
  claim := t.claim.filter (fun c => c.port ≠ q)
  capture := if ∃ sc ∈ [Scale.a, .b, .p], ∃ k ∈ armed sc, k.ticket = some t.number then none else t.capture }

theorem ticketDisabled_eq (q : Port) (armed : Scale → Option Capture) (t : Ticket) :
    { ticketFreed (armed .p) (ticketFreed (armed .b) (ticketFreed (armed .a) t)) with
      claim := t.claim.filter (fun c => c.port ≠ q) } = ticketDisabled q armed t := by
  have capture : (if ∃ x ∈ armed .p, x.ticket = some t.number then none
      else if ∃ x ∈ armed .b, x.ticket = some t.number then none
      else if ∃ x ∈ armed .a, x.ticket = some t.number then none else t.capture) =
      if ∃ sc ∈ [Scale.a, .b, .p], ∃ k ∈ armed sc, k.ticket = some t.number then none else t.capture := by
    simp only [List.mem_cons, List.not_mem_nil, or_false, exists_eq_or_imp, exists_eq_left]
    by_cases a : ∃ x ∈ armed .a, x.ticket = some t.number
    · simp only [a, if_true, true_or, ite_self]
    · simp only [a, if_false, false_or]
      by_cases b : ∃ x ∈ armed .b, x.ticket = some t.number
      · simp only [b, if_true, true_or, ite_self]
      · simp only [b, if_false, false_or]
  rw [ticketDisabled, ← capture]
  rfl

/-- The state when a port has been disabled, but for its print jobs. -/
def portClosed (q : Port) (s : State) : State := { s with
  channels := ⟨channelFreed (armedBy q .a s) (s.chan .a), channelFreed (armedBy q .b s) (s.chan .b),
    channelFreed (armedBy q .p s) (s.chan .p)⟩
  tickets := s.tickets.map (ticketDisabled q (fun sc => armedBy q sc s))
  ports := s.ports.set q (portFailed .p s.clock (armedBy q .p s) (portFailed .b s.clock (armedBy q .b s)
    (portFailed .a s.clock (armedBy q .a s) { s.port q with enabled := false }))) }

/-- A disable clears the enabled flag, fails the captures, removes the claims, and then the print jobs. -/
theorem disablePort_eq (q : Port) (s : State) :
    disablePort q s = (List.range 16).foldl (dropDuplicate q) (portClosed q s) := by
  rw [disablePort]
  refine congrArg ((List.range 16).foldl (dropDuplicate q)) ?_
  rw [failures_eq, dropClaimsOf, portClosed]
  simp only [dropClaims_eq, List.map_map, State.updPort, State.port, PerPort.get_set_same, PerPort.set_set]
  have tickets : ticketDisabled q (fun sc => armedBy q sc s) = fun t =>
      { ticketFreed (armedBy q .p s) (ticketFreed (armedBy q .b s) (ticketFreed (armedBy q .a s) t)) with
        claim := t.claim.filter (fun c => c.port ≠ q) } := funext fun t => (ticketDisabled_eq q _ t).symm
  rw [tickets]
  rfl

/-! ## The print jobs of a port (R162) -/

/-- A DUPLICATE job of a port that waits to be printed. -/
abbrev WaitingDuplicate (q : Port) (j : Job) : Prop :=
  j.kind = .duplicate ∧ j.port = some q ∧ (j.state = .queued ∨ j.state = .retryWait)

theorem dropDuplicate_eq (q : Port) (s : State) (slot : Nat) : dropDuplicate q s slot =
    if ∃ j ∈ s.job slot, j.kind = .duplicate ∧ j.port = some q ∧ (j.state = .queued ∨ j.state = .retryWait) then
      slotFreed slot s
    else s := by
  rw [dropDuplicate]
  cases s.job slot with
  | none => exact (if_neg (by rintro ⟨j, mem, -⟩; exact absurd mem (by simp))).symm
  | some j => exact if_congr (by simp) rfl rfl

theorem walkView_slotFreed {s t : State} (same : s.walkView = t.walkView) (slot : Nat) :
    (slotFreed slot s).walkView = (slotFreed slot t).walkView := by
  refine testBacklog_congr ?_
  simp only [State.walkView, Prod.mk.injEq] at same ⊢
  obtain ⟨jobs, rest⟩ := same
  exact ⟨by rw [jobs], rest⟩

theorem walkView_dropDuplicates (q : Port) (slots : List Nat) {s t : State} (same : s.walkView = t.walkView) :
    (slots.foldl (dropDuplicate q) s).walkView = (slots.foldl (dropDuplicate q) t).walkView := by
  induction slots generalizing s t with
  | nil => exact same
  | cons slot slots ih =>
    refine ih ?_
    have job : s.job slot = t.job slot := by rw [State.job, State.job, show s.jobs = t.jobs from congrArg Prod.fst same]
    rw [dropDuplicate_eq, dropDuplicate_eq, job]
    split
    · exact walkView_slotFreed same slot
    · exact same

theorem dropDuplicates_frame (q : Port) (slots : List Nat) (s : State) : ∃ jobs backlog age free,
    slots.foldl (dropDuplicate q) s = { s with jobs := jobs, backlog := backlog, ageCounter := age, free := free } := by
  induction slots generalizing s with
  | nil => exact ⟨_, _, _, _, rfl⟩
  | cons slot slots ih =>
    obtain ⟨jobs, backlog, age, free, rest⟩ := ih (dropDuplicate q s slot)
    rw [List.foldl_cons, rest, dropDuplicate_eq]
    split
    · rw [slotFreed_frame]
      exact ⟨_, _, _, _, rfl⟩
    · exact ⟨_, _, _, _, rfl⟩

theorem dropDuplicate_grows {q : Port} {i slot : Nat} (other : i ≠ slot) (s : State) : SlotGrows i s (dropDuplicate q s slot) := by
  rw [dropDuplicate_eq]
  split
  · exact slotFreed_grows other s
  · exact .refl i s

theorem dropDuplicates_grows {q : Port} {i : Nat} {slots : List Nat} (other : i ∉ slots) (s : State) :
    SlotGrows i s (slots.foldl (dropDuplicate q) s) := by
  induction slots generalizing s with
  | nil => exact .refl i s
  | cons slot slots ih =>
    obtain ⟨first, rest⟩ := not_or.mp (mt List.mem_cons.mpr other)
    exact (dropDuplicate_grows first s).trans (ih rest _)

/-- Of the slots passed over, those with a waiting DUPLICATE of the port are freed, and the others keep their jobs. -/
theorem dropDuplicates_slot {q : Port} {slot : Nat} {slots : List Nat} (once : slots.Nodup) (named : slot ∈ slots) {s : State}
    {j : Job} (held : s.job slot = some j) :
    (WaitingDuplicate q j → SlotLeft slot (slots.foldl (dropDuplicate q) s)) ∧
    (¬ WaitingDuplicate q j → (slots.foldl (dropDuplicate q) s).job slot = some j) := by
  induction slots generalizing s with
  | nil => exact absurd named List.not_mem_nil
  | cons i slots ih =>
    obtain ⟨first, rest⟩ := List.nodup_cons.mp once
    rw [List.foldl_cons]
    by_cases own : slot = i
    · subst own
      have later := dropDuplicates_grows (q := q) first (dropDuplicate q s slot)
      constructor
      · intro waits
        refine later.left ?_
        rw [dropDuplicate_eq, if_pos ⟨j, held, waits⟩]
        exact slotFreed_left slot s
      · intro stays
        refine later.stays ?_
        rw [dropDuplicate_eq, if_neg]
        · exact held
        · rintro ⟨k, mem, waits⟩
          obtain rfl := Option.some_inj.mp (held.symm.trans mem)
          exact stays waits
    · exact ih rest ((List.mem_cons.mp named).resolve_left own) ((dropDuplicate_grows own s).stays held)

/-! ## The request (R182) -/

theorem self_eq_false_iff (p q : Port) : (q != p) = false ↔ q = p := bne_eq_false_iff_eq

theorem portDisable_taken (p : Port) (port : Byte) (s : State) : portDisable p port (taken p s) =
    if s.role p ≠ .office then answered p .role [] s
    else if s.mode = .starting then answered p .mode [] s
    else (portOf port).elim (answered p .range [] s) fun q =>
      if q = p then answered p .self [] s
      else if (s.port q).enabled then settle (reply p .ok [1#8] (disablePort q (taken p s)))
      else answered p .ok [0#8] s := by
  rw [portDisable, guarded_cons_of_iff (isOffice_eq_false_iff _ p), guarded_cons_of_iff (started_eq_false_iff _), guarded_nil]
  cases portOf port with
  | none => rfl
  | some q =>
    dsimp only
    rw [guarded_cons_of_iff (self_eq_false_iff p q), guarded_nil, taken_enabled]
    rfl

/-- The print queue without the waiting DUPLICATE jobs of a port (R162). -/
def duplicatesDropped (q : Port) (s : State) : State := (List.range 16).foldl (dropDuplicate q) s

/-- An answer leaves every job. -/
theorem job_reply (p : Port) (code : ResultCode) (data : List Byte) (s : State) (i : Nat) :
    (reply p code data s).job i = s.job i := rfl

/-- An answer after work on the print queue alone. -/
theorem reply_frame {x y : State} {jobs : List (Option Job)} {backlog : Option Backlog} {age free : Nat}
    (frame : x = { y with jobs := jobs, backlog := backlog, ageCounter := age, free := free }) (p : Port) (code : ResultCode)
    (data : List Byte) : reply p code data x = { y with
      ports := (reply p code data y).ports, jobs := x.jobs, backlog := x.backlog, ageCounter := x.ageCounter, free := x.free } := by
  subst frame
  rfl

theorem port_reply_frame {x y : State} {jobs : List (Option Job)} {backlog : Option Backlog} {age free : Nat}
    (frame : x = { y with jobs := jobs, backlog := backlog, ageCounter := age, free := free }) (p : Port) (code : ResultCode)
    (data : List Byte) (r : Port) : (reply p code data x).port r = (reply p code data y).port r := by
  subst frame
  rfl

/-- What PORT DISABLE does to an enabled port other than the requester (R182). -/
theorem disabled_spec {p q : Port} (other : q ≠ p) (s : State) :
    let u := reply p .ok [1#8] (disablePort q (taken p s))
    let closed := portClosed q (taken p s)
    u.port q = closed.port q ∧
    u.port p = { (taken p s).port p with state := .done, result := some ⟨.ok, [1#8]⟩ } ∧
    (∀ r, r ≠ p → r ≠ q → u.port r = s.port r) ∧
    (∀ slot j, slot < 16 → s.job slot = some j →
      if j.kind = .duplicate ∧ j.port = some q ∧ (j.state = .queued ∨ j.state = .retryWait) then SlotLeft slot u
      else u.job slot = some j) ∧
    u = { closed with
      ports := (reply p .ok [1#8] closed).ports, jobs := (duplicatesDropped q (taken p s)).jobs
      backlog := (duplicatesDropped q (taken p s)).backlog, ageCounter := (duplicatesDropped q (taken p s)).ageCounter
      free := (duplicatesDropped q (taken p s)).free } := by
  intro u closed
  obtain ⟨jobs, backlog, age, free, frame⟩ := dropDuplicates_frame q (List.range 16) closed
  have queue := walkView_dropDuplicates q (List.range 16) (s := closed) (t := taken p s) rfl
  simp only [State.walkView, Prod.mk.injEq] at queue
  obtain ⟨sameJobs, sameBacklog, sameAge, sameFree, -, -, -⟩ := queue
  have whole : u = reply p .ok [1#8] ((List.range 16).foldl (dropDuplicate q) closed) :=
    congrArg (reply p .ok [1#8]) (disablePort_eq q (taken p s))
  have fields := whole.trans (reply_frame frame p .ok [1#8])
  have port (r : Port) : u.port r = (reply p .ok [1#8] closed).port r :=
    (congrArg (fun t : State => t.port r) whole).trans (port_reply_frame frame p .ok [1#8] r)
  have closedPort {r : Port} (h : r ≠ q) : closed.port r = (taken p s).port r := PerPort.get_set_other _ h _
  refine ⟨?_, ?_, fun r away distant => ?_, fun slot j inside held => ?_, ?_⟩
  · rw [port, reply, updPort_port_other _ other]
  · rw [port, reply, updPort_port_same, closedPort (Ne.symm other)]
  · rw [port, reply, updPort_port_other _ away, closedPort distant, taken_port_other p away]
  · obtain ⟨left, stays⟩ := dropDuplicates_slot (q := q) List.nodup_range (List.mem_range.mpr inside) (s := closed) held
    split
    · rename_i waits
      rw [whole, SlotLeft, job_reply]
      exact left waits
    · rename_i printing
      rw [whole, job_reply]
      exact stays printing
  · rw [fields, duplicatesDropped, sameJobs, sameBacklog, sameAge, sameFree]

/-- Settles O16: the checks of R182 in their order; the effects on captures, claims and tickets, and then on the print queue. -/
theorem portDisableAnswers : Obligations.PortDisableAnswers := by
  intro p port s taking
  rw [exec_portDisable, request_taking taking, portDisable_taken]
  refine ⟨fun role => ?_, fun role mode => ?_, fun role mode unnamed => ?_, fun role mode self => ?_,
    fun q role mode named other => ⟨fun off => ?_, fun on => ?_⟩⟩
  · rw [if_pos role]
  · rw [if_neg (not_not.mpr role), if_pos mode]
  · rw [if_neg (not_not.mpr role), if_neg mode, unnamed, Option.elim_none]
  · rw [if_neg (not_not.mpr role), if_neg mode, self, Option.elim_some, if_pos rfl]
  · rw [if_neg (not_not.mpr role), if_neg mode, named, Option.elim_some, if_neg other, if_neg (by rw [off]; decide)]
  · intro armed failed freed
    obtain ⟨own, requester, others, slots, fields⟩ := disabled_spec other s
    have drops : freed = duplicatesDropped q (taken p s) :=
      congrArg (fun f => (List.range 16).foldl f (taken p s)) (funext₂ fun x slot => (dropDuplicate_eq q x slot).symm)
    have closedPort : (portClosed q (taken p s)).port q = failed .p (failed .b (failed .a { s.port q with enabled := false })) := by
      refine (PerPort.get_set_same ..).trans ?_
      rw [taken_port_other p other]
      rfl
    refine ⟨reply p .ok [1#8] (disablePort q (taken p s)), ?_, own.trans closedPort, requester, others, fun sc => ?_, ?_, slots, ?_⟩
    · rw [if_neg (not_not.mpr role), if_neg mode, named, Option.elim_some, if_neg other, if_pos on]
    · rw [fields]
      cases sc <;> rfl
    · rw [fields]
      rfl
    · rw [drops, fields]
      rfl

end Sys2Proof.Machine
end

section
/-! PROOFS. Erase-ahead: its start, its resumption and its ends (R117, R128, R131, R132). -/

namespace Sys2Proof.Machine

/-! ## The candidate (R131) -/

theorem aheadState_iff (c : Sector) : aheadState c = true ↔ c.state = .erased ∨ c.state = .erasing := by
  rw [aheadState, Bool.or_eq_true, beq_iff_eq, beq_iff_eq]

/-- A list with an element that fails a test where all before it pass is split there by the test. -/
theorem dropWhile_head?_iff {α : Type} (p : α → Bool) (l : List α) (i : α) : (l.dropWhile p).head? = some i ↔
    ∃ before after, l = before ++ i :: after ∧ before = l.takeWhile p ∧ (∀ x ∈ before, p x = true) ∧ p i = false := by
  constructor
  · intro head
    cases rest : l.dropWhile p with
    | nil => simp [rest] at head
    | cons x after =>
      obtain rfl : x = i := by simpa [rest] using head
      have fails := List.head?_dropWhile_not p l
      rw [rest, List.head?_cons] at fails
      refine ⟨l.takeWhile p, after, ?_, rfl, fun y mem => List.mem_takeWhile_imp mem, by simpa using fails⟩
      rw [← rest, List.takeWhile_append_dropWhile]
  · rintro ⟨before, after, split, -, passes, fails⟩
    rw [split, List.dropWhile_append_of_pos passes, List.dropWhile_cons_of_neg (by rw [fails]; decide), List.head?_cons]

/-- The sector that erase-ahead would start on, when its state lets it (R131). -/
abbrev State.eraseCandidate (s : State) (i : Nat) : Prop :=
  ∃ before after, ringOf s = before ++ i :: after ∧ before.length < 2 ∧
    (∀ x ∈ before, (s.sector x).state = .erased ∨ (s.sector x).state = .erasing) ∧
    ((s.sector i).state = .full ∨ (s.sector i).state = .blankUnchecked)

theorem candidate_iff {s : State} (size : s.sectors.length = 32) (free : s.engine.erase = none) {i : Nat}
    (state : (s.sector i).state = .full ∨ (s.sector i).state = .blankUnchecked) :
    s.candidate = some i ↔ s.eraseCandidate i := by
  have behind : aheadState (s.sector i) = false := by
    rw [← Bool.not_eq_true, aheadState_iff]
    rcases state with full | unchecked
    · rw [full]
      decide
    · rw [unchecked]
      decide
  have found := dropWhile_head?_iff (fun i => aheadState (s.sector i)) (ringOf s) i
  rw [State.candidate, State.aheadRun, ringAhead_eq size, free]
  constructor
  · intro candidate
    by_cases short : 2 ≤ ((ringOf s).takeWhile fun i => aheadState (s.sector i)).length
    · simp [short] at candidate
    · rw [if_neg (by simpa using short)] at candidate
      obtain ⟨before, after, split, whole, passes, -⟩ := found.mp candidate
      exact ⟨before, after, split, by rw [whole]; omega, fun x mem => (aheadState_iff _).mp (passes x mem), state⟩
  · rintro ⟨before, after, split, short, passes, -⟩
    have ahead : ∀ x ∈ before, aheadState (s.sector x) = true := fun x mem => (aheadState_iff _).mpr (passes x mem)
    have whole : (ringOf s).takeWhile (fun i => aheadState (s.sector i)) = before := by
      rw [split, List.takeWhile_append_of_pos ahead, List.takeWhile_cons_of_neg (by rw [behind]; decide), List.append_nil]
    rw [whole, if_neg (by simpa using short)]
    exact found.mpr ⟨before, after, split, whole.symm, ahead, behind⟩

/-! ## The start (R131) -/

theorem streamIn_eq_false_iff (s : State) (i : Nat) : s.streamIn i = false ↔
    ∀ p n slot, (s.port p).stream = some n → s.lookup n ≠ some (i, slot) := by
  have port (p : Port) : (((s.port p).stream.bind s.lookup).any (fun x => x.1 == i)) = false ↔
      ∀ n slot, (s.port p).stream = some n → s.lookup n ≠ some (i, slot) := by
    cases (s.port p).stream with
    | none => simp
    | some n =>
      have place : ((s.lookup n).any (fun x => x.1 == i)) = false ↔ ∀ slot, s.lookup n ≠ some (i, slot) := by
        cases s.lookup n with
        | none => simp
        | some x =>
          obtain ⟨k, slot⟩ := x
          simp
      rw [Option.bind_some, place]
      exact ⟨fun away m slot same => Option.some_inj.mp same ▸ away slot, fun all slot => all n slot rfl⟩
  simp only [State.streamIn, allPorts, List.any_cons, List.any_nil, Bool.or_false, Bool.or_eq_false_iff, port]
  constructor
  · rintro ⟨s0, s1, s2, s3⟩ p
    cases p with
    | s0 => exact s0
    | s1 => exact s1
    | s2 => exact s2
    | s3 => exact s3
  · exact fun all => ⟨all .s0, all .s1, all .s2, all .s3⟩

theorem erasable_iff (s : State) (i : Nat) : s.erasable i = true ↔
    ((s.sector i).state = .full ∨ (s.sector i).state = .blankUnchecked) ∧
    (∀ m ∈ (s.sector i).marks, m = .blank ∨ m = .audited) ∧
    ∀ p n slot, (s.port p).stream = some n → s.lookup n ≠ some (i, slot) := by
  simp only [State.erasable, Bool.and_eq_true, Bool.or_eq_true, beq_iff_eq, List.all_eq_true, Bool.not_eq_true',
    streamIn_eq_false_iff, and_assoc]

theorem idleForErase_iff (s : State) : s.idleForErase = true ↔ s.engine.current = none ∧ s.engine.reads = [] ∧
    s.engine.writes = [] ∧ s.engine.erase = none ∧ s.pendingMarks = [] ∧ s.pass = none := by
  have high : s.pendingMarks = [] → (s.highWaiting = false ↔ s.engine.reads = [] ∧ s.engine.writes = []) := fun noMarks => by
    rw [← Bool.not_eq_true, highWaiting_iff, not_not]
    refine and_congr_left' ⟨fun held => List.eq_nil_iff_forall_not_mem.mpr fun r mem => ?_, fun none r mem => ?_⟩
    · obtain ⟨-, full⟩ := held r mem
      rw [noMarks] at full
      exact absurd full (by decide)
    · rw [none] at mem
      exact absurd mem List.not_mem_nil
  simp only [State.idleForErase, Bool.and_eq_true, Option.isNone_iff_eq_none, List.isEmpty_iff, Bool.not_eq_true', and_assoc]
  constructor
  · rintro ⟨free, low, noErase, noMarks, noPass⟩
    obtain ⟨reads, writes⟩ := (high noMarks).mp low
    exact ⟨free, reads, writes, noErase, noMarks, noPass⟩
  · rintro ⟨free, reads, writes, noErase, noMarks, noPass⟩
    exact ⟨free, (high noMarks).mpr ⟨reads, writes⟩, noErase, noMarks, noPass⟩

/-- The conditions under which the erase of a sector starts (R127, R131). -/
abbrev State.eraseStarts (s : State) (i : Nat) : Prop :=
  s.eraseCandidate i ∧ (∀ m ∈ (s.sector i).marks, m = .blank ∨ m = .audited) ∧
  (∀ p n slot, (s.port p).stream = some n → s.lookup n ≠ some (i, slot)) ∧
  s.engine.current = none ∧ s.engine.reads = [] ∧ s.engine.writes = [] ∧ s.engine.erase = none ∧ s.pendingMarks = [] ∧
  s.pass = none

theorem eraseStarts_iff {s : State} (size : s.sectors.length = 32) (i : Nat) :
    s.eraseStarts i ↔ s.candidate = some i ∧ s.idleForErase = true ∧ s.erasable i = true := by
  rw [idleForErase_iff, erasable_iff]
  constructor
  · rintro ⟨candidate, marks, streams, free, reads, writes, noErase, noMarks, noPass⟩
    obtain ⟨-, -, -, -, -, state⟩ := id candidate
    exact ⟨(candidate_iff size noErase state).mpr candidate, ⟨free, reads, writes, noErase, noMarks, noPass⟩, state, marks, streams⟩
  · rintro ⟨candidate, ⟨free, reads, writes, noErase, noMarks, noPass⟩, state, marks, streams⟩
    exact ⟨(candidate_iff size noErase state).mp candidate, marks, streams, free, reads, writes, noErase, noMarks, noPass⟩

theorem eraseAheadStart_starts {s : State} (powered : s.powered = true) (size : s.sectors.length = 32) {i : Nat}
    (starts : s.eraseStarts i) : exec .eraseAheadStart s = .next (startErase i s) := by
  obtain ⟨candidate, idle, erasable⟩ := (eraseStarts_iff size i).mp starts
  rw [exec_eraseAheadStart, execEraseAheadStart, event_powered powered, candidate]
  exact congrArg Host.Outcome.next (if_pos ⟨idle, erasable⟩)

theorem eraseAheadStart_stands {s : State} (powered : s.powered = true) (size : s.sectors.length = 32)
    (starts : ∀ i, ¬ s.eraseStarts i) : exec .eraseAheadStart s = .next s := by
  rw [exec_eraseAheadStart, execEraseAheadStart, event_powered powered]
  cases candidate : s.candidate with
  | none => rfl
  | some i =>
    refine congrArg Host.Outcome.next (if_neg ?_)
    rintro ⟨idle, erasable⟩
    exact starts i ((eraseStarts_iff size i).mpr ⟨candidate, idle, erasable⟩)

/-! ## The resumption (R128) -/

theorem resumes_iff (s : State) (e : EraseJob) : (e.suspended = true ∧ s.engine.current.isNone = true ∧ (!s.highWaiting) = true) ↔
    e.suspended = true ∧ s.engine.current = none ∧ (∀ r ∈ s.engine.reads, s.HoldsBack r) ∧ s.engine.writes = [] := by
  rw [Option.isNone_iff_eq_none, Bool.not_eq_true', ← Bool.not_eq_true, highWaiting_iff, not_not]

theorem eraseResume_eq {s : State} (powered : s.powered = true) {e : EraseJob} (erase : s.engine.erase = some e) :
    exec .eraseResume s = .next (if e.suspended = true ∧ s.engine.current = none ∧ (∀ r ∈ s.engine.reads, s.HoldsBack r) ∧
      s.engine.writes = [] then { s with engine := { s.engine with
        current := some .erase, erase := some { e with suspended := false } } } else s) := by
  rw [exec_eraseResume, execEraseResume, event_powered powered, erase]
  exact congrArg Host.Outcome.next (if_congr (resumes_iff s e) rfl rfl)

/-! ## The ends (R132) -/

/-- The erase-ahead operation has ended with its sector in a state and its marks alike, the array as it left it (R132). -/
def eraseEnded (e : EraseJob) (j : Memory) (state : SectorState) (mark : Mark) (s : State) : State := { s with
  journal := j, eraseRecord := none
  sectors := s.sectors.set e.sector ⟨state, none, 0, List.replicate 16 mark, List.replicate 16 0xFF#8⟩
  engine := { s.engine with current := none, erase := none } }

theorem length_eraseEnded (e : EraseJob) (j : Memory) (state : SectorState) (mark : Mark) (s : State) :
    (eraseEnded e j state mark s).sectors.length = s.sectors.length := by
  rw [eraseEnded, List.length_set]

theorem eraseGood_eq {s : State} (size : s.sectors.length = 32) (e : EraseJob) (j : Memory) :
    eraseGood e.sector { s with journal := j } = settle (evalSpace (waitingSelects (eraseEnded e j .erased .blank s))) := by
  have same : endErase e.sector .erased { s with journal := j } = eraseEnded e j .erased .blank s := rfl
  have ended := (length_eraseEnded e j .erased .blank s).trans size
  rw [eraseGood, same, selectAgain_eq ended]

theorem setFault_sectors (k : FaultKind) (d : FaultDetail) (s : State) : (setFault k d s).sectors = s.sectors := by
  rw [setFault_frame]

theorem endErase_failed (e : EraseJob) (j : Memory) (s : State) :
    endErase e.sector .failed { s with journal := j } = eraseEnded e j .bad .badPattern s := rfl

theorem eraseBad_eq {s : State} (size : s.sectors.length = 32) (e : EraseJob) (j : Memory) :
    eraseBad e.sector { s with journal := j } = settle (evalSpace (waitingSelects
      (setFault .journalMedia (.sector e.sector) (eraseEnded e (programBad e.sector j) .bad .badPattern s)))) := by
  have same := endErase_failed e (programBad e.sector j) s
  have ended : (setFault .journalMedia (.sector e.sector)
      (eraseEnded e (programBad e.sector j) .bad .badPattern s)).sectors.length = 32 := by
    rw [setFault_sectors, length_eraseEnded, size]
  rw [eraseBad]
  dsimp only
  rw [same, selectAgain_eq ended]

/-- The end of a blank check, by whether its sector reads blank. -/
theorem blankCheck_ends {s : State} {e : EraseJob} (powered : s.powered = true) (size : s.sectors.length = 32)
    (erase : s.engine.erase = some e) (current : s.engine.current = some .blankCheck)
    (bytes : List (Nat × Byte)) :
    let j := memDecay s.journal (4096 * e.sector) 4096 bytes
    exec (.blankCheck bytes) s = .next (if sectorBlank j e.sector then
      settle (evalSpace (waitingSelects (eraseEnded e j .erased .blank s)))
      else settle { s with journal := j, engine := { s.engine with
        current := some .erase, erase := some { e with checking := false } } }) := by
  intro j
  have good := eraseGood_eq size e j
  rw [exec_blankCheck, execBlankCheck, event_powered powered, current, erase]
  dsimp only
  rw [blankRead, ← good]

/-- The end of an erase, by whether its sector reads blank and whether it was the second. -/
theorem eraseDone_ends {s : State} {e : EraseJob} (powered : s.powered = true) (size : s.sectors.length = 32)
    (erase : s.engine.erase = some e) (current : s.engine.current = some .erase)
    (bytes : List (Nat × Byte)) :
    let j := memDecay (memErase s.journal (4096 * e.sector) 4096) (4096 * e.sector) 4096 bytes
    exec (.eraseDone bytes) s = .next (if sectorBlank j e.sector then
      settle (evalSpace (waitingSelects (eraseEnded e j .erased .blank s)))
      else if e.retried then settle (evalSpace (waitingSelects
        (setFault .journalMedia (.sector e.sector) (eraseEnded e (programBad e.sector j) .bad .badPattern s))))
      else settle { s with journal := j, engine := { s.engine with
        current := some .erase, erase := some { e with retried := true, count := 0 } } }) := by
  intro j
  have good := eraseGood_eq size e j
  have bad := eraseBad_eq size e j
  have again : { s with journal := j, engine := { s.engine with erase := some { e with retried := true, count := 0 } } } =
      { s with journal := j, engine := { s.engine with
        current := some .erase, erase := some { e with retried := true, count := 0 } } } := by
    rw [← current]
  rw [exec_eraseDone, execEraseDone, event_powered powered, current, erase]
  dsimp only
  rw [eraseVerified, ← good, ← bad, ← again]

/-- Settles O49: the start by its candidate and conditions, the resumption, and the end of a check and of an erase. -/
theorem eraseAheadRuns : Obligations.EraseAheadRuns := by
  refine ⟨fun s size => aheadRun_eq size, fun s powered size => ⟨fun i starts => ?_, fun none => ?_⟩,
    fun s powered => ⟨fun e resumes => ?_, fun none => ?_⟩, fun bytes e s powered size wf erase =>
    ⟨fun current => ⟨fun blank => ?_, fun left => ?_, fun y outside => memRead_memDecay_outside outside _⟩,
      fun current => ⟨fun blank => ?_, fun left first => ?_, fun left again => ?_, fun y outside => ?_⟩⟩⟩
  · rw [eraseAheadStart_starts powered size starts, startErase, ← beq_eq_decide]
    rfl
  · exact eraseAheadStart_stands powered size none
  · obtain ⟨erase, conditions⟩ := resumes
    rw [eraseResume_eq powered erase, if_pos conditions]
  · cases erase : s.engine.erase with
    | none =>
      rw [exec_eraseResume, execEraseResume, event_powered powered, erase]
    | some e => rw [eraseResume_eq powered erase, if_neg fun conditions => none e ⟨erase, conditions⟩]
  · rw [blankCheck_ends powered size erase current, if_pos ((sectorBlank_iff (wf_memDecay wf ..) _).mpr blank)]
    rfl
  · rw [blankCheck_ends powered size erase current, if_neg (mt (sectorBlank_iff (wf_memDecay wf ..) _).mp left)]
  · rw [eraseDone_ends powered size erase current, if_pos ((sectorBlank_iff (wf_memDecay (wf_memErase wf ..) ..) _).mpr blank)]
    rfl
  · rw [eraseDone_ends powered size erase current, if_neg (mt (sectorBlank_iff (wf_memDecay (wf_memErase wf ..) ..) _).mp left),
      if_neg (by rw [first]; decide)]
  · obtain ⟨wf', reads⟩ := programBad_spec e.sector (wf_memDecay (wf_memErase wf (4096 * e.sector) 4096) (4096 * e.sector) 4096 bytes)
    refine ⟨_, wf', reads, ?_⟩
    rw [eraseDone_ends powered size erase current, if_neg (mt (sectorBlank_iff (wf_memDecay (wf_memErase wf ..) ..) _).mp left),
      if_pos again]
    rfl
  · rw [memRead_memDecay_outside outside, memRead_memErase_outside outside]

end Sys2Proof.Machine
end

section
/-! PROOFS. What the sector map shows, entry by entry, and AUDIT THROUGH (R116, R117, R121, R135). -/

namespace Sys2Proof.Machine

/-! ## The entries of the map (R116, R117) -/

theorem minOf_eq_some_iff {l : List Nat} {m : Nat} : minOf l = some m ↔ m ∈ l ∧ ∀ x ∈ l, m ≤ x := by
  have same : minOf l = l.min? := by cases l <;> rfl
  rw [same, List.min?_eq_some_iff]

theorem maxOf_eq_some_iff {l : List Nat} {m : Nat} : maxOf l = some m ↔ m ∈ l ∧ ∀ x ∈ l, x ≤ m := by
  have same : maxOf l = l.max? := by cases l <;> rfl
  rw [same, List.max?_eq_some_iff]

/-- A sector holds entries (R116). -/
abbrev State.holdsAt (s : State) (i : Nat) : Prop := i < 32 ∧ ((s.sector i).state = .filling ∨ (s.sector i).state = .full)

/-- The commit in progress has begun an entry in a sector (R116, R123). -/
abbrev State.writingAt (s : State) (i : Nat) : Prop :=
  ∃ h, s.head = some h ∧ h.sector = i ∧ (h.step = .body ∨ h.step = .complete)

/-- A slot of a sector holds the retained entry of a number (R116, R117). -/
abbrev State.entryAt (s : State) (i slot n : Nat) : Prop :=
  s.holdsAt i ∧ (s.sector i).first.map (· + slot) = some n ∧
    (slot < (s.sector i).used ∨ (slot = (s.sector i).used ∧ s.writingAt i))

theorem holdsEntries_iff (c : Sector) : holdsEntries c = true ↔ c.state = .filling ∨ c.state = .full := by
  rw [holdsEntries, Bool.or_eq_true, beq_iff_eq, beq_iff_eq]

theorem inProgress_eq_some_iff (s : State) (h : Head) :
    s.inProgress = some h ↔ s.head = some h ∧ (h.step = .body ∨ h.step = .complete) := by
  rw [State.inProgress, Option.filter_eq_some_iff, Bool.or_eq_true, beq_iff_eq, beq_iff_eq]

/-- A slot counts to a sector's entries when it is below those used, or the commit in progress has it. -/
theorem lt_extent_iff (s : State) (i slot : Nat) : slot < s.extent i ↔
    ((s.sector i).state = .filling ∨ (s.sector i).state = .full) ∧
    (slot < (s.sector i).used ∨ (slot = (s.sector i).used ∧ s.writingAt i)) := by
  rw [← holdsEntries_iff, State.extent]
  by_cases holds : holdsEntries (s.sector i) = true
  · rw [if_pos holds]
    simp only [holds, true_and]
    cases progress : s.inProgress with
    | none =>
      have still : ¬ s.writingAt i := fun ⟨h, head, _, step⟩ => by
        rw [(inProgress_eq_some_iff s h).mpr ⟨head, step⟩] at progress
        exact absurd progress (Option.some_ne_none h)
      simp only [still, and_false, or_false, Nat.add_zero]
    | some h =>
      obtain ⟨head, step⟩ := (inProgress_eq_some_iff s h).mp progress
      have writing : s.writingAt i ↔ h.sector = i := by
        constructor
        · rintro ⟨h', head', own, -⟩
          obtain rfl := Option.some_inj.mp (head.symm.trans head')
          exact own
        · exact fun own => ⟨h, head, own, step⟩
      rw [writing]
      dsimp only
      split <;> omega
  · rw [if_neg holds]
    exact iff_of_false (Nat.not_lt_zero slot) fun counted => holds counted.1

theorem entryAt_iff (s : State) (i slot n : Nat) :
    s.entryAt i slot n ↔ i < 32 ∧ slot < s.extent i ∧ (s.sector i).first.map (· + slot) = some n := by
  rw [lt_extent_iff]
  constructor
  · rintro ⟨⟨inside, holds⟩, number, counted⟩
    exact ⟨inside, ⟨holds, counted⟩, number⟩
  · rintro ⟨inside, ⟨holds, counted⟩, number⟩
    exact ⟨⟨inside, holds⟩, number, counted⟩

theorem mem_places_iff (s : State) (n i slot : Nat) : (i, slot) ∈ s.places n ↔ s.entryAt i slot n ∧ slot ≤ 15 := by
  rw [mem_places, entryAt_iff, holdsEntries_iff]
  constructor
  · rintro ⟨inside, counted, -, f, first, low, high, rfl⟩
    refine ⟨⟨inside, counted, ?_⟩, by omega⟩
    rw [first, Option.map_some, Option.some_inj]
    omega
  · rintro ⟨⟨inside, counted, number⟩, low⟩
    obtain ⟨f, first, sum⟩ := Option.map_eq_some_iff.mp number
    exact ⟨inside, counted, ((lt_extent_iff s i slot).mp counted).1, f, first, by omega, by omega, by omega⟩

theorem mem_lasts_iff (s : State) (m : Nat) : m ∈ (sectorIndexes.filterMap fun i =>
      if 0 < s.extent i then (s.sector i).first.map (· + s.extent i - 1) else none) ↔
    ∃ i, s.entryAt i (s.extent i - 1) m ∧ 0 < s.extent i := by
  simp only [List.mem_filterMap, sectorIndexes, List.mem_range, Option.ite_none_right_eq_some, entryAt_iff]
  constructor
  · rintro ⟨i, inside, some', last⟩
    obtain ⟨f, first, sum⟩ := Option.map_eq_some_iff.mp last
    refine ⟨i, ⟨inside, by omega, ?_⟩, some'⟩
    rw [first, Option.map_some, Option.some_inj]
    omega
  · rintro ⟨i, ⟨inside, -, number⟩, some'⟩
    obtain ⟨f, first, sum⟩ := Option.map_eq_some_iff.mp number
    refine ⟨i, inside, some', ?_⟩
    rw [first, Option.map_some, Option.some_inj]
    omega

theorem mem_firsts_iff (s : State) (m : Nat) : m ∈ (sectorIndexes.filterMap fun i =>
      if 0 < s.extent i then (s.sector i).first else none) ↔ ∃ i, s.entryAt i 0 m := by
  simp only [List.mem_filterMap, sectorIndexes, List.mem_range, Option.ite_none_right_eq_some, entryAt_iff, Nat.add_zero,
    Option.map_id']

/-- The entries of a sector run from its first number to its last. -/
theorem entryAt_last {s : State} {i slot n : Nat} (entry : s.entryAt i slot n) :
    ∃ m, s.entryAt i (s.extent i - 1) m ∧ 0 < s.extent i ∧ n ≤ m := by
  obtain ⟨inside, counted, number⟩ := (entryAt_iff s i slot n).mp entry
  obtain ⟨f, first, sum⟩ := Option.map_eq_some_iff.mp number
  refine ⟨f + (s.extent i - 1), (entryAt_iff ..).mpr ⟨inside, by omega, ?_⟩, by omega, by omega⟩
  rw [first, Option.map_some]

theorem entryAt_first {s : State} {i slot n : Nat} (entry : s.entryAt i slot n) : ∃ m, s.entryAt i 0 m ∧ m ≤ n := by
  obtain ⟨inside, counted, number⟩ := (entryAt_iff s i slot n).mp entry
  obtain ⟨f, first, sum⟩ := Option.map_eq_some_iff.mp number
  refine ⟨f, (entryAt_iff ..).mpr ⟨inside, by omega, ?_⟩, by omega⟩
  rw [first, Option.map_some, Nat.add_zero]

theorem newest_eq_some {s : State} {m : Nat} (entry : ∃ i slot, s.entryAt i slot m)
    (highest : ∀ i slot n, s.entryAt i slot n → n ≤ m) : s.newest = some m := by
  obtain ⟨i, slot, entry⟩ := entry
  obtain ⟨m', last, some', above⟩ := entryAt_last entry
  obtain rfl : m' = m := Nat.le_antisymm (highest _ _ _ last) above
  refine maxOf_eq_some_iff.mpr ⟨(mem_lasts_iff s m').mpr ⟨i, last, some'⟩, fun n mem => ?_⟩
  obtain ⟨k, entry', -⟩ := (mem_lasts_iff s n).mp mem
  exact highest _ _ _ entry'

theorem oldest_eq_some {s : State} {m : Nat} (entry : ∃ i slot, s.entryAt i slot m)
    (lowest : ∀ i slot n, s.entryAt i slot n → m ≤ n) : s.oldest = some m := by
  obtain ⟨i, slot, entry⟩ := entry
  obtain ⟨m', first, below⟩ := entryAt_first entry
  obtain rfl : m' = m := Nat.le_antisymm below (lowest _ _ _ first)
  refine minOf_eq_some_iff.mpr ⟨(mem_firsts_iff s m').mpr ⟨i, first⟩, fun n mem => ?_⟩
  obtain ⟨k, entry'⟩ := (mem_firsts_iff s n).mp mem
  exact lowest _ _ _ entry'

theorem maxOf_nil_of {l : List Nat} (empty : ∀ x, x ∉ l) : maxOf l = none := by
  rw [List.eq_nil_iff_forall_not_mem.mpr empty]
  rfl

theorem minOf_nil_of {l : List Nat} (empty : ∀ x, x ∉ l) : minOf l = none := by
  rw [List.eq_nil_iff_forall_not_mem.mpr empty]
  rfl

theorem newest_none {s : State} (empty : ∀ i slot n, ¬ s.entryAt i slot n) : s.newest = none ∧ s.oldest = none := by
  refine ⟨maxOf_nil_of fun n mem => ?_, minOf_nil_of fun n mem => ?_⟩
  · obtain ⟨i, entry, -⟩ := (mem_lasts_iff s n).mp mem
    exact empty _ _ _ entry
  · obtain ⟨i, entry⟩ := (mem_firsts_iff s n).mp mem
    exact empty _ _ _ entry

/-! ## The newest entry whose programming has ended (R138) -/

theorem mem_dones_iff (s : State) (m : Nat) : m ∈ (sectorIndexes.filterMap fun i =>
      let c := s.sector i
      if holdsEntries c && 0 < c.used then c.first.map (· + c.used - 1) else none) ↔
    ∃ i, s.holdsAt i ∧ 0 < (s.sector i).used ∧ (s.sector i).first.map (· + ((s.sector i).used - 1)) = some m := by
  simp only [List.mem_filterMap, sectorIndexes, List.mem_range, Option.ite_none_right_eq_some, Bool.and_eq_true,
    decide_eq_true_eq, holdsEntries_iff]
  refine exists_congr fun i => ?_
  cases (s.sector i).first with
  | none => simp
  | some f =>
    simp only [Option.map_some, Option.some_inj]
    constructor
    · rintro ⟨inside, ⟨holds, used⟩, sum⟩
      exact ⟨⟨inside, holds⟩, used, by omega⟩
    · rintro ⟨⟨inside, holds⟩, used, sum⟩
      exact ⟨inside, ⟨holds, used⟩, by omega⟩

theorem newestDone_eq_some {s : State} {m : Nat}
    (entry : ∃ i slot, s.holdsAt i ∧ slot < (s.sector i).used ∧ (s.sector i).first.map (· + slot) = some m)
    (highest : ∀ i slot n, s.holdsAt i → slot < (s.sector i).used → (s.sector i).first.map (· + slot) = some n → n ≤ m) :
    s.newestDone = some m := by
  obtain ⟨i, slot, holds, used, number⟩ := entry
  obtain ⟨f, first, sum⟩ := Option.map_eq_some_iff.mp number
  have last := highest i ((s.sector i).used - 1) (f + ((s.sector i).used - 1)) holds (by omega) (by rw [first]; rfl)
  refine maxOf_eq_some_iff.mpr ⟨(mem_dones_iff s m).mpr ⟨i, holds, by omega, ?_⟩, fun n mem => ?_⟩
  · rw [first, Option.map_some, Option.some_inj]
    omega
  · obtain ⟨k, holds', used', number'⟩ := (mem_dones_iff s n).mp mem
    exact highest k _ n holds' (by omega) number'

theorem newestDone_none {s : State} (empty : ∀ i, s.holdsAt i → (s.sector i).used = 0 ∨ (s.sector i).first = none) :
    s.newestDone = none := by
  refine maxOf_nil_of fun n mem => ?_
  obtain ⟨i, holds, used, number⟩ := (mem_dones_iff s n).mp mem
  rcases empty i holds with none | none
  · omega
  · rw [none] at number
    exact absurd number (by simp)

/-- The places of a number stand in the order of their sectors. -/
theorem places_pairwise (s : State) (n : Nat) : (s.places n).Pairwise (fun x y => x.1 < y.1) := by
  rw [State.places, List.pairwise_filterMap]
  refine List.pairwise_lt_range.imp fun {a b} lt x hx y hy => ?_
  obtain ⟨slot, -, rfl⟩ := Option.map_eq_some_iff.mp hx
  obtain ⟨slot', -, rfl⟩ := Option.map_eq_some_iff.mp hy
  exact lt

end Sys2Proof.Machine
end

section
/-! PROOFS. AUDIT THROUGH (R121, R135). -/

namespace Sys2Proof.Machine

theorem exec_auditThrough (p : Port) (receipt : Word) (s : State) :
    exec (.auditThrough p receipt) s = request p s (auditThrough p receipt) := rfl

theorem auditThrough_taken (p : Port) (receipt : Word) (s : State) : auditThrough p receipt (taken p s) =
    if s.role p ≠ .office then answered p .role [] s
    else if s.mode ≠ .run then answered p .mode [] s
    else if s.pass ≠ none then answered p .state [] s
    else beginAudit p receipt.toNat (taken p s) := by
  rw [auditThrough, guarded_cons_of_iff (isOffice_eq_false_iff _ p), guarded_cons_of_iff (isRun_eq_false_iff _),
    guarded_cons_of_iff (isNone_eq_false_iff _), guarded_nil]
  rfl

theorem auditable_eq_false_iff (s : State) (k : Nat) : (!s.auditable k) = true ↔
    ∃ x ∈ s.places k, s.slotMark x.1 x.2 ≠ .printed ∧ s.slotMark x.1 x.2 ≠ .torn := by
  rw [Bool.not_eq_true', State.auditable, List.all_eq_false]
  simp only [Bool.or_eq_true, beq_iff_eq, not_or]

theorem mem_retainedWithin (s : State) (above upTo k : Nat) :
    k ∈ s.retainedWithin above upTo ↔ k ∈ s.retainedNumbers ∧ above < k ∧ k ≤ upTo := by
  simp only [State.retainedWithin, List.mem_filter, Bool.and_eq_true, decide_eq_true_eq]

theorem retainedWithin_sorted (s : State) (above upTo : Nat) : (s.retainedWithin above upTo).Pairwise (· < ·) :=
  (retainedNumbers_sorted s).filter _

/-- An entry above the audit mark and up to a number that no audit may mark (R135 check 6). -/
abbrev State.blocksAudit (s : State) (n k : Nat) : Prop :=
  s.auditMark < k ∧ k ≤ n ∧ ∃ x ∈ s.places k, s.slotMark x.1 x.2 ≠ .printed ∧ s.slotMark x.1 x.2 ≠ .torn

theorem firstUnprinted_eq_some {s : State} {n k : Nat} (blocks : s.blocksAudit n k) (least : ∀ k', s.blocksAudit n k' → k ≤ k') :
    s.firstUnprinted n = some k := by
  obtain ⟨above, upTo, x, mem, marks⟩ := blocks
  refine ((find?_least (retainedWithin_sorted s s.auditMark n) _).2 k).mpr
    ⟨(mem_retainedWithin ..).mpr ⟨places_retained mem, above, upTo⟩, (auditable_eq_false_iff s k).mpr ⟨x, mem, marks⟩,
      fun y within printed => ?_⟩
  obtain ⟨-, above', upTo'⟩ := (mem_retainedWithin ..).mp within
  exact least y ⟨above', upTo', (auditable_eq_false_iff s y).mp printed⟩

theorem firstUnprinted_eq_none {s : State} {n : Nat} (clear : ∀ k, ¬ s.blocksAudit n k) : s.firstUnprinted n = none := by
  refine List.find?_eq_none.mpr fun k within printed => ?_
  obtain ⟨-, above, upTo⟩ := (mem_retainedWithin ..).mp within
  exact clear k ⟨above, upTo, (auditable_eq_false_iff s k).mp printed⟩

/-- The retained numbers within bounds are the numbers within them that are retained. -/
theorem retainedWithin_eq (s : State) (above upTo : Nat) : s.retainedWithin above upTo =
    ((List.range (upTo - above)).map (above + 1 + ·)).filter (fun k => (s.lookup k).isSome) := by
  refine List.Pairwise.eq_of_mem_iff (r := (· < ·)) (retainedWithin_sorted s above upTo) ?_ fun k => ?_
  · refine List.Pairwise.filter _ (List.Pairwise.map (S := (· < ·)) (above + 1 + ·) (fun _ _ h => ?_) List.pairwise_lt_range)
    exact Nat.add_lt_add_left h (above + 1)
  · rw [mem_retainedWithin, mem_retainedNumbers, List.mem_filter, List.mem_map, and_comm]
    refine and_congr_left' ⟨fun ⟨low, high⟩ => ⟨k - (above + 1), List.mem_range.mpr (by omega), by omega⟩, ?_⟩
    rintro ⟨j, inside, rfl⟩
    have := List.mem_range.mp inside
    omega

/-- The entries to be marked are those of the numbers above the audit mark, as far as they are retained. -/
theorem auditCount_eq (s : State) (above upTo : Nat) : (s.retainedWithin above upTo).flatMap s.places =
    (List.range (upTo - above)).flatMap (fun k => s.places (above + 1 + k)) := by
  rw [retainedWithin_eq, flatMap_filter, List.flatMap_map]
  refine List.flatMap_congr fun k _ => ?_
  split
  · rfl
  · rename_i gone
    exact ((lookup_spec s _).1.mp (Option.not_isSome_iff_eq_none.mp gone)).symm

theorem beginAudit_taken (p : Port) (n : Nat) (s : State) : beginAudit p n (taken p s) =
    if n ≤ s.auditMark then answered p .ok (be 4 s.auditMark) s
    else if s.newest.getD 0 < n then answered p .range [] s
    else (s.firstUnprinted n).elim
      (settle (reply p .ok (be 4 s.auditMark ++
          be 2 ((List.range (n - s.auditMark)).flatMap (fun k => s.places (s.auditMark + 1 + k))).length)
        { taken p s with pass := some ⟨n, s.auditMark + 1, p⟩ }))
      (fun k => answered p .auditUnprinted (be 4 k) s) := by
  have places : (taken p s).places = s.places := funext fun k => taken_places p s k
  rw [beginAudit, taken_auditMark, taken_newest, taken_firstUnprinted, taken_retainedWithin, places, auditCount_eq]
  cases s.firstUnprinted n <;> rfl

/-- The facts that a pass which has begun leaves of the state (R135). -/
theorem settle_keeps (s : State) : (settle s).pass = s.pass ∧ (settle s).journal = s.journal ∧ (settle s).sectors = s.sectors ∧
    (settle s).tickets = s.tickets ∧ (settle s).clock = s.clock ∧ (settle s).settings = s.settings := by
  rw [settle_frame]
  exact ⟨rfl, rfl, rfl, rfl, rfl, rfl⟩

/-- Settles O47: what the map shows of entries, the audit mark, and the request by its checks. -/
theorem auditThroughAnswers : Obligations.AuditThroughAnswers := by
  refine ⟨fun s => ⟨fun n i slot => mem_places_iff s n i slot, fun n => ⟨places_pairwise s n, rfl, rfl⟩, fun i slot => rfl,
    newest_none, fun m => newest_eq_some, fun m => oldest_eq_some, fun m => newestDone_eq_some, newestDone_none⟩,
    auditMark_spec, fun p receipt s taking => ?_⟩
  intro n
  rw [exec_auditThrough, request_taking taking, auditThrough_taken]
  refine ⟨fun role => ?_, fun role mode => ?_, fun role mode busy => ?_, fun role mode free => ?_⟩
  · rw [if_pos role]
  · rw [if_neg (not_not.mpr role), if_pos mode]
  · rw [if_neg (not_not.mpr role), if_neg (not_not.mpr mode), if_pos (Option.isSome_iff_ne_none.mp busy)]
  · rw [if_neg (not_not.mpr role), if_neg (not_not.mpr mode), if_neg (not_not.mpr free), beginAudit_taken]
    refine ⟨fun marked => ?_, fun above beyond => ?_, fun k above upTo blocks least => ?_, fun above upTo clear => ?_⟩
    · rw [if_pos marked]
    · rw [if_neg (Nat.not_le.mpr above), if_pos beyond]
    · rw [if_neg (Nat.not_le.mpr above), if_neg (Nat.not_lt.mpr upTo), firstUnprinted_eq_some blocks least, Option.elim_some]
    · rw [if_neg (Nat.not_le.mpr above), if_neg (Nat.not_lt.mpr upTo), firstUnprinted_eq_none clear, Option.elim_none]
      obtain ⟨result, done⟩ := settle_reply_port p .ok (be 4 s.auditMark ++
          be 2 ((List.range (n - s.auditMark)).flatMap (fun k => s.places (s.auditMark + 1 + k))).length)
        { taken p s with pass := some ⟨n, s.auditMark + 1, p⟩ }
      obtain ⟨pass, journal, sectors, tickets, clock, settings⟩ := settle_keeps (reply p .ok (be 4 s.auditMark ++
          be 2 ((List.range (n - s.auditMark)).flatMap (fun k => s.places (s.auditMark + 1 + k))).length)
        { taken p s with pass := some ⟨n, s.auditMark + 1, p⟩ })
      exact ⟨_, rfl, pass, result, done, journal, sectors, tickets, clock, settings⟩

end Sys2Proof.Machine
end

section
/-! PROOFS. The map when one mark changes, and the end of a mark's programming (R116, R119, R129, R136). -/

namespace Sys2Proof.Machine

/-! ## The map when a mark changes (R116) -/

theorem sector_setSlotMark (s : State) (i slot : Nat) (m : Mark) (k : Nat) : (s.setSlotMark i slot m).sector k =
    if k = i ∧ i < s.sectors.length then { s.sector i with marks := (s.sector i).marks.set slot m } else s.sector k := by
  have set : (s.setSlotMark i slot m).sectors = s.sectors.set i { s.sector i with marks := (s.sector i).marks.set slot m } := rfl
  rw [State.sector, set, List.getD_eq_getElem?_getD, List.getElem?_set]
  by_cases own : k = i
  · subst own
    by_cases inside : k < s.sectors.length
    · rw [if_pos rfl, if_pos inside, if_pos ⟨rfl, inside⟩, Option.getD_some]
    · rw [if_pos rfl, if_neg inside, if_neg (fun h => inside h.2), State.sector, List.getD_eq_getElem?_getD,
        List.getElem?_eq_none (Nat.le_of_not_lt inside)]
  · rw [if_neg (Ne.symm own), if_neg (fun h => own h.1), State.sector, List.getD_eq_getElem?_getD]

theorem slotMark_setSlotMark {s : State} {i slot : Nat} (sectors : i < s.sectors.length) (marks : slot < (s.sector i).marks.length)
    (m : Mark) (k l : Nat) :
    (s.setSlotMark i slot m).slotMark k l = if (k, l) = (i, slot) then m else s.slotMark k l := by
  rw [State.slotMark, sector_setSlotMark]
  by_cases own : k = i
  · subst own
    rw [if_pos ⟨rfl, sectors⟩, List.getD_eq_getElem?_getD, List.getElem?_set]
    by_cases same : l = slot
    · subst same
      rw [if_pos rfl, if_pos marks, if_pos rfl, Option.getD_some]
    · rw [if_neg (Ne.symm same), if_neg (fun h => same (Prod.mk.inj h).2), State.slotMark, List.getD_eq_getElem?_getD]
  · rw [if_neg (fun h => own h.1), if_neg (fun h => own (Prod.mk.inj h).1), State.slotMark]

/-- The sectors of two maps hold the same ranges of numbers. -/
structure SameRanges (s t : State) : Prop where
  state : ∀ i, (t.sector i).state = (s.sector i).state
  first : ∀ i, (t.sector i).first = (s.sector i).first
  used : ∀ i, (t.sector i).used = (s.sector i).used
  head : t.head = s.head

section
variable {s t : State} (h : SameRanges s t)
include h

theorem SameRanges.extent (i : Nat) : t.extent i = s.extent i := by
  simp only [State.extent, State.inProgress, holdsEntries, h.state, h.used, h.head]
  rfl

theorem SameRanges.places (n : Nat) : t.places n = s.places n := by
  simp only [State.places, State.slotIn, inSector, holdsEntries, h.state, h.first, h.extent]
  rfl

end

theorem sameRanges_setSlotMark (s : State) (i slot : Nat) (m : Mark) : SameRanges s (s.setSlotMark i slot m) := by
  have sector (k : Nat) : ∃ marks, (s.setSlotMark i slot m).sector k = { s.sector k with marks := marks } := by
    rw [sector_setSlotMark]
    split
    · rename_i own
      exact ⟨_, by rw [own.1]⟩
    · exact ⟨_, rfl⟩
  constructor
  · intro k
    obtain ⟨marks, same⟩ := sector k
    rw [same]
  · intro k
    obtain ⟨marks, same⟩ := sector k
    rw [same]
  · intro k
    obtain ⟨marks, same⟩ := sector k
    rw [same]
  · rfl

/-! ## PRINTED marks (R129) -/

theorem printedMark_ends {s : State} {again : Bool} {m : MarkReq} {ms : List MarkReq} {i slot : Nat} (powered : s.powered = true)
    (current : s.engine.current = some (.printedMark again)) (marks : s.pendingMarks = m :: ms)
    (found : s.lookup m.receipt = some (i, slot)) (cells time : Cells) :
    exec (.printedMark cells time) s = .next (markPrinted m i slot again cells time s) := by
  rw [exec_printedMark, execPrintedMark, event_powered powered, current, marks]
  dsimp only
  rw [found]

/-- The array when a PRINTED mark and its print time have been programmed (R129). -/
def printedArray (m : MarkReq) (i slot : Nat) (cells time : Cells) (s : State) : Memory :=
  (memProgramVerify (memProgramVerify s.journal (entryAddr i slot) [0x1F#8] cells).1 (entryAddr i slot + 12) (be 4 m.time) time).1

/-- Both programmings read back as programmed. -/
def printedGood (m : MarkReq) (i slot : Nat) (cells time : Cells) (s : State) : Bool :=
  let first := memProgramVerify s.journal (entryAddr i slot) [0x1F#8] cells
  first.2 && (memProgramVerify first.1 (entryAddr i slot + 12) (be 4 m.time) time).2

/-- An operation on the mark of an entry has ended: the array and the map's copy as it left them, and the oldest request gone. -/
def markDropped (j : Memory) (i slot : Nat) (m : Mark) (s : State) : State :=
  (State.setSlotMark { s with journal := j } i slot m).endOp.dropMark

theorem markDropped_yard (j : Memory) (i slot : Nat) (m : Mark) (s : State) :
    (markDropped j i slot m s).journal = j ∧ (markDropped j i slot m s).settings = s.settings ∧
    (markDropped j i slot m s).tickets = s.tickets ∧ (markDropped j i slot m s).clock = s.clock ∧
    (markDropped j i slot m s).tally = s.tally ∧ (markDropped j i slot m s).faults = s.faults ∧
    (markDropped j i slot m s).pendingMarks = s.pendingMarks.tail ∧ (markDropped j i slot m s).engine.current = none :=
  ⟨rfl, rfl, rfl, rfl, rfl, rfl, rfl, rfl⟩

theorem markDropped_slotMark {s : State} {i slot : Nat} (sectors : i < s.sectors.length) (marks : slot < (s.sector i).marks.length)
    (j : Memory) (m : Mark) : (markDropped j i slot m s).slotMark i slot = m :=
  (slotMark_setSlotMark (s := { s with journal := j }) sectors marks m i slot).trans (if_pos rfl)

theorem markPrinted_eq (m : MarkReq) (i slot : Nat) (again : Bool) (cells time : Cells) (s : State) :
    let j := printedArray m i slot cells time s
    markPrinted m i slot again cells time s =
      if printedGood m i slot cells time s then settle (markDropped j i slot .printed s)
      else if again then settle (setFault .journalMedia (.receipt m.receipt)
        (markDropped j i slot (readMark (memRead j (entryAddr i slot))) s))
      else State.takeOp { s with journal := j } (.printedMark true) := rfl

/-- The end of an event leaves the books, the clock, the settings, the array, the map and the faults. -/
theorem settle_yard (s : State) : (settle s).journal = s.journal ∧ (settle s).settings = s.settings ∧
    (settle s).tickets = s.tickets ∧ (settle s).clock = s.clock ∧ (settle s).tally = s.tally ∧ (settle s).faults = s.faults ∧
    (settle s).pass = s.pass ∧ SameMap s (settle s) ∧ (settle s).counter = s.counter := by
  rw [settle_frame]
  exact ⟨rfl, rfl, rfl, rfl, rfl, rfl, rfl, ⟨rfl, rfl⟩, rfl⟩

/-- A setting event leaves the books, the clock, the settings, the array and the map. -/
theorem setFault_yard (k : FaultKind) (d : FaultDetail) (s : State) : (setFault k d s).journal = s.journal ∧
    (setFault k d s).settings = s.settings ∧ (setFault k d s).tickets = s.tickets ∧ (setFault k d s).clock = s.clock ∧
    (setFault k d s).tally = s.tally ∧ (setFault k d s).faults = s.faults.set (faultIndex k) (some ⟨d, s.clock⟩) ∧
    (setFault k d s).pendingMarks = s.pendingMarks ∧ (setFault k d s).engine = s.engine ∧ SameMap s (setFault k d s) := by
  rw [setFault_frame]
  exact ⟨rfl, rfl, rfl, rfl, rfl, rfl, rfl, rfl, ⟨rfl, rfl⟩⟩

/-- The end of a PRINTED mark, by whether both programmings read back and whether it was the second (R129). -/
theorem printedMark_cases {s : State} {again : Bool} {m : MarkReq} {ms : List MarkReq} {i slot : Nat} (powered : s.powered = true)
    (size : s.faults.length = 11) (sectors : i < s.sectors.length) (marks : slot < (s.sector i).marks.length)
    (current : s.engine.current = some (.printedMark again)) (pending : s.pendingMarks = m :: ms)
    (found : s.lookup m.receipt = some (i, slot)) (cells time : Cells) :
    let good := printedGood m i slot cells time s
    ∃ t, exec (.printedMark cells time) s = .next t ∧ t.journal = printedArray m i slot cells time s ∧
      t.settings = s.settings ∧ t.tickets = s.tickets ∧ t.clock = s.clock ∧ t.tally = s.tally ∧
      (good = true → t.slotMark i slot = .printed ∧ t.faults = s.faults ∧
        ∃ u, t = settle u ∧ u.pendingMarks = ms ∧ u.engine.current = none) ∧
      (good = false → again = false → t.engine.current = some (.printedMark true) ∧ t.pendingMarks = s.pendingMarks) ∧
      (good = false → again = true → t.fault .journalMedia = some ⟨.receipt m.receipt, s.clock⟩ ∧
        ∃ u, t = settle u ∧ u.pendingMarks = ms ∧ u.engine.current = none) := by
  intro good
  refine ⟨_, printedMark_ends powered current pending found cells time, ?_⟩
  have tail : s.pendingMarks.tail = ms := by rw [pending, List.tail_cons]
  rw [markPrinted_eq]
  by_cases verified : printedGood m i slot cells time s = true
  · rw [if_pos verified]
    have mark := markDropped_slotMark sectors marks (printedArray m i slot cells time s) .printed
    obtain ⟨journal', settings', tickets', clock', tally', faults', pending', engine'⟩ :=
      markDropped_yard (printedArray m i slot cells time s) i slot .printed s
    generalize markDropped (printedArray m i slot cells time s) i slot .printed s = u at *
    obtain ⟨journal, settings, tickets, clock, tally, faults, -, map, -⟩ := settle_yard u
    exact ⟨journal.trans journal', settings.trans settings', tickets.trans tickets', clock.trans clock', tally.trans tally',
      fun _ => ⟨(map.slotMark i slot).trans mark, faults.trans faults', u, rfl, pending'.trans tail, engine'⟩,
      fun bad => absurd (verified.symm.trans bad) (by decide), fun bad => absurd (verified.symm.trans bad) (by decide)⟩
  · rw [if_neg verified]
    cases again with
    | false =>
      rw [if_neg Bool.false_ne_true]
      exact ⟨rfl, rfl, rfl, rfl, rfl, fun ok => absurd ok verified, fun _ _ => ⟨rfl, rfl⟩, fun _ second => absurd second (by decide)⟩
    | true =>
      rw [if_pos rfl]
      obtain ⟨journal', settings', tickets', clock', tally', faults', pending', engine'⟩ := markDropped_yard
        (printedArray m i slot cells time s) i slot (readMark (memRead (printedArray m i slot cells time s) (entryAddr i slot))) s
      generalize markDropped (printedArray m i slot cells time s) i slot
        (readMark (memRead (printedArray m i slot cells time s) (entryAddr i slot))) s = w at *
      obtain ⟨journal'', settings'', tickets'', clock'', tally'', faults'', pending'', engine'', -⟩ :=
        setFault_yard .journalMedia (.receipt m.receipt) w
      generalize setFault .journalMedia (.receipt m.receipt) w = u at *
      obtain ⟨journal, settings, tickets, clock, tally, faults, -, -, -⟩ := settle_yard u
      rw [faults', clock'] at faults''
      exact ⟨(journal.trans journal'').trans journal', (settings.trans settings'').trans settings',
        (tickets.trans tickets'').trans tickets', (clock.trans clock'').trans clock', (tally.trans tally'').trans tally',
        fun ok => absurd ok verified, fun _ first => absurd first (by decide),
        fun _ _ => ⟨fault_of_faults size (faults.trans faults''), u, rfl, (pending''.trans pending').trans tail,
          (congrArg Engine.current engine'').trans engine'⟩⟩

end Sys2Proof.Machine
end

section
/-! PROOFS. The end of an AUDITED mark's programming, and the obligation on the marks (R129, R135, R136). -/

namespace Sys2Proof.Machine

theorem SameMap.auditMark {s t : State} (h : SameMap s t) (counter : t.counter = s.counter) : t.auditMark = s.auditMark := by
  simp only [State.auditMark, h.newest, h.retainedNumbers, h.unaudited, counter]

theorem auditMark_ends {s : State} {again : Bool} {q : Pass} {i slot : Nat} (powered : s.powered = true)
    (current : s.engine.current = some (.auditMark again)) (pass : s.pass = some q)
    (found : s.unaudited q.next = some (i, slot)) (cells : Cells) :
    exec (.auditMark cells) s = .next (markAudited q i slot again cells s) := by
  rw [exec_auditMark, execAuditMark, event_powered powered, current, pass]
  dsimp only
  rw [found]

/-- The AUDITED mark of an entry stands, in the array and in the map (R136). -/
def auditMarked (j : Memory) (i slot : Nat) (s : State) : State := (State.setSlotMark { s with journal := j } i slot .audited).endOp

theorem markAudited_eq (q : Pass) (i slot : Nat) (again : Bool) (cells : Cells) (s : State) :
    let a := entryAddr i slot
    let j := memProgram s.journal a [0x77#8] cells.stuck cells.lost
    markAudited q i slot again cells s =
      if memRead j a = memRead s.journal a &&& 0x77#8 ∧ readMark (memRead j a) = .audited then
        settle (passOn q (auditMarked j i slot s))
      else if again then settle (auditDone q true q.next
        (setFault .journalMedia (.receipt q.next) (State.endOp { s with journal := j })))
      else State.takeOp { s with journal := j } (.auditMark true) := rfl

theorem auditMarked_yard (j : Memory) (i slot : Nat) (s : State) : (auditMarked j i slot s).journal = j ∧
    (auditMarked j i slot s).settings = s.settings ∧ (auditMarked j i slot s).tickets = s.tickets ∧
    (auditMarked j i slot s).clock = s.clock ∧ (auditMarked j i slot s).tally = s.tally ∧
    (auditMarked j i slot s).faults = s.faults ∧ (auditMarked j i slot s).ports = s.ports ∧
    (auditMarked j i slot s).engine.current = none :=
  ⟨rfl, rfl, rfl, rfl, rfl, rfl, rfl, rfl⟩

/-- The entries left to audit when one has been marked: those but it that do not carry AUDITED. -/
theorem auditMarked_unaudited {s : State} {i slot : Nat} (sectors : i < s.sectors.length)
    (marks : slot < (s.sector i).marks.length) (j : Memory) (k : Nat) : ((auditMarked j i slot s).unaudited k).isSome = true ↔
    ∃ x ∈ s.places k, x ≠ (i, slot) ∧ s.slotMark x.1 x.2 ≠ .audited := by
  have places : (auditMarked j i slot s).places k = s.places k := (sameRanges_setSlotMark { s with journal := j } i slot .audited).places k
  have mark (x : Nat × Nat) : (auditMarked j i slot s).slotMark x.1 x.2 = if x = (i, slot) then .audited else s.slotMark x.1 x.2 :=
    slotMark_setSlotMark (s := { s with journal := j }) sectors marks .audited x.1 x.2
  rw [unaudited_isSome, places]
  refine exists_congr fun x => and_congr_right fun _ => ?_
  rw [mark]
  by_cases own : x = (i, slot)
  · rw [if_pos own]
    exact iff_of_false (fun h => h rfl) fun h => h.1 own
  · rw [if_neg own]
    exact (and_iff_right own).symm

/-- A number of a pass has an entry left to audit. -/
abbrev Pass.leaves (q : Pass) (s : State) (k : Nat) : Prop := q.next ≤ k ∧ k ≤ q.target ∧ (s.unaudited k).isSome = true

theorem unaudited_retained {s : State} {k : Nat} (h : (s.unaudited k).isSome = true) : k ∈ s.retainedNumbers := by
  obtain ⟨x, mem, -⟩ := unaudited_isSome.mp h
  exact places_retained mem

theorem passOn_next {q : Pass} {s : State} {k : Nat} (leaves : q.leaves s k) (least : ∀ k', q.leaves s k' → k ≤ k') :
    passOn q s = { s with pass := some { q with next := k } } := by
  have found : s.retainedNumbers.find? (fun k => q.next ≤ k && k ≤ q.target && (s.unaudited k).isSome) = some k := by
    refine ((find?_least (retainedNumbers_sorted s) _).2 k).mpr ⟨unaudited_retained leaves.2.2, ?_, fun y _ holds => ?_⟩
    · simpa only [Bool.and_eq_true, decide_eq_true_eq, and_assoc] using leaves
    · exact least y (by simpa only [Bool.and_eq_true, decide_eq_true_eq, and_assoc] using holds)
  rw [passOn, found]

theorem passOn_ends {q : Pass} {s : State} (clear : ∀ k, ¬ q.leaves s k) : passOn q s = auditDone q false 0 s := by
  have none' : s.retainedNumbers.find? (fun k => q.next ≤ k && k ≤ q.target && (s.unaudited k).isSome) = none :=
    List.find?_eq_none.mpr fun k _ holds =>
      clear k (by simpa only [Bool.and_eq_true, decide_eq_true_eq, and_assoc] using holds)
  rw [passOn, none']

/-- A pass that goes on or ends leaves the books, the clock, the settings, the array, the map and the faults. -/
theorem passOn_yard (q : Pass) (s : State) : (passOn q s).journal = s.journal ∧ (passOn q s).settings = s.settings ∧
    (passOn q s).tickets = s.tickets ∧ (passOn q s).clock = s.clock ∧ (passOn q s).tally = s.tally ∧
    (passOn q s).faults = s.faults ∧ (passOn q s).engine = s.engine ∧ SameMap s (passOn q s) ∧ (passOn q s).counter = s.counter := by
  rw [passOn]
  cases s.retainedNumbers.find? (fun k => q.next ≤ k && k ≤ q.target && (s.unaudited k).isSome) with
  | none => exact ⟨rfl, rfl, rfl, rfl, rfl, rfl, rfl, ⟨rfl, rfl⟩, rfl⟩
  | some k => exact ⟨rfl, rfl, rfl, rfl, rfl, rfl, rfl, ⟨rfl, rfl⟩, rfl⟩

/-- AUDIT_DONE, as it goes to the port of its pass (R136, R212). -/
def auditNotice (q : Pass) (outcome failed mark time : Nat) : Notice :=
  ⟨.auditDone, some q.target, be 1 outcome ++ be 4 failed ++ be 4 mark, time⟩

theorem auditDone_eq (q : Pass) (media : Bool) (failed : Nat) (s : State) : auditDone q media failed s =
    offerTo q.port (auditNotice q media.toNat failed s.auditMark s.clock) { s with pass := none } := rfl

/-- The ports after an addressed notice depend on the ports alone. -/
theorem offerTo_ports {s t : State} (same : s.ports = t.ports) (p : Port) (n : Notice) : (offerTo p n s).ports = (offerTo p n t).ports :=
  congrArg (fun v : PerPort PortCtx => v.set p (enqueue n (v.get p))) same

/-- The end of a good AUDITED mark: the pass goes on with the least number left, or ends (R136). -/
theorem auditMark_good {s : State} {q : Pass} {i slot : Nat} (sectors : i < s.sectors.length)
    (marks : slot < (s.sector i).marks.length) (j : Memory) :
    let left (k : Nat) := q.next ≤ k ∧ k ≤ q.target ∧ ∃ x ∈ s.places k, x ≠ (i, slot) ∧ s.slotMark x.1 x.2 ≠ .audited
    let u := passOn q (auditMarked j i slot s)
    u.engine.current = none ∧
    (∀ k, left k → (∀ k', left k' → k ≤ k') → u.pass = some { q with next := k } ∧ u.ports = s.ports) ∧
    ((∀ k, ¬ left k) → u.pass = none ∧ u.ports = (offerTo q.port (auditNotice q 0 0 u.auditMark s.clock) s).ports) := by
  intro left u
  have leaves (k : Nat) : q.leaves (auditMarked j i slot s) k ↔ left k :=
    and_congr_right' (and_congr_right' (auditMarked_unaudited sectors marks j k))
  obtain ⟨-, -, -, clock, -, -, ports, current⟩ := auditMarked_yard j i slot s
  obtain ⟨-, -, -, -, -, -, engine, map, counter⟩ := passOn_yard q (auditMarked j i slot s)
  refine ⟨(congrArg Engine.current engine).trans current, fun k first least => ?_, fun clear => ?_⟩
  · have goes := passOn_next ((leaves k).mpr first) fun k' other => least k' ((leaves k').mp other)
    simp only [u, goes]
    exact ⟨trivial, ports⟩
  · have ends := passOn_ends fun k other => clear k ((leaves k).mp other)
    have mark := map.auditMark counter
    simp only [u]
    rw [mark, ends, auditDone_eq, ← clock]
    exact ⟨rfl, offerTo_ports ports _ _⟩

/-- What a setting event tells the ports does not depend on the array or the engine. -/
theorem setFault_ports_outside (k : FaultKind) (d : FaultDetail) (s : State) (j : Memory) (e : Engine) :
    (setFault k d { s with journal := j, engine := e }).ports = (setFault k d s).ports := by
  cases clear : s.fault k with
  | none => cases masked : s.masked k with
    | false => rw [setFault_fresh clear masked, setFault_fresh (by exact clear) (by exact masked)]; rfl
    | true => rw [setFault_standing (.inr masked), setFault_standing (by exact .inr masked)]
  | some r =>
    have stands : (s.fault k).isSome = true := by rw [clear]; rfl
    rw [setFault_standing (.inl stands), setFault_standing (by exact .inl stands)]

/-- The end of an AUDITED mark that fails the second time: the pass ends with MEDIA (R136). -/
theorem auditMark_bad (q : Pass) (j : Memory) (s : State) :
    let u := auditDone q true q.next (setFault .journalMedia (.receipt q.next) (State.endOp { s with journal := j }))
    u.journal = j ∧ u.settings = s.settings ∧ u.tickets = s.tickets ∧ u.clock = s.clock ∧ u.tally = s.tally ∧
    u.faults = s.faults.set (faultIndex .journalMedia) (some ⟨.receipt q.next, s.clock⟩) ∧ u.pass = none ∧
    u.engine.current = none ∧
    u.ports = (offerTo q.port (auditNotice q 1 q.next u.auditMark s.clock) (setFault .journalMedia (.receipt q.next) s)).ports := by
  have ports := setFault_ports_outside .journalMedia (.receipt q.next) s j { s.engine with current := none }
  have ended : State.endOp { s with journal := j } = { s with journal := j, engine := { s.engine with current := none } } := rfl
  rw [ended]
  obtain ⟨journal, settings, tickets, clock, tally, faults, -, engine, -⟩ := setFault_yard .journalMedia (.receipt q.next)
    { s with journal := j, engine := { s.engine with current := none } }
  generalize setFault .journalMedia (.receipt q.next)
    { s with journal := j, engine := { s.engine with current := none } } = w at *
  intro u
  have time : w.clock = s.clock := clock
  have mark : u.auditMark = w.auditMark := SameMap.auditMark (s := w) ⟨rfl, rfl⟩ rfl
  rw [mark, ← time]
  exact ⟨journal, settings, tickets, rfl, tally, time ▸ faults, rfl, congrArg Engine.current engine, offerTo_ports ports _ _⟩

/-- Settles O48: each mark by whether its programming reads back, and whether it was the second. -/
theorem marksAreProgrammed : Obligations.MarksAreProgrammed := by
  intro cells time again i slot s powered size inside slotInside marksSize sectorsSize a
  have sectors : i < s.sectors.length := sectorsSize ▸ inside
  have marks : slot < (s.sector i).marks.length := marksSize ▸ slotInside
  refine ⟨fun m ms current pending found => ?_, fun q current pass found => ?_⟩
  · intro first both
    obtain ⟨t, ends, journal, settings, tickets, clock, tally, good, once, twice⟩ :=
      printedMark_cases powered size sectors marks current pending found cells time
    have verified : printedGood m i slot cells time s = (first.2 && both.2) := rfl
    refine ⟨t, ends, journal, settings, tickets, clock, tally, fun status print => good ?_, fun bad => once ?_, fun bad => twice ?_⟩
    · rw [verified, status, print]
      rfl
    · rw [verified, Bool.and_eq_false_iff]
      exact bad
    · rw [verified, Bool.and_eq_false_iff]
      exact bad
  · intro j good done
    refine ⟨_, auditMark_ends powered current pass found cells, ?_⟩
    rw [markAudited_eq]
    by_cases verified : good
    · rw [if_pos verified]
      obtain ⟨free, goes, ends⟩ := auditMark_good (q := q) sectors marks j
      have mark : (passOn q (auditMarked j i slot s)).slotMark i slot = .audited := by
        obtain ⟨-, -, -, -, -, -, -, map, -⟩ := passOn_yard q (auditMarked j i slot s)
        exact (map.slotMark i slot).trans ((slotMark_setSlotMark (s := { s with journal := j }) sectors marks .audited i slot).trans
          (if_pos rfl))
      obtain ⟨journal', settings', tickets', clock', tally', faults', -⟩ := passOn_yard q (auditMarked j i slot s)
      obtain ⟨journal'', settings'', tickets'', clock'', tally'', faults'', -⟩ := auditMarked_yard j i slot s
      generalize passOn q (auditMarked j i slot s) = u at *
      generalize auditMarked j i slot s = w at *
      obtain ⟨journal, settings, tickets, clock, tally, faults, same, map, counter⟩ := settle_yard u
      refine ⟨(journal.trans journal').trans journal'', (settings.trans settings').trans settings'',
        (tickets.trans tickets').trans tickets'', (clock.trans clock').trans clock'', (tally.trans tally').trans tally'',
        fun _ => ⟨(map.slotMark i slot).trans mark, (faults.trans faults').trans faults'', u, rfl, free,
          (map.auditMark counter).symm, fun k first least => ?_, fun clear => ?_⟩, fun bad => absurd verified bad,
        fun bad => absurd verified bad⟩
      · obtain ⟨next, ports⟩ := goes k first least
        exact ⟨same.trans next, ports⟩
      · obtain ⟨ended, ports⟩ := ends clear
        rw [map.auditMark counter]
        exact ⟨same.trans ended, ports⟩
    · rw [if_neg verified]
      cases again with
      | false =>
        rw [if_neg Bool.false_ne_true]
        exact ⟨rfl, rfl, rfl, rfl, rfl, fun ok => absurd ok verified, fun _ _ => ⟨rfl, rfl⟩,
          fun _ second => absurd second (by decide)⟩
      | true =>
        rw [if_pos rfl]
        obtain ⟨journal', settings', tickets', clock', tally', faults', ended, free, ports⟩ := auditMark_bad q j s
        generalize auditDone q true q.next (setFault .journalMedia (.receipt q.next) (State.endOp { s with journal := j })) = u at *
        obtain ⟨journal, settings, tickets, clock, tally, faults, same, map, counter⟩ := settle_yard u
        refine ⟨journal.trans journal', settings.trans settings', tickets.trans tickets', clock.trans clock', tally.trans tally',
          fun ok => absurd ok verified, fun _ once => absurd once (by decide),
          fun _ _ => ⟨same.trans ended, fault_of_faults size (faults.trans faults'), u, rfl, free, ?_⟩⟩
        rw [map.auditMark counter]
        exact ports

end Sys2Proof.Machine
end

section
/-! PROOFS. The journal streams of the ports (R137, R138). -/

namespace Sys2Proof.Machine

/-! ## Where a stream stands -/

/-- The engine has a read for the stream of a port in hand. -/
abbrev State.readsFor (s : State) (p : Port) : Prop := ∃ live, s.engine.current = some (.stream p live)

theorem anyNewest_iff (s : State) (k : Nat) : s.newestDone.any (fun m => k ≤ m) = true ↔ ∃ m ∈ s.newestDone, k ≤ m := by
  cases s.newestDone <;> simp

/-- A stream ends with an end block and its end code (R138). -/
def streamEnds (p : Port) (code : Byte) (s : State) : State := s.updPort p (fun c => { c with
  stream := none, dataOut := c.dataOut ++ 0xB5#8 :: code :: List.replicate 255 0#8 })

/-- The position of a stream becomes `k`. -/
def streamAt (p : Port) (k : Nat) (s : State) : State := s.updPort p (fun c => { c with stream := some k })

theorem sendBlock_endBlock (p : Port) (code : Byte) (s : State) :
    sendBlock p (endBlock code) (s.updPort p (fun c => { c with stream := none })) = streamEnds p code s :=
  updPort_updPort ..

theorem moveStream_eq (p : Port) (k : Nat) (s : State) [Decidable (∃ m ∈ s.newestDone, k ≤ m)] :
    moveStream p k s = if ∃ m ∈ s.newestDone, k ≤ m then streamAt p k s else streamEnds p 0x01#8 s := by
  rw [moveStream, sendBlock_endBlock]
  exact if_congr (anyNewest_iff s k) rfl rfl

theorem streamAt_port (p : Port) (k : Nat) (s : State) : (streamAt p k s).port p = { s.port p with stream := some k } :=
  updPort_port_same ..

theorem streamEnds_port (p : Port) (code : Byte) (s : State) : (streamEnds p code s).port p = { s.port p with
    stream := none, dataOut := (s.port p).dataOut ++ 0xB5#8 :: code :: List.replicate 255 0#8 } :=
  updPort_port_same ..

theorem blockBoundary_eq (p : Port) (k : Nat) (s : State) [Decidable (∃ m ∈ s.newestDone, k ≤ m)] :
    blockBoundary p k s = if ∃ m ∈ s.newestDone, k ≤ m then
      { streamAt p k s with engine := { s.engine with reads := s.engine.reads ++ [.stream p] } }
      else streamEnds p 0x01#8 s := by
  rw [blockBoundary, moveStream_eq]
  by_cases left : ∃ m ∈ s.newestDone, k ≤ m
  · rw [if_pos left, if_pos left, if_pos (by rw [streamAt_port]; rfl)]
    rfl
  · rw [if_neg left, if_neg left, if_neg (by rw [streamEnds_port]; exact Bool.false_ne_true)]

theorem endStream_eq (p : Port) (s : State) [Decidable (s.readsFor p)] : endStream p s =
    { s.updPort p (fun c => { c with stream := none }) with
      engine := { s.engine with
        current := if s.readsFor p then some (.stream p false) else s.engine.current
        reads := s.engine.reads.filter (fun r => r != .stream p) } } := by
  have current : (match s.engine.current with
      | some (.stream q live) => if q = p then some (.stream q false) else some (.stream q live)
      | op => op) = if s.readsFor p then some (.stream p false) else s.engine.current := by
    by_cases own : s.readsFor p
    · obtain ⟨live, own'⟩ := own
      rw [if_pos ⟨live, own'⟩, own']
      exact if_pos rfl
    · rw [if_neg own]
      split
      · rename_i q live reads
        rw [if_neg fun same : q = p => own ⟨live, same ▸ reads⟩, reads]
      · rfl
  rw [endStream, ← current] <;> rfl

theorem endStream_port (p q : Port) (s : State) : (endStream p s).port q =
    if q = p then { s.port q with stream := none } else s.port q :=
  updPort_port s p q (fun c => { c with stream := none })

/-! ## Its events -/

theorem readJournal_opens {s : State} (powered : s.powered = true) (p : Port) (receipt : Word) : exec (.readJournal p receipt) s =
    .next (settle (if s.scanned = true then blockBoundary p (max receipt.toNat (s.oldest.getD 0)) (endStream p (beginFrame p s))
      else streamEnds p 0x02#8 (endStream p (beginFrame p s)))) := by
  have ended : sendBlock p (endBlock 0x02#8) (endStream p (beginFrame p s)) = streamEnds p 0x02#8 (endStream p (beginFrame p s)) := by
    refine updPort_congr ?_
    rw [endStream_port, if_pos rfl]
    rfl
  rw [exec_readJournal, execReadJournal, event_powered powered, openStream, ended]
  cases scanned : s.scanned with
  | false =>
    have here : (endStream p (beginFrame p s)).scanned = false := scanned
    rw [here]
    rfl
  | true =>
    have here : (endStream p (beginFrame p s)).scanned = true := scanned
    rw [here]
    rfl

theorem streamEnd_ends {s : State} (powered : s.powered = true) (p : Port) :
    exec (.streamEnd p) s = .next (settle (endStream p s)) := by
  rw [exec_streamEnd, execStreamEnd, event_powered powered]

theorem reachBoundary_reading {s : State} {p : Port} (reading : s.readsFor p) : reachBoundary p s = s := by
  obtain ⟨live, reading⟩ := reading
  have between : s.betweenBlocks p = none := by
    rw [State.betweenBlocks, reading]
    cases live
    · exact if_pos (.inr (.inl rfl))
    · exact if_pos (.inl rfl)
  rw [reachBoundary, between]

theorem reachBoundary_between {s : State} {p : Port} {k : Nat} (free : ¬ s.readsFor p) (waits : .stream p ∉ s.engine.reads)
    (position : (s.port p).stream = some k) : reachBoundary p s = settle (blockBoundary p k s) := by
  have between : s.betweenBlocks p = some k := by
    rw [State.betweenBlocks, if_neg, position]
    rintro (reading | reading | waiting)
    · exact free ⟨true, reading⟩
    · exact free ⟨false, reading⟩
    · exact waits waiting
  rw [reachBoundary, between]

theorem endStreamRead_free {s : State} {p : Port} (free : ¬ s.readsFor p) (decay : List (Nat × Byte)) :
    endStreamRead p decay s = s := by
  rw [endStreamRead]
  split
  · rename_i q live reading
    exact if_neg fun same : q = p => free ⟨live, same ▸ reading⟩
  · rfl

theorem streamRead_reading {s : State} {p : Port} {live : Bool} (powered : s.powered = true)
    (reading : s.engine.current = some (.stream p live)) (decay : List (Nat × Byte)) :
    exec (.journalStreamRead p decay) s = .next (settle (streamRead p live decay s.endOp)) := by
  rw [exec_journalStreamRead, execJournalStreamRead, event_powered powered, reachBoundary_reading ⟨live, reading⟩,
    endStreamRead, reading]
  exact congrArg Host.Outcome.next (if_pos rfl)

theorem streamRead_discarded (p : Port) (decay : List (Nat × Byte)) (s : State) : streamRead p false decay s = s := by
  rw [streamRead]
  cases (s.port p).stream <;> rfl

theorem streamRead_missing {s : State} {p : Port} {k : Nat} (position : (s.port p).stream = some k) (gone : s.lookup k = none)
    (decay : List (Nat × Byte)) : streamRead p true decay s = blockBoundary p (k + 1) s := by
  rw [streamRead, position]
  dsimp only
  rw [gone]
  rfl

/-- A block of a stream with the bytes of an entry. -/
def blockSent (p : Port) (j : Memory) (a : Nat) (s : State) : State :=
  ({ s with journal := j } : State).updPort p (fun c => { c with dataOut := c.dataOut ++ 0xB5#8 :: memBytes j a 256 })

theorem streamRead_found {s : State} {p : Port} {k i slot : Nat} (position : (s.port p).stream = some k)
    (found : s.lookup k = some (i, slot)) (decay : List (Nat × Byte)) : streamRead p true decay s =
      moveStream p (k + 1) (blockSent p (memDecay s.journal (entryAddr i slot) 256 decay) (entryAddr i slot) s) := by
  rw [streamRead, position]
  dsimp only
  rw [found]
  rfl

/-- A port's stream and what it clocks out at the end of an event. -/
theorem settle_stream (p : Port) (s : State) : ((settle s).port p).stream = (s.port p).stream ∧
    ((settle s).port p).dataOut = (s.port p).dataOut ∧ ((settle s).port p).state = (s.port p).state ∧
    ((settle s).port p).result = (s.port p).result :=
  have plain := settle_plain s p
  ⟨(congrArg PortCtx.stream plain :), (congrArg PortCtx.dataOut plain :), (congrArg PortCtx.state plain :),
    (congrArg PortCtx.result plain :)⟩

end Sys2Proof.Machine
end

section
/-! PROOFS. The obligation on the journal streams (R137, R138). -/

namespace Sys2Proof.Machine

/-- A port begins a stream: an old one has ended, and nothing is left to clock out. -/
theorem opened_port (p : Port) (s : State) : (endStream p (beginFrame p s)).port p =
    { s.port p with stream := none, summaryOut := summaryByte (s.port p), dataOut := [] } := by
  rw [endStream_port, if_pos rfl, beginFrame, updPort_port_same]

/-- The read of the entry at a stream's position comes to wait. -/
def streamWaits (p : Port) (k : Nat) (s : State) : State :=
  { streamAt p k s with engine := { s.engine with reads := s.engine.reads ++ [.stream p] } }

theorem streamWaits_port (p : Port) (k : Nat) (s : State) : (streamWaits p k s).port p = { s.port p with stream := some k } :=
  streamAt_port ..

theorem endStream_yard (p : Port) (s : State) : (endStream p s).journal = s.journal ∧ (endStream p s).tickets = s.tickets ∧
    (endStream p s).clock = s.clock := ⟨rfl, rfl, rfl⟩

theorem streamWaits_yard (p : Port) (k : Nat) (s : State) : (streamWaits p k s).journal = s.journal ∧
    (streamWaits p k s).tickets = s.tickets ∧ (streamWaits p k s).clock = s.clock := ⟨rfl, rfl, rfl⟩

theorem opened_yard (p : Port) (k : Nat) (s : State) : (streamWaits p k (endStream p (beginFrame p s))).journal = s.journal ∧
    (streamWaits p k (endStream p (beginFrame p s))).tickets = s.tickets ∧
    (streamWaits p k (endStream p (beginFrame p s))).clock = s.clock := by
  obtain ⟨journal, tickets, clock⟩ := streamWaits_yard p k (endStream p (beginFrame p s))
  obtain ⟨journal', tickets', clock'⟩ := endStream_yard p (beginFrame p s)
  exact ⟨journal.trans journal', tickets.trans tickets', clock.trans clock'⟩

theorem opened_newest (p : Port) (s : State) : (endStream p (beginFrame p s)).newestDone = s.newestDone := by
  have map : SameMap s (endStream p (beginFrame p s)) := ⟨rfl, rfl⟩
  simp only [State.newestDone, map.sector]

theorem settle_streamEnds_journal (p : Port) (code : Byte) (s : State) :
    (settle (streamEnds p code (endStream p (beginFrame p s)))).journal = s.journal :=
  (settle_keeps (streamEnds p code (endStream p (beginFrame p s)))).2.1.trans (endStream_yard p (beginFrame p s)).1

theorem settle_boundary_powered (p : Port) (k : Nat) (s : State) : (settle (blockBoundary p k s)).powered = s.powered := by
  rw [settle_frame, blockBoundary_eq]
  split <;> rfl

/-- A stream that moves leaves the books, the clock, the settings and the array. -/
theorem moveStream_yard (p : Port) (k : Nat) (s : State) : (moveStream p k s).journal = s.journal ∧
    (moveStream p k s).tickets = s.tickets ∧ (moveStream p k s).clock = s.clock ∧ (moveStream p k s).settings = s.settings := by
  rw [moveStream]
  split <;> exact ⟨rfl, rfl, rfl, rfl⟩

theorem settle_moveStream (p : Port) (k : Nat) (s : State) :
    let t := settle (moveStream p k s)
    t.journal = s.journal ∧ t.tickets = s.tickets ∧ t.clock = s.clock ∧ t.settings = s.settings := by
  obtain ⟨-, journal, -, tickets, clock, settings⟩ := settle_keeps (moveStream p k s)
  obtain ⟨journal', tickets', clock', settings'⟩ := moveStream_yard p k s
  exact ⟨journal.trans journal', tickets.trans tickets', clock.trans clock', settings.trans settings'⟩

/-- The end event of a read whose entry the map shows: its block goes out, and the stream moves on. -/
theorem streamRead_sends {s : State} {p : Port} {k i slot : Nat} (powered : s.powered = true)
    (reading : s.engine.current = some (.stream p true)) (position : (s.port p).stream = some k)
    (found : s.lookup k = some (i, slot)) (decay : List (Nat × Byte)) : exec (.journalStreamRead p decay) s =
      .next (settle (moveStream p (k + 1)
        (blockSent p (memDecay s.journal (entryAddr i slot) 256 decay) (entryAddr i slot) s.endOp))) := by
  rw [streamRead_reading powered reading, streamRead_found (s := s.endOp) position found]
  rfl

theorem blockSent_port (p : Port) (j : Memory) (a : Nat) (s : State) : (blockSent p j a s).port p =
    { s.port p with dataOut := (s.port p).dataOut ++ 0xB5#8 :: memBytes j a 256 } :=
  updPort_port_same { s with journal := j } ..

/-- Settles O50: the stream's three operations by where it stands, and the port's context after each. -/
theorem journalStreams : Obligations.JournalStreams := by
  intro p receipt decay s powered n last boundary sent inHand closed done
  have opens := readJournal_opens powered p receipt
  have closes (u : State) : endStream p u = closed u := endStream_eq p u
  have bounds (k : Nat) (u : State) : blockBoundary p k u = boundary k u := blockBoundary_eq p k u
  have sends (k : Nat) (u : State) : moveStream p k u = sent k u := moveStream_eq p k u
  have opened := opened_port p s
  refine ⟨fun scanned ⟨m, newest, left⟩ => ?_, fun scanned past => ?_, fun fresh => ?_, ?_, fun k i slot reading position found => ?_,
    ?_, ?_, fun discarded => ?_, fun k reading position => ?_, fun free ends => ?_, fun k free waits position => ?_⟩
  · rw [opens, if_pos scanned, show blockBoundary p n (endStream p (beginFrame p s)) = streamWaits p n _ from
      (blockBoundary_eq ..).trans (if_pos ⟨m, (opened_newest p s).trans newest, left⟩)]
    refine ⟨_, rfl, ?_⟩
    obtain ⟨stream, dataOut, state, -⟩ := settle_stream p (streamWaits p n (endStream p (beginFrame p s)))
    obtain ⟨-, journal, -, tickets, clock, -⟩ := settle_keeps (streamWaits p n (endStream p (beginFrame p s)))
    rw [streamWaits_port, opened] at stream dataOut state
    obtain ⟨journal', tickets', clock'⟩ := opened_yard p n s
    exact ⟨stream, dataOut, state, journal.trans journal', tickets.trans tickets', clock.trans clock'⟩
  · have gone : ¬ ∃ m ∈ (endStream p (beginFrame p s)).newestDone, n ≤ m := fun ⟨m, newest, left⟩ =>
      absurd (past m ((opened_newest p s).symm.trans newest)) (Nat.not_lt.mpr left)
    rw [opens, if_pos scanned, blockBoundary_eq, if_neg gone]
    refine ⟨_, rfl, ?_⟩
    obtain ⟨stream, dataOut, -, -⟩ := settle_stream p (streamEnds p 0x01#8 (endStream p (beginFrame p s)))
    rw [streamEnds_port, opened] at stream dataOut
    exact ⟨stream, dataOut, settle_streamEnds_journal ..⟩
  · rw [opens, fresh, if_neg Bool.false_ne_true]
    refine ⟨_, rfl, ?_⟩
    obtain ⟨stream, dataOut, -, -⟩ := settle_stream p (streamEnds p 0x02#8 (endStream p (beginFrame p s)))
    rw [streamEnds_port, opened] at stream dataOut
    exact ⟨stream, dataOut, settle_streamEnds_journal ..⟩
  · rw [streamEnd_ends powered]
    refine ⟨_, rfl, ?_⟩
    obtain ⟨stream, -, state, result⟩ := settle_stream p (endStream p s)
    obtain ⟨-, journal, -, tickets, clock, -⟩ := settle_keeps (endStream p s)
    rw [endStream_port, if_pos rfl] at stream state result
    refine ⟨stream, state, result, fun q other => ?_, journal, tickets, clock⟩
    rw [(settle_stream q _).1, endStream_port, if_neg other]
  · intro j
    rw [streamRead_sends powered reading position found]
    refine ⟨_, rfl, ?_⟩
    obtain ⟨journal, tickets, clock, settings⟩ := settle_moveStream p (k + 1) (blockSent p j (entryAddr i slot) s.endOp)
    obtain ⟨stream, dataOut, -, -⟩ := settle_stream p (moveStream p (k + 1) (blockSent p j (entryAddr i slot) s.endOp))
    have here := blockSent_port p j (entryAddr i slot) s.endOp
    refine ⟨journal, fun ⟨m, newest, left⟩ => ?_, fun past => ?_, tickets, clock, settings⟩
    · have on : moveStream p (k + 1) (blockSent p j (entryAddr i slot) s.endOp) = streamAt p (k + 1) _ :=
        (moveStream_eq ..).trans (if_pos ⟨m, newest, left⟩)
      rw [on, streamAt_port, here] at stream dataOut
      rw [on]
      exact ⟨stream, dataOut⟩
    · have gone : ¬ ∃ m ∈ s.newestDone, k + 1 ≤ m := fun ⟨m, newest, left⟩ => absurd (past m newest) (Nat.not_lt.mpr left)
      have ends : moveStream p (k + 1) (blockSent p j (entryAddr i slot) s.endOp) = streamEnds p 0x01#8 _ :=
        (moveStream_eq ..).trans (if_neg gone)
      rw [ends, streamEnds_port, here] at stream dataOut
      rw [ends]
      exact ⟨stream, dataOut⟩
  · intro opened
    rw [opens, closes, bounds]
    rfl
  · rw [streamEnd_ends powered, closes]
  · rw [streamRead_reading powered discarded, streamRead_discarded]
    rfl
  · cases found : s.lookup k with
    | none =>
      rw [streamRead_reading powered reading, streamRead_missing (s := s.endOp) position found, bounds]
      rfl
    | some x =>
      rw [streamRead_sends (i := x.1) (slot := x.2) powered reading position found, sends]
      rfl
  · rw [exec_journalStreamRead, execJournalStreamRead, event_powered powered, reachBoundary_stands ends, endStreamRead_free free]
  · intro u
    have atBoundary : settle (blockBoundary p k s) = u := congrArg settle (bounds k s)
    have on : u.powered = true := atBoundary ▸ (settle_boundary_powered p k s).trans powered
    have reaches := (reachBoundary_between free waits position).trans atBoundary
    have first : exec (.journalStreamRead p decay) s = .next (endStreamRead p decay u) := by
      rw [exec_journalStreamRead, execJournalStreamRead, event_powered powered, reaches]
    refine ⟨fun reading => ?_, fun free' => ?_⟩
    · rw [first, exec_journalStreamRead, execJournalStreamRead, event_powered on, reachBoundary_reading reading]
    · rw [first, endStreamRead_free free']

end Sys2Proof.Machine
end

section
/-! PROOFS. The requests that a commit answers: SETTLE TICKET, VOID TICKET and CLOSE SHIFT, and journal space (R55 to R57, R101 to
R103, R133, R169). -/

namespace Sys2Proof.Machine

theorem exec_settleTicket (p : Port) (n : Half) (s : State) : exec (.settleTicket p n) s = request p s (settleTicket p n) := rfl

theorem exec_voidTicket (p : Port) (n : Half) (reason : Byte) (s : State) :
    exec (.voidTicket p n reason) s = request p s (voidTicket p n reason) := rfl

theorem exec_closeShift (p : Port) (s : State) : exec (.closeShift p) s = request p s (closeShift p) := rfl

/-! ## The space and slot checks (R102, R103, R133) -/

/-- The answer to a request that needs an entry's space and some print slots, `go` when it has them (R102, R103). -/
def spaceAndSlots (p : Port) (kind : EntryKind) (slots : Nat) (s go : State) : State :=
  if s.space < 1 then reply p .journalFull [] (setFault .journalFull (.commitKind kind) (taken p s))
  else if s.freeSlots < slots then answered p .queueFull [] s
  else go

theorem withSpace_taken (p : Port) (kind : EntryKind) (slots : Nat) (f : State → State) (s : State) :
    withSpace p kind slots f (taken p s) = spaceAndSlots p kind slots s (f (taken p s)) := by
  rw [withSpace, taken_space, taken_freeSlots, refuse_taken]
  rfl

theorem noTallyJob_iff (s : State) : s.noTallyJob = true ↔ ∀ j, some j ∈ s.jobs → j.kind ≠ .tally := by
  rw [State.noTallyJob, List.all_eq_true]
  constructor
  · exact fun all j mem => bne_iff_ne.mp (all (some j) mem)
  · intro all x mem
    cases x with
    | none => rfl
    | some j => exact bne_iff_ne.mpr (all j mem)

theorem freeSlots_eq_count (s : State) : s.freeSlots = s.jobs.count none := by
  refine congrArg (fun f => s.jobs.countP f) (funext fun x => ?_)
  cases x <;> rfl

theorem space_filling {s : State} {c : Sector} (filling : s.sectors.find? (fun c => c.state == .filling) = some c)
    (fresh : s.exhausted = false) : s.space = (16 - c.used : Nat) + 16 * (s.aheadRun.length : Int) - s.commitQueue.length := by
  rw [space_eq fresh, filling, Option.elim_some]

theorem space_noFilling {s : State} (none' : ∀ c ∈ s.sectors, c.state ≠ .filling) (fresh : s.exhausted = false) :
    s.space = 16 * (s.aheadRun.length : Int) - s.commitQueue.length := by
  have missing : s.sectors.find? (fun c => c.state == .filling) = none :=
    List.find?_eq_none.mpr fun c mem same => none' c mem (beq_iff_eq.mp same)
  rw [space_eq fresh, missing, Option.elim_none, Int.natCast_zero, Int.zero_add]

/-! ## The tickets (R55 to R59) -/

theorem enterCommit_eq (p : Port) (kind : EntryKind) (reason : Option Nat) (t : Ticket) (s : State) :
    enterCommit p kind reason t s = { s with
      tickets := s.tickets.map (fun r => if r.number = t.number then
        { r with state := .committing, claim := none, commit := some ⟨kind, reason, p, t.state, none⟩ } else r) } :=
  updTicket_eq ..

theorem notHeldState_eq_false_iff (t : Ticket) : (t.state != .held) = false ↔ t.state = .held := by
  rw [bne_eq_false_iff_eq]

theorem payableState_eq_false_iff (t : Ticket) : (t.state == .payable) = false ↔ t.state ≠ .payable := beq_eq_false_iff_ne

/-- The voided ticket's capture fails without a change of the hold list. -/
theorem captureVoided_holds (t : Ticket) (s : State) : (captureVoided t s).holds = s.holds := by
  rw [captureVoided]
  split <;> rfl

theorem voidUnweighed_eq (p : Port) (t : Ticket) (s : State) : voidUnweighed p t s = reply p .ok [] { captureVoided t s with
    tickets := (captureVoided t s).tickets.filter (fun r => r.number != t.number) } := by
  rw [voidUnweighed, voidCapture_eq]
  rfl

/-- The state in which the commit of a void is accepted. -/
def voidEntered (p : Port) (reason : Nat) (t : Ticket) (s : State) : State := { captureVoided t s with
  tickets := (captureVoided t s).tickets.map (fun r => if r.number = t.number then
    { r with state := .committing, claim := none, commit := some ⟨.void, some reason, p, t.state, none⟩ } else r)
  holds := if t.state = .held then s.holds.filter (fun h => h.ticket != t.number) else s.holds }

theorem voidWeighed_eq (p : Port) (reason : Nat) (t : Ticket) (s : State) :
    voidWeighed p reason t s = acceptCommit p .void (some t.number) [.voidSlip] (voidEntered p reason t s) := by
  have holds := captureVoided_holds t s
  rw [voidWeighed, voidCapture_eq, enterCommit_eq, voidEntered]
  by_cases held : t.state = .held
  · rw [if_pos held, if_pos held, ← holds]
    rfl
  · rw [if_neg held, if_neg held, ← holds]

/-! ## The three requests -/

/-- The state in which the commit of a settlement is accepted. -/
def settleEntered (p : Port) (t : Ticket) (s : State) : State := { s with
  tickets := s.tickets.map (fun r => if r.number = t.number then
    { r with state := .committing, claim := none, commit := some ⟨.payout, none, p, t.state, none⟩ } else r) }

theorem settleTicket_taken (p : Port) (n : Half) (s : State) : settleTicket p n (taken p s) =
    if s.role p ≠ .window ∧ s.role p ≠ .office then answered p .role [] s
    else if s.mode ≠ .run then answered p .mode [] s
    else onTicket p n s (fun t =>
      if t.state = .held then answered p .held [] s
      else if t.state ≠ .payable then answered p .state [] s
      else if claimedByOther p t = true then answered p .claimed [] s
      else spaceAndSlots p .payout 1 s (acceptCommit p .payout (some t.number) [.original] (settleEntered p t (taken p s)))) := by
  rw [settleTicket, guarded_cons_of_iff (isWindowOrOffice_eq_false_iff _ p), guarded_cons_of_iff (isRun_eq_false_iff _),
    guarded_nil, withTicket_taken]
  simp only [guarded_cons_of_iff (notHeldState_eq_false_iff _), guarded_cons_of_iff (payableState_eq_false_iff _),
    guarded_cons_of_iff (notClaimed_eq_false_iff p _), guarded_nil, withSpace_taken, enterCommit_eq, refuse_taken]
  rfl

theorem reason_eq_false_iff (b : Byte) : (decide (1 ≤ b.toNat) && decide (b.toNat ≤ 15)) = false ↔ b.toNat = 0 ∨ 15 < b.toNat := by
  rw [← Bool.not_eq_true, Bool.and_eq_true, decide_eq_true_eq, decide_eq_true_eq]
  omega

theorem voidable_eq_false_iff (s : State) (p : Port) (t : Ticket) :
    (s.isOffice p || t.state == .opened || t.state == .onYard) = false ↔
      s.role p ≠ .office ∧ t.state ≠ .opened ∧ t.state ≠ .onYard := by
  rw [Bool.or_eq_false_iff, Bool.or_eq_false_iff, isOffice_eq_false_iff, beq_eq_false_iff_ne, beq_eq_false_iff_ne, and_assoc]

theorem committingState_eq_false_iff (t : Ticket) : (t.state != .committing) = false ↔ t.state = .committing := by
  rw [bne_eq_false_iff_eq]

/-- VOID TICKET goes on by whether the ticket has a weighing (R56, R57). -/
def voidGoesOn (p : Port) (reason : Nat) (t : Ticket) (s : State) : State :=
  if t.weighings = [] then reply p .ok [] { captureVoided t (taken p s) with
    tickets := (captureVoided t (taken p s)).tickets.filter (fun r => r.number != t.number) }
  else spaceAndSlots p .void 1 s (acceptCommit p .void (some t.number) [.voidSlip] (voidEntered p reason t (taken p s)))

theorem voidGoesOn_eq (p : Port) (reason : Nat) (t : Ticket) (s : State) :
    (if t.weighings.isEmpty then voidUnweighed p t else withSpace p .void 1 (voidWeighed p reason t)) (taken p s) =
      voidGoesOn p reason t s := by
  rw [voidGoesOn]
  by_cases unweighed : t.weighings = []
  · rw [if_pos unweighed, if_pos (List.isEmpty_iff.mpr unweighed), voidUnweighed_eq]
  · rw [if_neg unweighed, if_neg (fun h => unweighed (List.isEmpty_iff.mp h)), withSpace_taken, voidWeighed_eq]

theorem voidTicket_taken (p : Port) (n : Half) (reason : Byte) (s : State) : voidTicket p n reason (taken p s) =
    if s.role p ≠ .scale ∧ s.role p ≠ .office then answered p .role [] s
    else if s.mode ≠ .run then answered p .mode [] s
    else if reason.toNat = 0 ∨ 15 < reason.toNat then answered p .range [] s
    else onTicket p n s (fun t =>
      if claimedByOther p t = true then answered p .claimed [] s
      else if t.state = .committing then answered p .state [] s
      else if s.role p ≠ .office ∧ t.state ≠ .opened ∧ t.state ≠ .onYard then answered p .role [] s
      else voidGoesOn p reason.toNat t s) := by
  rw [voidTicket, guarded_cons_of_iff (isScaleOrOffice_eq_false_iff _ p), guarded_cons_of_iff (isRun_eq_false_iff _),
    guarded_cons_of_iff (reason_eq_false_iff reason), guarded_nil, withTicket_taken]
  simp only [guarded_cons_of_iff (notClaimed_eq_false_iff p _), guarded_cons_of_iff (committingState_eq_false_iff _),
    guarded_cons_of_iff (voidable_eq_false_iff _ p _), guarded_nil, voidGoesOn_eq, refuse_taken]
  rfl

theorem closeShift_taken (p : Port) (s : State) : closeShift p (taken p s) =
    if s.role p ≠ .office then answered p .role [] s
    else if s.mode ≠ .run then answered p .mode [] s
    else if s.noTallyJob = false then answered p .tallyPending [] s
    else spaceAndSlots p .shift 2 s (acceptCommit p .shift none [.shiftReport, .tally] (taken p s)) := by
  rw [closeShift, guarded_cons_of_iff (isOffice_eq_false_iff _ p), guarded_cons_of_iff (isRun_eq_false_iff _),
    guarded_cons_of_iff (Iff.rfl : (taken p s).noTallyJob = false ↔ _), guarded_nil, withSpace_taken]
  rfl

/-- Settles O42: journal space by its cases, and each request by its checks. -/
theorem commitRequestsRefuse : Obligations.CommitRequestsRefuse := by
  refine ⟨fun s => ⟨fun c => space_filling, space_noFilling, fun full => by rw [State.space, full]; rfl, fun low clear => ?_,
    noTallyJob_iff s, freeSlots_eq_count s, fun low set => ?_, fun enough => ?_⟩, fun p n reason s taking => ⟨?_, ?_, ?_⟩⟩
  · rw [evalSpace_eq, if_neg (Int.not_le.mpr low), clear, if_neg Bool.false_ne_true]
  · rw [evalSpace_eq, if_neg (Int.not_le.mpr low), if_pos set]
  · rw [evalSpace_eq, if_pos enough]
  · rw [exec_settleTicket, request_taking taking, settleTicket_taken]
    rfl
  · rw [exec_voidTicket, request_taking taking, voidTicket_taken]
    rfl
  · rw [exec_closeShift, request_taking taking, closeShift_taken]
    rfl

end Sys2Proof.Machine
end

section
/-! PROOFS. What an accepted commit leaves: its print slots, its record and its first attempt (R59, R100, R103, R118, R123). -/

namespace Sys2Proof.Machine

/-! ## Captures outlast the engines' work -/

/-- The capture armed on each scale. -/
def State.captures (s : State) : Scale → Option Capture := fun sc => (s.chan sc).capture

theorem captures_takeJob (slot : Nat) (j : Job) (s : State) : (takeJob slot j s).captures = s.captures := by
  unfold takeJob
  dsimp only
  split <;> rfl

theorem captures_abandonFetch (reason : Nat) (s : State) : (abandonFetch reason s).captures = s.captures := by
  rw [abandonFetch]
  split
  · rfl
  · split
    · rfl
    · rw [offerAbandoned_eq, removeJob_eq, slotFreed_frame]
      rfl

theorem captures_takeRead (r : ReadReq) (s : State) : (takeRead r s).captures = s.captures := by
  cases r with
  | fetch =>
    unfold takeRead
    dsimp only
    split
    · rfl
    · exact captures_abandonFetch ..
  | stream p => rfl

theorem captures_updChan {f : Channel → Channel} (keeps : ∀ c, (f c).capture = c.capture) (sc : Scale) (s : State) :
    (s.updChan sc f).captures = s.captures := by
  funext x
  by_cases same : x = sc
  · subst same
    rw [State.captures, updChan_chan_same, keeps, State.captures]
  · rw [State.captures, updChan_chan_other s same, State.captures]

theorem captures_beginWrite (w : WriteReq) (s : State) : (beginWrite w s).captures = s.captures := by
  cases w with
  | calRecord sc => exact captures_updChan (f := fun c =>
      { c with slotsUsed := c.slotsUsed + 1, nextSlot := calBlank (s.cal.get sc) c.nextSlot + 1 }) (fun _ => rfl) sc s
  | _ => rfl

theorem captures_takeWaiting {s t : State} (h : takeWaiting s = some t) : t.captures = s.captures := by
  unfold takeWaiting at h
  split at h
  · cases h
    exact captures_takeRead ..
  · split at h
    · cases h
      exact captures_beginWrite ..
    · split at h
      · cases h
      · split at h
        · split at h <;> cases h <;> rfl
        · split at h
          · cases h
            rfl
          · cases h

theorem captures_pumpOnce {s t : State} (h : pumpOnce s = some t) : t.captures = s.captures := by
  unfold pumpOnce at h
  split at h
  · obtain ⟨j, -, rfl⟩ := Option.map_eq_some_iff.mp h
    exact captures_takeJob ..
  · split at h
    · cases h
      rfl
    · split at h
      · exact captures_takeWaiting h
      · cases h

theorem captures_pump (fuel : Nat) (s : State) : (pump fuel s).captures = s.captures := by
  induction fuel generalizing s with
  | zero => rfl
  | succ fuel ih =>
    unfold pump
    split
    · exact (ih _).trans (captures_pumpOnce ‹_›)
    · rfl

/-- Outside CONFIG_PENDING the end of an event leaves every capture armed. -/
theorem captures_settle {s : State} (h : s.mode ≠ .configPending) : (settle s).captures = s.captures := by
  have mode : (pump 128 s).mode = s.mode := (congrArg State.mode (worked_pump 128 s).frame :)
  rw [settle, drainTest, if_neg fun enters => h (mode ▸ enters.1), captures_pump]

/-! ## Print slots are reserved (R103) -/

/-- From `s` to `t` only the print slots and the ages of their jobs have changed. -/
structure Reserved (s t : State) : Prop where
  frame : t = { s with jobs := t.jobs, ageCounter := t.ageCounter, free := t.free }

theorem Reserved.trans {s t u : State} (h : Reserved s t) (k : Reserved t u) : Reserved s u :=
  ⟨k.frame.trans (congrArg (fun x : State => { x with jobs := u.jobs, ageCounter := u.ageCounter, free := u.free }) h.frame)⟩

theorem createJob_reserves (kind : JobKind) (receipt : Option Nat) (port : Option Port) (st : JobState) (s : State) :
    Reserved s (createJob kind receipt port st s) := by
  constructor
  rw [createJob_eq]
  split <;> rfl

theorem reserveJobs_frame (p : Port) (kinds : List JobKind) (s : State) : Reserved s (reserveJobs p kinds s).2 := by
  induction kinds generalizing s with
  | nil => exact ⟨rfl⟩
  | cons k ks ih => exact (createJob_reserves ..).trans (ih _)

theorem reserveJobs_length (p : Port) (kinds : List JobKind) (s : State) : (reserveJobs p kinds s).1.length = kinds.length := by
  induction kinds generalizing s with
  | nil => rfl
  | cons k ks ih => exact congrArg Nat.succ (ih _)

/-- The lowest free slot takes the new job, and no other slot changes. -/
theorem createJob_takes {s : State} {i : Nat} (lowest : s.jobs.findIdx? Option.isNone = some i) (kind : JobKind)
    (receipt : Option Nat) (port : Option Port) (st : JobState) :
    let t := createJob kind receipt port st s
    t.job i = some ⟨kind, receipt, port, st, 0, false, s.ageCounter, 0⟩ ∧ (∀ slot, slot ≠ i → t.job slot = s.job slot) ∧
      t.freeSlots + 1 = s.freeSlots := by
  obtain ⟨inside, free, -⟩ := List.findIdx?_eq_some_iff_getElem.mp lowest
  have jobs : (createJob kind receipt port st s).jobs =
      s.jobs.set i (some ⟨kind, receipt, port, st, 0, false, s.ageCounter, 0⟩) := by
    rw [createJob_eq, lowest]
  refine ⟨?_, fun slot other => job_set_other jobs other, ?_⟩
  · rw [State.job, jobs, List.getD_eq_getElem?_getD, List.getElem?_set_self inside, Option.getD_some]
  · have counted : 0 < s.jobs.countP Option.isNone := List.countP_pos_iff.mpr ⟨_, List.getElem_mem inside, free⟩
    rw [State.freeSlots, jobs, List.countP_set inside, free, State.freeSlots]
    simp only [Option.isNone_some, if_true, Bool.false_eq_true, if_false]
    omega

theorem exists_mem_zip {α β : Type} {l : List α} {l' : List β} (same : l.length = l'.length) {x : α} (mem : x ∈ l) :
    ∃ y, (x, y) ∈ l.zip l' := by
  obtain ⟨a, inside, at'⟩ := List.getElem_of_mem mem
  have inside' : a < l'.length := same ▸ inside
  refine ⟨l'[a], List.mem_iff_getElem.mpr ⟨a, ?_, ?_⟩⟩
  · rw [List.length_zip]
    omega
  · rw [List.getElem_zip, at']

/-- The slots reserved were free and hold the RESERVED jobs, and no other slot changes (R103). -/
theorem reserveJobs_reserves {kinds : List JobKind} {s : State} (room : kinds.length ≤ s.freeSlots) (p : Port) :
    let r := reserveJobs p kinds s
    (∀ x ∈ r.1.zip kinds, s.job x.1 = none ∧ ∃ age, r.2.job x.1 = some ⟨x.2, none, some p, .reserved, 0, false, age, 0⟩) ∧
      ∀ slot, slot ∉ r.1 → r.2.job slot = s.job slot := by
  induction kinds generalizing s with
  | nil => exact ⟨fun x mem => absurd mem List.not_mem_nil, fun slot _ => rfl⟩
  | cons k ks ih =>
    have some_free : 0 < s.jobs.countP Option.isNone := Nat.lt_of_lt_of_le (Nat.succ_pos _) room
    obtain ⟨x, mem, free⟩ := List.countP_pos_iff.mp some_free
    cases lowest : s.jobs.findIdx? Option.isNone with
    | none => exact absurd free (by simp [List.findIdx?_eq_none_iff.mp lowest x mem])
    | some i =>
      obtain ⟨put, others, count⟩ := createJob_takes lowest k none (some p) .reserved
      have wasFree : s.job i = none := job_free lowest
      obtain ⟨reserved, rest⟩ := ih (s := createJob k none (some p) .reserved s) (by rw [List.length_cons] at room; omega)
      have slot_eq : (reserveJobs p (k :: ks) s).1 = i :: (reserveJobs p ks (createJob k none (some p) .reserved s)).1 := by
        rw [reserveJobs, lowest]
        rfl
      have state_eq : (reserveJobs p (k :: ks) s).2 = (reserveJobs p ks (createJob k none (some p) .reserved s)).2 := rfl
      have fresh : i ∉ (reserveJobs p ks (createJob k none (some p) .reserved s)).1 := by
        intro again
        obtain ⟨k', paired⟩ := exists_mem_zip (reserveJobs_length p ks _) again
        exact absurd (put.symm.trans (reserved (i, k') paired).1) (Option.some_ne_none _)
      intro r
      rw [show r.1 = _ from slot_eq, show r.2 = _ from state_eq]
      refine ⟨fun x mem => ?_, fun slot outside => ?_⟩
      · rw [List.zip_cons_cons, List.mem_cons] at mem
        rcases mem with rfl | mem
        · exact ⟨wasFree, s.ageCounter, (rest i fresh).trans put⟩
        · obtain ⟨was, age, now⟩ := reserved x mem
          have other : x.1 ≠ i := fun same => fresh (same ▸ (List.of_mem_zip mem).1)
          exact ⟨(others _ other).symm.trans was, age, now⟩
      · rw [List.mem_cons, not_or] at outside
        exact (rest slot outside.2).trans (others slot outside.1)

end Sys2Proof.Machine
end

section
/-! PROOFS. What the beginning of an attempt leaves (R118, R120, R123). -/

namespace Sys2Proof.Machine

/-- The settlement records when the first has its receipt number. -/
def numberRecords (n : Nat) : List Settlement → List Settlement
  | [] => []
  | r :: rs => { r with receipt := some n } :: rs

/-- The tickets when the one of a commit has its receipt number. -/
def numberTickets (q : CommitReq) (n : Nat) (ts : List Ticket) : List Ticket :=
  match q.ticket with
  | some m => ts.map (fun t => if t.number = m then { t with commit := t.commit.map (fun c => { c with receipt := some n }) } else t)
  | none => ts

/-- From `w` to `x` an attempt of the head commit `q` has begun, and only what that changes has changed. -/
def Begun (q : CommitReq) (w x : State) : Prop := ∃ counter exhausted head engine sectors faults firstFault ports, x = { w with
  counter := counter, exhausted := exhausted, settlements := numberRecords w.counter w.settlements
  tickets := numberTickets q w.counter w.tickets, head := head, engine := engine, sectors := sectors, faults := faults
  firstFault := firstFault, ports := ports }

theorem Begun.setFault {q : CommitReq} {w x : State} (h : Begun q w x) (k : FaultKind) (d : FaultDetail) :
    Begun q w (setFault k d x) := by
  obtain ⟨_, _, _, _, _, _, _, _, rfl⟩ := h
  exact ⟨_, _, _, _, _, _, _, _, setFault_frame k d _⟩

theorem numbered_begun (q : CommitReq) (attempt : Nat) (w : State) : Begun q w (numbered q attempt w) := by
  have records : (match w.settlements with | [] => [] | r :: rs => { r with receipt := some w.counter } :: rs) =
      numberRecords w.counter w.settlements := by
    cases w.settlements <;> rfl
  have begun {x : State} (h : ∃ counter exhausted head engine sectors, x = { w with
      counter := counter, exhausted := exhausted
      settlements := match w.settlements with | [] => [] | r :: rs => { r with receipt := some w.counter } :: rs
      tickets := numberTickets q w.counter w.tickets, head := head, engine := engine, sectors := sectors }) : Begun q w x := by
    rw [records] at h
    obtain ⟨_, _, _, _, _, rfl⟩ := h
    exact ⟨_, _, _, _, _, _, _, _, rfl⟩
  rw [numbered]
  dsimp only
  split
  · exact begun ⟨_, _, _, _, _, rfl⟩
  · split <;> exact begun ⟨_, _, _, _, _, rfl⟩
  · exact (begun ⟨_, _, _, _, _, rfl⟩).setFault ..

theorem setFault_head (k : FaultKind) (d : FaultDetail) (s : State) : (setFault k d s).head = s.head :=
  (congrArg State.head (setFault_frame k d s) :)

theorem numbered_head (q : CommitReq) (attempt : Nat) (w : State) :
    (numbered q attempt w).head.map (fun h => (h.attempt, h.number, h.entry)) =
      some (attempt, w.counter, buildEntry w q w.counter) := by
  rw [numbered]
  dsimp only
  split
  · rfl
  · split <;> rfl
  · rw [setFault_head]
    rfl

theorem numbered_plain (q : CommitReq) (attempt : Nat) (w : State) : (numbered q attempt w).plainPorts = w.plainPorts := by
  rw [numbered]
  dsimp only
  split
  · rfl
  · split <;> rfl
  · exact plainPorts_setFault ..

/-- A ticket but for the receipt number of its commit. -/
def Ticket.unnumbered (t : Ticket) : Ticket := { t with commit := t.commit.map (fun c => { c with receipt := none }) }

/-- The tickets found when a commit's ticket has its number are the same but for that number. -/
theorem find_numberTickets (q : CommitReq) (n m : Nat) (ts : List Ticket) :
    ((numberTickets q n ts).find? (fun t => t.number == m)).map Ticket.unnumbered =
      (ts.find? (fun t => t.number == m)).map Ticket.unnumbered := by
  rw [numberTickets]
  cases q.ticket with
  | none => rfl
  | some k =>
    dsimp only
    rw [find_map_ticket (fun t => by split <;> rfl), Option.map_map]
    congr 1
    funext t
    rw [Function.comp_apply]
    split
    · simp only [Ticket.unnumbered, Option.map_map]
      rfl
    · rfl

theorem ticketBody_unnumbered (s : State) (t : Ticket) (p : Port) :
    ticketBody s t.unnumbered p (t.unnumbered.commit.bind (·.reason)) = ticketBody s t p (t.commit.bind (·.reason)) := by
  have reason : t.unnumbered.commit.bind (·.reason) = t.commit.bind (·.reason) := by
    rw [Ticket.unnumbered]
    cases t.commit <;> rfl
  rw [reason]
  rfl

/-- An entry is built from the clock, the calibration counters, the tally and the ticket, but for its receipt number (R118). -/
theorem buildEntry_congr {v w : State} {q : CommitReq} (clock : v.clock = w.clock) (clockSet : v.clockSet = w.clockSet)
    (channels : v.channels = w.channels) (tally : v.tally = w.tally)
    (tickets : ∀ m, (v.ticket m).map Ticket.unnumbered = (w.ticket m).map Ticket.unnumbered) (n : Nat) :
    buildEntry v q n = buildEntry w q n := by
  have counters : v.calCounters = w.calCounters := by simp only [State.calCounters, State.chan, channels]
  have shift : shiftBody v q.port = shiftBody w q.port := by simp only [shiftBody, clockSet, counters, tally]
  have body (t : Ticket) (r : Option Nat) : ticketBody v t q.port r = ticketBody w t q.port r := by
    simp only [ticketBody, clockSet, counters]
  have found : (q.ticket.bind v.ticket).map Ticket.unnumbered = (q.ticket.bind w.ticket).map Ticket.unnumbered := by
    cases q.ticket with
    | none => rfl
    | some m => exact tickets m
  have same {t t' : Ticket} (h : t'.unnumbered = t.unnumbered) :
      ticketBody v t' q.port (t'.commit.bind (·.reason)) = ticketBody w t q.port (t.commit.bind (·.reason)) := by
    rw [body, ← ticketBody_unnumbered, h, ticketBody_unnumbered]
  rw [buildEntry, buildEntry, clock]
  cases hv : q.ticket.bind v.ticket with
  | none => cases hw : q.ticket.bind w.ticket with
    | none => cases q.kind <;> simp only [shift]
    | some t => exact absurd found (by simp [hv, hw])
  | some t' => cases hw : q.ticket.bind w.ticket with
    | none => exact absurd found (by simp [hv, hw])
    | some t =>
      rw [hv, hw] at found
      cases q.kind <;> simp only [shift, same (Option.some.inj found)]

end Sys2Proof.Machine
end

section
/-! PROOFS. The acceptance of a commit, and the obligation on it (R57, R59, R100, R103 to R106, R110, R113). -/

namespace Sys2Proof.Machine

/-! ## The head commit is taken (R120, R126) -/

/-- From `s` to `t` the part, its yard and its journal array have stayed, and so has what waits to be committed. -/
structure CommitKeeps (s t : State) : Prop where
  journal : t.journal = s.journal
  settings : t.settings = s.settings
  clock : t.clock = s.clock
  clockSet : t.clockSet = s.clockSet
  tares : t.tares = s.tares
  tally : t.tally = s.tally
  mode : t.mode = s.mode
  jobs : t.jobs = s.jobs
  commitQueue : t.commitQueue = s.commitQueue
  holds : t.holds = s.holds
  channels : t.channels = s.channels

theorem CommitKeeps.refl (s : State) : CommitKeeps s s := ⟨rfl, rfl, rfl, rfl, rfl, rfl, rfl, rfl, rfl, rfl, rfl⟩

theorem CommitKeeps.trans {s t u : State} (h : CommitKeeps s t) (k : CommitKeeps t u) : CommitKeeps s u where
  journal := k.journal.trans h.journal
  settings := k.settings.trans h.settings
  clock := k.clock.trans h.clock
  clockSet := k.clockSet.trans h.clockSet
  tares := k.tares.trans h.tares
  tally := k.tally.trans h.tally
  mode := k.mode.trans h.mode
  jobs := k.jobs.trans h.jobs
  commitQueue := k.commitQueue.trans h.commitQueue
  holds := k.holds.trans h.holds
  channels := k.channels.trans h.channels

theorem Begun.keeps {q : CommitReq} {w x : State} (h : Begun q w x) : CommitKeeps w x := by
  obtain ⟨_, _, _, _, _, _, _, _, rfl⟩ := h
  exact ⟨rfl, rfl, rfl, rfl, rfl, rfl, rfl, rfl, rfl, rfl, rfl⟩

theorem Begun.settlements {q : CommitReq} {w x : State} (h : Begun q w x) :
    x.settlements = numberRecords w.counter w.settlements := by
  obtain ⟨_, _, _, _, _, _, _, _, rfl⟩ := h
  rfl

theorem Begun.tickets {q : CommitReq} {w x : State} (h : Begun q w x) : x.tickets = numberTickets q w.counter w.tickets := by
  obtain ⟨_, _, _, _, _, _, _, _, rfl⟩ := h
  rfl

theorem length_numberTickets (q : CommitReq) (n : Nat) (ts : List Ticket) : (numberTickets q n ts).length = ts.length := by
  rw [numberTickets]
  split
  · exact List.length_map ..
  · rfl

/-- From `w` to `x` the next commit has been taken, unless one is at the head already. -/
structure HeadTaken (w x : State) : Prop where
  keeps : CommitKeeps w x
  plain : x.plainPorts = w.plainPorts
  head : x.head.isSome = true
  waits : w.head.isSome = true → x.settlements = w.settlements
  numbers : w.head = none → x.settlements = numberRecords w.counter w.settlements
  tickets : ∀ m, (x.ticket m).map Ticket.unnumbered = (w.ticket m).map Ticket.unnumbered
  count : x.tickets.length = w.tickets.length
  begins : ∀ q rest, w.head = none → w.commitQueue = q :: rest →
    x.head.map (fun h => (h.attempt, h.number, h.entry)) = some (1, w.counter, buildEntry w q w.counter)

theorem nextHead_takes {w : State} (fresh : w.exhausted = false) (queued : w.commitQueue ≠ []) : HeadTaken w (nextHead w) := by
  cases head : w.head with
  | some h =>
    have taken : w.head ≠ none := by
      rw [head]
      exact Option.some_ne_none h
    rw [nextHead_stands (.inl taken)]
    exact ⟨.refl w, rfl, Option.isSome_iff_ne_none.mpr taken, fun _ => rfl, fun none' => absurd none' taken, fun _ => rfl, rfl,
      fun _ _ none' _ => absurd none' taken⟩
  | none =>
    obtain ⟨q, rest, queue⟩ := List.exists_cons_of_ne_nil queued
    have begun := numbered_begun q 1 w
    have at' := numbered_head q 1 w
    have plain := numbered_plain q 1 w
    rw [nextHead_begins head queue fresh]
    generalize numbered q 1 w = x at *
    refine ⟨begun.keeps, plain, ?_, fun some' => ?_, fun _ => begun.settlements, fun m => ?_, ?_, fun q' rest' _ queue' => ?_⟩
    · cases hx : x.head with
      | none => exact absurd at' (by rw [hx]; exact nofun)
      | some h => rfl
    · exact absurd some' (by rw [head]; exact Bool.false_ne_true)
    · rw [State.ticket, begun.tickets]
      exact find_numberTickets ..
    · rw [begun.tickets, length_numberTickets]
    · obtain ⟨rfl, -⟩ := List.cons.inj (queue.symm.trans queue')
      exact at'

theorem evalSpace_frame (s : State) : evalSpace s = { s with lowFlag := (evalSpace s).lowFlag, ports := (evalSpace s).ports } := by
  rw [evalSpace_eq]
  split
  · rfl
  · split <;> rfl

theorem evalSpace_keeps (s : State) : CommitKeeps s (evalSpace s) := by
  rw [evalSpace_frame]
  exact ⟨rfl, rfl, rfl, rfl, rfl, rfl, rfl, rfl, rfl, rfl, rfl⟩

theorem evalSpace_records (s : State) : (evalSpace s).settlements = s.settlements ∧ (evalSpace s).tickets = s.tickets ∧
    (evalSpace s).head = s.head := by
  rw [evalSpace_frame]
  exact ⟨rfl, rfl, rfl⟩

theorem settle_records (s : State) : (settle s).settlements = s.settlements ∧ (settle s).tickets = s.tickets ∧
    (settle s).head = s.head ∧ (settle s).commitQueue = s.commitQueue ∧ (settle s).tares = s.tares ∧
    (settle s).tally = s.tally ∧ (settle s).holds = s.holds := by
  rw [settle_frame]
  exact ⟨rfl, rfl, rfl, rfl, rfl, rfl, rfl⟩

/-! ## Acceptance -/

/-- What the acceptance of a commit leaves. -/
def CommitAccepted (p : Port) (s : State) (kind : EntryKind) (ticket : Option Nat) (kinds : List JobKind) (u : State) : Prop :=
  u.commitQueue = s.commitQueue ++ [⟨kind, ticket, p⟩] ∧ u.settlements.length = s.settlements.length + 1 ∧
  (u.port p).state = .busy ∧ (u.port p).result = none ∧ u.head.isSome = true ∧
  u.journal = s.journal ∧ u.settings = s.settings ∧ u.clock = s.clock ∧ u.tares = s.tares ∧ u.tally = s.tally ∧
  u.mode = .run ∧
  ∃ v r, u = settle v ∧ u.settlements.getLast? = some r ∧ r.kind = kind ∧ r.ticket = ticket ∧ r.port = p ∧ r.torn = [] ∧
    (s.head.isSome = true → u.settlements = s.settlements ++ [r] ∧ r.receipt = none) ∧
    (s.head = none → s.settlements = [] → r.receipt = some s.counter) ∧
    (s.head = none → s.commitQueue = [] →
      u.head.map (fun h => (h.attempt, h.number, h.entry)) = some (1, s.counter, buildEntry v ⟨kind, ticket, p⟩ s.counter)) ∧
    r.jobs.length = kinds.length ∧
    (∀ x ∈ r.jobs.zip kinds, s.job x.1 = none ∧
      ∃ age, v.job x.1 = some ⟨x.2, none, some p, .reserved, 0, false, age, 0⟩) ∧
    (∀ slot, slot ∉ r.jobs → v.job slot = s.job slot)

/-- From `s` to `e` a commit's request has been entered: the ticket, its capture and its hold have changed, and the ports. -/
def Entered (s e : State) : Prop := ∃ channels tickets holds ports, e = { s with
  channels := channels, tickets := tickets, holds := holds, ports := ports }

/-- The state in which the head commit is taken: the slots are reserved, the record and the request appended. -/
def commitQueued (p : Port) (kind : EntryKind) (ticket : Option Nat) (kinds : List JobKind) (e : State) : State :=
  { (reserveJobs p kinds e).2 with
    settlements := e.settlements ++ [⟨kind, ticket, p, (reserveJobs p kinds e).1, none, []⟩]
    commitQueue := e.commitQueue ++ [⟨kind, ticket, p⟩] }

theorem acceptCommit_eq (p : Port) (kind : EntryKind) (ticket : Option Nat) (kinds : List JobKind) (e : State) :
    acceptCommit p kind ticket kinds e = settle (evalSpace (nextHead (commitQueued p kind ticket kinds e))) := by
  have frame := (reserveJobs_frame p kinds e).frame
  have settlements : (reserveJobs p kinds e).2.settlements = e.settlements := (congrArg State.settlements frame :)
  have commitQueue : (reserveJobs p kinds e).2.commitQueue = e.commitQueue := (congrArg State.commitQueue frame :)
  rw [acceptCommit, commitQueued, ← settlements, ← commitQueue]

/-- What is queued for a commit leaves the rest of the part. -/
theorem commitQueued_keeps (p : Port) (kind : EntryKind) (ticket : Option Nat) (kinds : List JobKind) (e : State) :
    let w := commitQueued p kind ticket kinds e
    w.journal = e.journal ∧ w.settings = e.settings ∧ w.clock = e.clock ∧ w.tares = e.tares ∧ w.tally = e.tally ∧
    w.mode = e.mode ∧ w.head = e.head ∧ w.counter = e.counter ∧ w.exhausted = e.exhausted ∧ w.tickets = e.tickets ∧
    w.holds = e.holds ∧ w.channels = e.channels ∧ w.plainPorts = e.plainPorts ∧ w.jobs = (reserveJobs p kinds e).2.jobs := by
  rw [commitQueued, (reserveJobs_frame p kinds e).frame]
  exact ⟨rfl, rfl, rfl, rfl, rfl, rfl, rfl, rfl, rfl, rfl, rfl, rfl, rfl, rfl⟩

theorem length_numberRecords (n : Nat) (rs : List Settlement) : (numberRecords n rs).length = rs.length := by
  cases rs <;> rfl

/-- The record appended is the last one, and it has its number when it is the first too. -/
theorem lastRecord {rs S : List Settlement} {r : Settlement} {waits : Prop} [Decidable waits] {n : Nat} (unnumbered : r.receipt = none)
    (behind : waits → S = rs ++ [r]) (first : ¬ waits → S = numberRecords n (rs ++ [r])) :
    ∃ x, S.getLast? = some x ∧ x.kind = r.kind ∧ x.ticket = r.ticket ∧ x.port = r.port ∧ x.torn = r.torn ∧ x.jobs = r.jobs ∧
      (waits → S = rs ++ [x] ∧ x.receipt = none) ∧ (¬ waits → rs = [] → x.receipt = some n) := by
  by_cases w : waits
  · rw [behind w]
    exact ⟨r, List.getLast?_concat, rfl, rfl, rfl, rfl, rfl, fun _ => ⟨rfl, unnumbered⟩, fun h => absurd w h⟩
  · rw [first w]
    cases rs with
    | nil => exact ⟨{ r with receipt := some n }, rfl, rfl, rfl, rfl, rfl, rfl, fun h => absurd h w, fun _ _ => rfl⟩
    | cons y ys =>
      have last : (numberRecords n (y :: ys ++ [r])).getLast? = some r :=
        (List.getLast?_concat (l := { y with receipt := some n } :: ys) :)
      exact ⟨r, last, rfl, rfl, rfl, rfl, rfl, fun h => absurd h w, fun _ h => absurd h (List.cons_ne_nil y ys)⟩

theorem acceptCommit_accepted {p : Port} {e : State} {kinds : List JobKind} (fresh : e.exhausted = false) (mode : e.mode = .run)
    (busy : (e.port p).state = .busy) (empty : (e.port p).result = none) (room : kinds.length ≤ e.freeSlots)
    (kind : EntryKind) (ticket : Option Nat) :
    let u := acceptCommit p kind ticket kinds e
    CommitAccepted p e kind ticket kinds u ∧
      (∀ m, (u.ticket m).map Ticket.unnumbered = (e.ticket m).map Ticket.unnumbered) ∧
      u.tickets.length = e.tickets.length ∧ u.holds = e.holds ∧ u.captures = e.captures := by
  obtain ⟨reserved, others⟩ := reserveJobs_reserves room p
  obtain ⟨journal, settings, clock, tares, tally, mode', head, counter, exhausted, tickets, holds, channels, plain, jobs⟩ :=
    commitQueued_keeps p kind ticket kinds e
  have settlements : (commitQueued p kind ticket kinds e).settlements =
    e.settlements ++ [⟨kind, ticket, p, (reserveJobs p kinds e).1, none, []⟩] := rfl
  have queue : (commitQueued p kind ticket kinds e).commitQueue = e.commitQueue ++ [⟨kind, ticket, p⟩] := rfl
  rw [acceptCommit_eq]
  generalize commitQueued p kind ticket kinds e = w at *
  have took := nextHead_takes (exhausted.trans fresh) (queue ▸ List.append_ne_nil_of_right_ne_nil _ (List.cons_ne_nil _ _))
  generalize nextHead w = x at *
  have plainPorts := ((plainPorts_settle _).trans (plainPorts_evalSpace x)).trans (took.plain.trans plain)
  have evaluated := took.keeps.trans (evalSpace_keeps x)
  obtain ⟨settlements₁, tickets₁, head₁⟩ := evalSpace_records x
  generalize evalSpace x = v at *
  have run : v.mode = .run := evaluated.mode.trans (mode'.trans mode)
  have armed := captures_settle (s := v) (by rw [run]; exact nofun)
  have stays := settle_mode_of_ne (s := v) (by rw [run]; exact nofun)
  obtain ⟨settlements₂, tickets₂, head₂, queue₂, tares₂, tally₂, holds₂⟩ := settle_records v
  obtain ⟨-, journal₂, -, -, clock₂, settings₂⟩ := settle_keeps v
  intro u
  have portPlain : (u.port p).plain = (e.port p).plain := congrFun plainPorts p
  have records : u.settlements = x.settlements := settlements₂.trans settlements₁
  have job (slot : Nat) : v.job slot = (reserveJobs p kinds e).2.job slot := by
    rw [State.job, evaluated.jobs, jobs, State.job]
  have waiting (some' : e.head.isSome = true) : u.settlements = e.settlements ++ [⟨kind, ticket, p, (reserveJobs p kinds e).1, none, []⟩] :=
    records.trans ((took.waits (head ▸ some')).trans settlements)
  have numbered (none' : ¬ e.head.isSome = true) : u.settlements =
      numberRecords e.counter (e.settlements ++ [⟨kind, ticket, p, (reserveJobs p kinds e).1, none, []⟩]) := by
    rw [records, took.numbers (head.trans (Option.not_isSome_iff_eq_none.mp none')), counter, settlements]
  obtain ⟨r, last, kind', ticket', port', torn', jobs', behind, first⟩ := lastRecord
    (r := ⟨kind, ticket, p, (reserveJobs p kinds e).1, none, []⟩) rfl waiting numbered
  have count : u.settlements.length = e.settlements.length + 1 := by
    by_cases some' : e.head.isSome = true
    · rw [waiting some', List.length_append, List.length_singleton]
    · rw [numbered some', length_numberRecords, List.length_append, List.length_singleton]
  have found (m : Nat) : (u.ticket m).map Ticket.unnumbered = (e.ticket m).map Ticket.unnumbered := by
    rw [State.ticket, tickets₂.trans tickets₁, ← State.ticket, took.tickets, State.ticket, tickets, ← State.ticket]
  have entry (m : Nat) : (v.ticket m).map Ticket.unnumbered = (w.ticket m).map Ticket.unnumbered := by
    rw [State.ticket, tickets₁, ← State.ticket, took.tickets]
  refine ⟨⟨queue₂.trans (evaluated.commitQueue.trans queue), count, (congrArg PortCtx.state portPlain).trans busy,
    (congrArg PortCtx.result portPlain).trans empty, ?_, journal₂.trans (evaluated.journal.trans journal),
    settings₂.trans (evaluated.settings.trans settings), clock₂.trans (evaluated.clock.trans clock),
    tares₂.trans (evaluated.tares.trans tares), tally₂.trans (evaluated.tally.trans tally), stays.trans run,
    v, r, rfl, last, kind', ticket', port', torn', behind, fun none' => first (by rw [none']; exact Bool.false_ne_true),
    fun none' alone => ?_, ?_, ?_, ?_⟩, found, ?_,
    holds₂.trans (evaluated.holds.trans holds), armed.trans ?_⟩
  · rw [head₂, head₁]
    exact took.head
  · rw [head₂, head₁, took.begins ⟨kind, ticket, p⟩ [] (head.trans none') (by rw [queue, alone]; rfl), counter,
      buildEntry_congr evaluated.clock evaluated.clockSet evaluated.channels evaluated.tally entry]
  · rw [jobs', reserveJobs_length]
  · rw [jobs']
    intro x mem
    rw [job]
    exact reserved x mem
  · rw [jobs']
    intro slot outside
    exact (job slot).trans (others slot outside)
  · rw [tickets₂, tickets₁, took.count, tickets]
  · funext sc
    rw [State.captures, State.chan, evaluated.channels, channels]
    rfl

end Sys2Proof.Machine
end

section
/-! PROOFS. The tickets of accepted commits, and the obligation on acceptance (R57, R59, R75, R104, R110, R113). -/

namespace Sys2Proof.Machine

/-! ## The ticket of a commit (R59) -/

/-- A ticket found but for its receipt number is in its commit. -/
theorem committing_found {u : State} {m : Nat} {x : Ticket} {c : TicketCommit} (commit : x.commit = some c)
    (found : (u.ticket m).map Ticket.unnumbered = some x.unnumbered) :
    ∃ v d, u.ticket m = some v ∧ v.state = x.state ∧ v.claim = x.claim ∧ v.commit = some d ∧ d.kind = c.kind ∧
      d.reason = c.reason ∧ d.port = c.port ∧ d.before = c.before ∧ v.lines = x.lines ∧ v.total = x.total ∧
      v.capture = x.capture := by
  obtain ⟨v, at', same⟩ := Option.map_eq_some_iff.mp found
  have commits : v.commit.map (fun c => { c with receipt := none }) = some { c with receipt := none } := by
    have h : v.commit.map (fun c => { c with receipt := none }) = x.commit.map (fun c => { c with receipt := none }) :=
      congrArg Ticket.commit same
    rw [h, commit]
    rfl
  obtain ⟨d, has, same'⟩ := Option.map_eq_some_iff.mp commits
  exact ⟨v, d, at', (congrArg Ticket.state same :), (congrArg Ticket.claim same :), has, (congrArg TicketCommit.kind same' :),
    (congrArg TicketCommit.reason same' :), (congrArg TicketCommit.port same' :), (congrArg TicketCommit.before same' :),
    (congrArg Ticket.lines same :), (congrArg Ticket.total same :), (congrArg Ticket.capture same :)⟩

theorem namedTicket_ok {s : State} {n : Half} {t : Ticket} (h : s.namedTicket n = .ok t) :
    ¬ (n.toNat = 0 ∨ 9999 < n.toNat) ∧ s.ticket n.toNat = some t ∧ t.number = n.toNat := by
  rw [State.namedTicket] at h
  split at h
  · cases h
  · rename_i range
    split at h
    · cases h
    · rename_i found
      cases h
      exact ⟨range, found, (ticket_some found).2⟩

theorem onTicket_found {s : State} {n : Half} {t : Ticket} (h : s.namedTicket n = .ok t) (p : Port) (f : Ticket → State) :
    onTicket p n s f = f t := by
  obtain ⟨range, found, -⟩ := namedTicket_ok h
  rw [onTicket, if_neg range, found]

theorem spaceAndSlots_go {s : State} {slots : Nat} (space : 1 ≤ s.space) (room : slots ≤ s.freeSlots) (p : Port) (kind : EntryKind)
    (go : State) : spaceAndSlots p kind slots s go = go := by
  rw [spaceAndSlots, if_neg (by omega), if_neg (by omega)]

theorem fresh_of_space {s : State} (space : 1 ≤ s.space) : s.exhausted = false := by
  cases full : s.exhausted with
  | false => rfl
  | true =>
    rw [State.space, full, if_pos rfl] at space
    exact absurd space (by decide)

theorem taken_plain (p : Port) (s : State) : ((taken p s).port p).state = .busy ∧ ((taken p s).port p).result = none := by
  rw [taken_eq, updPort_port_same]
  exact ⟨rfl, rfl⟩

/-- What a port of a request has taken stands when only notices have been added since. -/
theorem taken_of_plain {p : Port} {s e : State} (plain : e.plainPorts = (taken p s).plainPorts) :
    (e.port p).state = .busy ∧ (e.port p).result = none := by
  have same : (e.port p).plain = ((taken p s).port p).plain := congrFun plain p
  obtain ⟨busy, empty⟩ := taken_plain p s
  exact ⟨(congrArg PortCtx.state same).trans busy, (congrArg PortCtx.result same).trans empty⟩

/-! ## A void takes the capture armed for its ticket (R57, R75) -/

theorem captureVoided_plain (t : Ticket) (s : State) : (captureVoided t s).plainPorts = s.plainPorts := by
  rw [captureVoided]
  split
  · rfl
  · exact plainPorts_offerTo ..

theorem captureVoided_entered (t : Ticket) (s : State) : Entered s (captureVoided t s) := by
  rw [captureVoided]
  split
  · exact ⟨_, _, _, _, rfl⟩
  · exact ⟨_, _, _, _, rfl⟩

theorem voidEntered_entered (p : Port) (reason : Nat) (t : Ticket) (s : State) : Entered s (voidEntered p reason t s) := by
  have entered := captureVoided_entered t s
  rw [voidEntered]
  generalize captureVoided t s = u at *
  obtain ⟨_, _, _, _, rfl⟩ := entered
  exact ⟨_, _, _, _, rfl⟩

/-- A ticket keeps all but its capture when a capture is voided. -/
theorem captureVoided_ticket {s : State} {m : Nat} {r : Ticket} (found : s.ticket m = some r) (t : Ticket) :
    ∃ capture, (captureVoided t s).ticket m = some { r with capture := capture } := by
  rw [captureVoided]
  split
  · exact ⟨_, found⟩
  · rename_i sc k _
    rw [State.ticket, find_map_ticket (fun r => by split <;> rfl), ← State.ticket, found, Option.map_some]
    split
    · exact ⟨_, rfl⟩
    · exact ⟨_, rfl⟩

/-- The capture armed for the voided ticket leaves its scale and the ticket. -/
theorem captureVoided_takes {s : State} {t : Ticket} {sc : Scale} {k : Capture} (armed : t.capture = some sc)
    (capture : (s.chan sc).capture = some k) (ticket : k.ticket = some t.number) :
    (captureVoided t s).captures sc = none ∧
      ∀ {r}, (captureVoided t s).ticket t.number = some r → r.capture = none := by
  have taken : t.capture.bind (fun sc => (s.chan sc).capture.map (fun k => (sc, k))) = some (sc, k) := by
    rw [armed, Option.bind_some, capture]
    rfl
  rw [captureVoided, taken]
  refine ⟨?_, fun {r} found => ?_⟩
  · exact congrArg Channel.capture (PerScale.get_set_same s.channels sc { s.chan sc with capture := none })
  · rw [State.ticket, find_map_ticket (fun r => by split <;> rfl)] at found
    obtain ⟨y, at', rfl⟩ := Option.map_eq_some_iff.mp found
    have number : y.number = t.number := (ticket_some (s := s) at').2
    rw [if_pos (by rw [ticket, number])]

/-! ## Acceptance of the three requests -/

theorem CommitAccepted.of_entered {p : Port} {s e u : State} {kind : EntryKind} {ticket : Option Nat} {kinds : List JobKind}
    (entered : Entered s e) (h : CommitAccepted p e kind ticket kinds u) : CommitAccepted p s kind ticket kinds u := by
  obtain ⟨_, _, _, _, rfl⟩ := entered
  exact h

theorem Entered.trans {s t u : State} (h : Entered s t) (k : Entered t u) : Entered s u := by
  obtain ⟨_, _, _, _, rfl⟩ := h
  obtain ⟨_, _, _, _, rfl⟩ := k
  exact ⟨_, _, _, _, rfl⟩

theorem taken_entered (p : Port) (s : State) : Entered s (taken p s) := ⟨_, _, _, _, rfl⟩

/-- A request whose commit is accepted, by what it enters first. -/
theorem entered_accepted {p : Port} {s e : State} {kinds : List JobKind} (entered : Entered (taken p s) e)
    (plain : e.plainPorts = (taken p s).plainPorts) (space : 1 ≤ s.space) (mode : s.mode = .run)
    (room : kinds.length ≤ s.freeSlots) (kind : EntryKind) (ticket : Option Nat) :
    let u := acceptCommit p kind ticket kinds e
    CommitAccepted p s kind ticket kinds u ∧
      (∀ m, (u.ticket m).map Ticket.unnumbered = (e.ticket m).map Ticket.unnumbered) ∧
      u.tickets.length = e.tickets.length ∧ u.holds = e.holds ∧ u.captures = e.captures := by
  have whole := (taken_entered p s).trans entered
  obtain ⟨busy, empty⟩ := taken_of_plain plain
  have same : e.exhausted = s.exhausted ∧ e.mode = s.mode ∧ e.freeSlots = s.freeSlots := by
    obtain ⟨_, _, _, _, rfl⟩ := whole
    exact ⟨rfl, rfl, rfl⟩
  obtain ⟨exhausted, mode', slots⟩ := same
  obtain ⟨accepted, rest⟩ := acceptCommit_accepted (exhausted.trans (fresh_of_space space)) (mode'.trans mode) busy empty
    (slots ▸ room) kind ticket
  exact ⟨accepted.of_entered whole, rest⟩

/-- A ticket entered for its commit. -/
theorem find_entered {f : Ticket → Ticket} (keeps : ∀ r, (f r).number = r.number) {n : Nat} {ts : List Ticket} {t : Ticket}
    (found : ts.find? (fun t => t.number == n) = some t) (number : t.number = n) :
    (ts.map (fun r => if r.number = n then f r else r)).find? (fun t => t.number == n) = some (f t) := by
  rw [find_map_ticket (fun r => by split <;> [exact keeps r; rfl]), found, Option.map_some, if_pos number]

theorem settleTicket_accepted {p : Port} {n : Half} {s : State} {t : Ticket} (role : s.role p = .window ∨ s.role p = .office)
    (mode : s.mode = .run) (named : s.namedTicket n = .ok t) (payable : t.state = .payable) (free : claimedByOther p t = false)
    (space : 1 ≤ s.space) (room : 1 ≤ s.freeSlots) : settleTicket p n (taken p s) =
      acceptCommit p .payout (some t.number) [.original] (settleEntered p t (taken p s)) := by
  rw [settleTicket_taken, if_neg fun h => role.elim h.1 h.2, if_neg (not_not_intro mode), onTicket_found named, payable,
    if_neg nofun, if_neg (not_not_intro rfl), if_neg (by rw [free]; exact Bool.false_ne_true), spaceAndSlots_go space room]

theorem voidTicket_accepted {p : Port} {n : Half} {reason : Byte} {s : State} {t : Ticket}
    (role : s.role p = .office ∨ (s.role p = .scale ∧ (t.state = .opened ∨ t.state = .onYard))) (mode : s.mode = .run)
    (low : 1 ≤ reason.toNat) (high : reason.toNat ≤ 15) (named : s.namedTicket n = .ok t) (still : t.state ≠ .committing)
    (free : claimedByOther p t = false) (weighed : t.weighings ≠ []) (space : 1 ≤ s.space) (room : 1 ≤ s.freeSlots) :
    voidTicket p n reason (taken p s) =
      acceptCommit p .void (some t.number) [.voidSlip] (voidEntered p reason.toNat t (taken p s)) := by
  have admitted : ¬ (s.role p ≠ .scale ∧ s.role p ≠ .office) := fun h => role.elim h.2 fun r => h.1 r.1
  have voidable : ¬ (s.role p ≠ .office ∧ t.state ≠ .opened ∧ t.state ≠ .onYard) := fun h =>
    role.elim h.1 fun r => r.2.elim h.2.1 h.2.2
  rw [voidTicket_taken, if_neg admitted, if_neg (not_not_intro mode), if_neg (by omega), onTicket_found named,
    if_neg (by rw [free]; exact Bool.false_ne_true), if_neg still, if_neg voidable, voidGoesOn, if_neg weighed,
    spaceAndSlots_go space room]

theorem closeShift_accepted {p : Port} {s : State} (role : s.role p = .office) (mode : s.mode = .run)
    (noTally : s.noTallyJob = true) (space : 1 ≤ s.space) (room : 2 ≤ s.freeSlots) : closeShift p (taken p s) =
      acceptCommit p .shift none [.shiftReport, .tally] (taken p s) := by
  rw [closeShift_taken, if_neg (not_not_intro role), if_neg (not_not_intro mode),
    if_neg (by rw [noTally]; exact nofun), spaceAndSlots_go space room]

/-- The ticket of a void as it enters its commit, its capture gone when one was armed for it. -/
theorem voidEntered_ticket {p : Port} {s : State} {t : Ticket} (found : s.ticket t.number = some t) (reason : Nat) :
    ∃ x, (voidEntered p reason t s).ticket t.number = some x ∧ x.state = .committing ∧ x.claim = none ∧
      x.commit = some ⟨.void, some reason, p, t.state, none⟩ ∧ x.lines = t.lines ∧
      ((captureVoided t s).ticket t.number).map (·.capture) = some x.capture := by
  obtain ⟨capture, voided⟩ := captureVoided_ticket found t
  refine ⟨_, find_entered (f := fun r =>
    { r with state := .committing, claim := none, commit := some ⟨.void, some reason, p, t.state, none⟩ }) (fun _ => rfl) voided rfl,
    rfl, rfl, rfl, rfl, ?_⟩
  rw [voided]
  rfl

/-- Settles O43: each request by the commit it enters. -/
theorem commitsAreAccepted : Obligations.CommitsAreAccepted := by
  intro p n reason s taking mode space accepted
  refine ⟨fun t role named payable free room => ?_, fun t role low high named still free weighed room => ?_,
    fun role noTally room => ?_⟩
  · obtain ⟨-, found, number⟩ := namedTicket_ok named
    rw [← number] at found
    rw [exec_settleTicket, request_taking taking, settleTicket_accepted role mode named payable free space room]
    obtain ⟨commit, tickets, -⟩ := entered_accepted (e := settleEntered p t (taken p s)) (kinds := [.original])
      ⟨_, _, _, _, rfl⟩ rfl space mode room .payout (some t.number)
    have entered := find_entered (f := fun r =>
      { r with state := .committing, claim := none, commit := some ⟨.payout, none, p, t.state, none⟩ }) (fun _ => rfl) found rfl
    obtain ⟨v, c, at', state, claim, commit', kind, -, port, before, lines, total, -⟩ := committing_found rfl
      ((tickets t.number).trans (congrArg (Option.map Ticket.unnumbered) entered))
    exact ⟨_, rfl, commit, v, c, at', state, claim, commit', kind, port, before.trans payable, lines, total⟩
  · obtain ⟨-, found, number⟩ := namedTicket_ok named
    rw [← number] at found
    rw [exec_voidTicket, request_taking taking, voidTicket_accepted role mode low high named still free weighed space room]
    obtain ⟨commit, tickets, -, holds, captures⟩ := entered_accepted (e := voidEntered p reason.toNat t (taken p s))
      (kinds := [.voidSlip]) (voidEntered_entered ..) (captureVoided_plain ..) space mode room .void (some t.number)
    obtain ⟨x, entered, state', claim', commit', lines', capture'⟩ := voidEntered_ticket (p := p) (s := taken p s) found reason.toNat
    obtain ⟨v, c, at', state, claim, has, kind, cause, port, before, lines, -, capture⟩ := committing_found commit'
      ((tickets t.number).trans (congrArg (Option.map Ticket.unnumbered) entered))
    refine ⟨_, rfl, commit, fun held h mem => ?_, fun sc k armed scale ticket => ?_,
      v, c, at', state.trans state', claim.trans claim', has, kind, cause, port, before, lines.trans lines'⟩
    · rw [holds, voidEntered, if_pos held] at mem
      exact bne_iff_ne.mp (List.mem_filter.mp mem).2
    · obtain ⟨left, cleared⟩ := captureVoided_takes (s := taken p s) armed scale ticket
      refine ⟨(congrFun captures sc).trans left, fun r found' => ?_⟩
      obtain ⟨y, voided, same⟩ := Option.map_eq_some_iff.mp capture'
      rw [← Option.some.inj (at'.symm.trans found'), capture, ← same]
      exact cleared voided
  · rw [exec_closeShift, request_taking taking, closeShift_accepted role mode noTally space room]
    obtain ⟨commit, -, count, -⟩ := entered_accepted (e := taken p s) (kinds := [.shiftReport, .tally])
      ⟨_, _, _, _, rfl⟩ rfl space mode room .shift none
    exact ⟨_, rfl, commit, count⟩

end Sys2Proof.Machine
end

section
/-! PROOFS. How an entry of the journal is read (R119, R215). -/

namespace Sys2Proof.Machine

/-! ## Marks (R119) -/

/-- A status byte carries a mark when the bits that the mark clears are cleared in it. -/
theorem carries_iff_bits : ∀ b : Byte, carries b .audited = (!b.getLsbD 7 && !b.getLsbD 3) ∧
    carries b .torn = (!b.getLsbD 7 && !b.getLsbD 4) ∧
    carries b .printed = (!b.getLsbD 7 && !b.getLsbD 6 && !b.getLsbD 5) ∧
    carries b .complete = (!b.getLsbD 7 && !b.getLsbD 6) := by decide

theorem readMark_bits (b : Byte) : let clear (i : Nat) : Bool := !b.getLsbD i
    readMark b = if b = 0xFF#8 then .blank
      else if b = 0x00#8 then .badPattern
      else if clear 7 && clear 3 then .audited
      else if clear 7 && clear 4 then .torn
      else if clear 7 && clear 6 && clear 5 then .printed
      else if clear 7 && clear 6 then .complete
      else .started := by
  obtain ⟨audited, torn, printed, complete⟩ := carries_iff_bits b
  rw [readMark, audited, torn, printed, complete]

/-! ## The fields of an entry (R215) -/

section
variable {e : List Byte} (size : e.length = 256)
include size

theorem headD_eq_getD : e.headD 0xFF#8 = e.getD 0 0#8 := by
  cases e with
  | nil => exact absurd size (by decide)
  | cons b bs => rfl

theorem carriesTorn_iff : carriesTorn e = true ↔ (e.getD 0 0#8).getLsbD 7 = false ∧ (e.getD 0 0#8).getLsbD 4 = false := by
  rw [carriesTorn, headD_eq_getD size, (carries_iff_bits _).2.1, Bool.and_eq_true, Bool.not_eq_true', Bool.not_eq_true']

theorem entryNat_one {off : Nat} (fits : off < 256) : entryNat e off 1 = (e.getD off 0#8).toNat := by
  rw [entryNat_succ size (n := 0) fits, entryNat_zero]
  exact Nat.zero_add _

theorem entryNat_two {off : Nat} (fits : off + 1 < 256) :
    entryNat e off 2 = 256 * (e.getD off 0#8).toNat + (e.getD (off + 1) 0#8).toNat := by
  rw [entryNat_succ size (n := 1) fits, entryNat_one size (by omega)]

theorem entryNat_four {off : Nat} (fits : off + 3 < 256) : entryNat e off 4 = 16777216 * (e.getD off 0#8).toNat +
    65536 * (e.getD (off + 1) 0#8).toNat + 256 * (e.getD (off + 2) 0#8).toNat + (e.getD (off + 3) 0#8).toNat := by
  rw [entryNat_succ size (n := 3) fits, entryNat_succ size (n := 2) (by omega), entryNat_two size (by omega)]
  omega

/-- The check over a field: the sum of its bytes. -/
theorem byteSum_entryField {off n : Nat} (fits : off + n ≤ 256) (width : Nat) : byteSum width (entryField e off n) =
    ((List.range n).map (fun k => (e.getD (off + k) 0#8).toNat)).sum % 256 ^ width := by
  rw [byteSum_eq, entryField_eq size fits, List.map_map]
  rfl

theorem headerHolds_iff : headerHolds e = true ↔ 256 * (e.getD 10 0#8).toNat + (e.getD 11 0#8).toNat =
    ((List.range 9).map (fun k => (e.getD (1 + k) 0#8).toNat)).sum % 65536 := by
  rw [headerHolds, beq_iff_eq, entryNat_two size (by decide), byteSum_entryField size (by decide), show 256 ^ 2 = 65536 from rfl]

theorem bodyHolds_iff : bodyHolds e = true ↔ 16777216 * (e.getD 252 0#8).toNat + 65536 * (e.getD 253 0#8).toNat +
    256 * (e.getD 254 0#8).toNat + (e.getD 255 0#8).toNat =
      ((List.range 236).map (fun k => (e.getD (16 + k) 0#8).toNat)).sum % 4294967296 := by
  rw [bodyHolds, beq_iff_eq, entryNat_four size (by decide), byteSum_entryField size (by decide), show 256 ^ 4 = 4294967296 from rfl]

theorem entryText_eq {off : Nat} (fits : off < 256) (width : Nat) : entryText e off width =
    if (e.getD off 0#8).toNat = 0 then none else some (entryField e (off + 1) (min (e.getD off 0#8).toNat width)) := by
  rw [entryText, entryNat_one size fits]

theorem kindByte_eq : kindByte e = e.getD 5 0#8 := by
  rw [kindByte, entryField_eq size (by decide)]
  rfl

/-- The kind that a byte spells. -/
theorem entryKind_of {k : EntryKind} (spelt : (e.getD 5 0#8).toNat = entryKindCode k) : entryKind e = k := by
  have byte : e.getD 5 0#8 = BitVec.ofNat 8 (entryKindCode k) := by
    rw [← spelt]
    exact ((BitVec.ofNat_toNat ..).trans (BitVec.setWidth_eq _)).symm
  rw [entryKind, kindByte_eq size, byte]
  cases k <;> rfl

theorem entryLines_eq : entryLines e = (List.range (min 8 (e.getD 68 0#8).toNat)).map (entryLine e) := by
  rw [entryLines, entryNat_one size (by decide)]

end

end Sys2Proof.Machine
end

section
/-! PROOFS. How a commit builds its entry, field by field (R105, R118, R170, R215). -/

namespace Sys2Proof.Machine

/-! ## Fields of concatenated bytes -/

theorem entryField_append_left {a b : List Byte} {n : Nat} (size : a.length = n) : entryField (a ++ b) 0 n = a := by
  rw [entryField, List.drop_zero, ← size, List.take_left]

theorem entryField_append_right {a b : List Byte} {k : Nat} (size : a.length = k) (off n : Nat) :
    entryField (a ++ b) (k + off) n = entryField b off n := by
  rw [entryField, entryField, ← List.drop_drop, ← size, List.drop_left]

/-- The bytes of a field among fields one after another, by their sizes. -/
theorem entryField_at {cs : List (List Byte)} {sizes : List Nat} (fit : cs.map List.length = sizes) {k : Nat} {c : List Byte}
    (field : cs[k]? = some c) : entryField cs.flatten (sizes.take k).sum (sizes.getD k 0) = c := by
  induction cs generalizing k sizes with
  | nil => exact absurd field nofun
  | cons d cs ih =>
    subst fit
    cases k with
    | zero =>
      rw [List.getElem?_cons_zero, Option.some_inj] at field
      subst field
      exact entryField_append_left rfl
    | succ k =>
      rw [List.getElem?_cons_succ] at field
      rw [List.flatten_cons, List.map_cons, List.take_succ_cons, List.sum_cons, entryField_append_right rfl]
      exact ih rfl field

theorem entryField_sub {e c : List Byte} {off n : Nat} (field : entryField e off n = c) {i m : Nat} (fits : i + m ≤ n) :
    entryField e (off + i) m = (c.drop i).take m := by
  rw [← field, entryField, entryField, List.drop_take, List.take_take, List.drop_drop, Nat.min_eq_left (by omega)]

/-- The number that the bytes of a number spell. -/
theorem ofBytes_be (w n : Nat) : ofBytes (be w n) = n % 256 ^ w := by
  induction w generalizing n with
  | zero => exact (Nat.mod_one n).symm
  | succ w ih =>
    have snoc (bs : List Byte) (b : Byte) : ofBytes (bs ++ [b]) = 256 * ofBytes bs + b.toNat := by
      simp [ofBytes]
    have split : n % 256 ^ (w + 1) = n % 256 + 256 * (n / 256 % 256 ^ w) := by
      rw [Nat.pow_succ']
      exact Nat.mod_mul
    rw [be_succ, snoc, ih, BitVec.toNat_ofNat, split, Nat.add_comm, show 2 ^ 8 = 256 from rfl]

/-! ## The frame of an entry -/

/-- The body of the entry of a commit. -/
def commitBody (w : State) (q : CommitReq) : List Byte :=
  if q.kind = .shift then shiftBody w q.port
  else (q.ticket.bind w.ticket).elim (List.replicate 236 0#8) (fun t => ticketBody w t q.port (t.commit.bind (·.reason)))

/-- The header of the entry of a commit, but for its check. -/
def commitHeader (w : State) (q : CommitReq) (n : Nat) : List Byte := be 4 n ++ be 1 (entryKindCode q.kind) ++ be 4 w.clock

theorem buildEntry_chunks (w : State) (q : CommitReq) (n : Nat) : buildEntry w q n =
    [[0xFF#8], commitHeader w q n, be 2 (byteSum 2 (commitHeader w q n)), List.replicate 4 0xFF#8, commitBody w q,
      be 4 (byteSum 4 (commitBody w q))].flatten := by
  have body : (match q.kind, q.ticket.bind w.ticket with
      | .shift, _ => shiftBody w q.port
      | _, some t => ticketBody w t q.port (t.commit.bind (·.reason))
      | _, none => List.replicate 236 0#8) = commitBody w q := by
    rw [commitBody]
    cases q.kind <;> cases q.ticket.bind w.ticket <;> rfl
  rw [← body, commitHeader, buildEntry, headerBytes, absent]
  simp [List.flatten] <;> rfl

theorem length_commitHeader (w : State) (q : CommitReq) (n : Nat) : (commitHeader w q n).length = 9 := by
  simp [commitHeader, length_be]

theorem length_calCounters (w : State) : w.calCounters.length = 3 := rfl

theorem length_textField (width : Nat) (x : Option (List Byte)) : (textField width x).length = width + 1 := by
  cases x with
  | none => exact List.length_replicate
  | some t => simp [textField]

theorem length_lineBytes (l : Line) : (lineBytes l).length = 16 := by simp [lineBytes, length_be, length_beOpt]

/-- The bytes of the lines of a ticket, eight at most. -/
def linesField (ls : List Line) : List Byte := (ls.flatMap lineBytes ++ List.replicate 128 0#8).take 128

theorem length_linesField (ls : List Line) : (linesField ls).length = 128 := by simp [linesField]

/-- The flags of a ticket's entry. -/
def entryFlags (w : State) (t : Ticket) : List Bool := [!w.clockSet, t.closedTime.isSome,
  match t.tareSource with | some (.stored _) => true | _ => false, t.hold.isSome,
  match t.hold with | some h => h.endedEarly | none => false]

/-- The stored tare of a ticket, 0 without one. -/
def tareField (t : Ticket) : Nat := match t.tareSource with | some (.stored w) => w.toNat | _ => 0

/-- The fields of the body of a ticket's entry. -/
def bodyFields (w : State) (t : Ticket) (p : Port) (reason : Option Nat) : List (List Byte) :=
  [[flagByte (entryFlags w t)], be 1 (portCode p), be 2 t.number, be 4 t.openedTime, be 4 (t.closedTime.getD 0),
    textField 10 t.vehicle, textField 16 t.seller, be 4 (tareField t), w.calCounters, be 1 (reason.getD 0),
    be 4 ((t.hold.map (·.expiry)).getD 0), be 1 t.lines.length, List.replicate 3 0#8, linesField t.lines, be 4 (t.total.getD 0),
    List.replicate 48 0#8]

theorem ticketBody_fields (w : State) (t : Ticket) (p : Port) (reason : Option Nat) :
    ticketBody w t p reason = (bodyFields w t p reason).flatten := by
  have expiry : (match t.hold with | some h => h.expiry | none => 0) = (t.hold.map (·.expiry)).getD 0 := by
    cases t.hold <;> rfl
  rw [bodyFields, ← expiry, ticketBody]
  simp only [List.flatten_cons, List.flatten_nil, List.append_nil, List.append_assoc]
  rfl

/-- The fields of the body of a shift's entry. -/
def shiftFields (w : State) (p : Port) : List (List Byte) :=
  [[flagByte [!w.clockSet]], be 1 (portCode p), List.replicate 42 0#8, w.calCounters, List.replicate 141 0#8, be 4 w.tally.shift,
    be 4 w.tally.openTime, be 4 w.tally.receipts, be 4 w.tally.voids, be 4 w.tally.torn, be 6 w.tally.total,
    [flag w.tally.incomplete], List.replicate 21 0#8]

theorem shiftBody_fields (w : State) (p : Port) : shiftBody w p = (shiftFields w p).flatten := by
  rw [shiftBody, shiftBytes, shiftFields]
  simp only [List.flatten_cons, List.flatten_nil, List.append_nil, List.append_assoc]

theorem bodyFields_sizes (w : State) (t : Ticket) (p : Port) (reason : Option Nat) :
    (bodyFields w t p reason).map List.length = [1, 1, 2, 4, 4, 11, 17, 4, 3, 1, 4, 1, 3, 128, 4, 48] := by
  simp only [bodyFields, List.map_cons, List.map_nil, length_be, length_textField, length_calCounters, length_linesField,
    List.length_replicate, List.length_cons, List.length_nil]

theorem shiftFields_sizes (w : State) (p : Port) :
    (shiftFields w p).map List.length = [1, 1, 42, 3, 141, 4, 4, 4, 4, 4, 6, 1, 21] := by
  simp only [shiftFields, List.map_cons, List.map_nil, length_be, length_calCounters, List.length_replicate, List.length_cons,
    List.length_nil]

theorem length_commitBody (w : State) (q : CommitReq) : (commitBody w q).length = 236 := by
  rw [commitBody]
  split
  · rw [shiftBody_fields, List.length_flatten, shiftFields_sizes]
    rfl
  · cases q.ticket.bind w.ticket with
    | none => exact List.length_replicate
    | some t =>
      rw [Option.elim_some, ticketBody_fields, List.length_flatten, bodyFields_sizes]
      rfl

/-- The fields of the frame of an entry. -/
def entryChunks (w : State) (q : CommitReq) (n : Nat) : List (List Byte) :=
  [[0xFF#8], commitHeader w q n, be 2 (byteSum 2 (commitHeader w q n)), List.replicate 4 0xFF#8, commitBody w q,
    be 4 (byteSum 4 (commitBody w q))]

theorem entryChunks_sizes (w : State) (q : CommitReq) (n : Nat) : (entryChunks w q n).map List.length = [1, 9, 2, 4, 236, 4] := by
  simp only [entryChunks, List.map_cons, List.map_nil, length_be, length_commitHeader, length_commitBody, List.length_replicate,
    List.length_cons, List.length_nil]

section
variable (w : State) (q : CommitReq) (n : Nat)

theorem length_buildEntry : (buildEntry w q n).length = 256 := by
  rw [buildEntry_chunks, List.length_flatten, ← entryChunks, entryChunks_sizes]
  rfl

theorem buildEntry_field {k : Nat} {c : List Byte} (field : (entryChunks w q n)[k]? = some c) :
    entryField (buildEntry w q n) ([1, 9, 2, 4, 236, 4].take k).sum ([1, 9, 2, 4, 236, 4].getD k 0) = c := by
  rw [buildEntry_chunks]
  exact entryField_at (entryChunks_sizes w q n) field

theorem buildEntry_header : entryField (buildEntry w q n) 1 9 = commitHeader w q n := buildEntry_field w q n (k := 1) rfl

theorem buildEntry_body : entryField (buildEntry w q n) 16 236 = commitBody w q := buildEntry_field w q n (k := 4) rfl

theorem buildEntry_bodyField {off len : Nat} (fits : off + len ≤ 236) :
    entryField (buildEntry w q n) (16 + off) len = entryField (commitBody w q) off len :=
  entryField_sub (buildEntry_body w q n) fits

/-- Both checks hold over the bytes that they check. -/
theorem buildEntry_checks : headerHolds (buildEntry w q n) = true ∧ bodyHolds (buildEntry w q n) = true := by
  have fits (k : Nat) (bs : List Byte) : ofBytes (be k (byteSum k bs)) = byteSum k bs := by
    rw [ofBytes_be, byteSum, Nat.mod_mod]
  rw [headerHolds, bodyHolds, beq_iff_eq, beq_iff_eq, entryNat, entryNat, buildEntry_header, buildEntry_body]
  exact ⟨(congrArg ofBytes (buildEntry_field w q n (k := 2) rfl)).trans (fits ..),
    (congrArg ofBytes (buildEntry_field w q n (k := 5) rfl)).trans (fits ..)⟩

end

end Sys2Proof.Machine
end

section
/-! PROOFS. The bodies of a ticket's and a shift's entry (R118, R170, R215). -/

namespace Sys2Proof.Machine

/-! ## A ticket's entry -/

theorem textField_none (width : Nat) : textField width none = List.replicate (width + 1) 0#8 := rfl

theorem textField_some {width : Nat} {v : List Byte} (fits : v.length ≤ width) :
    textField width (some v) = be 1 v.length ++ v ++ List.replicate (width - v.length) 0#8 := by
  rw [be_one, textField, List.take_append, List.take_of_length_le fits, List.take_replicate, Nat.min_eq_left (by omega)]
  rfl

/-- The place of a line among the lines of an entry: its bytes, or 0x00 past the last. -/
theorem linesSlice (ls : List Line) (i N : Nat) (room : 16 * (i + 1) ≤ N) :
    ((ls.flatMap lineBytes ++ List.replicate N 0#8).drop (16 * i)).take 16 = (ls[i]?).elim (List.replicate 16 0#8) lineBytes := by
  induction ls generalizing i with
  | nil =>
    rw [List.flatMap_nil, List.nil_append, List.drop_replicate, List.take_replicate, Nat.min_eq_left (by omega)]
    rfl
  | cons l ls ih =>
    have size := length_lineBytes l
    cases i with
    | zero =>
      rw [List.flatMap_cons, Nat.mul_zero, List.drop_zero, List.append_assoc, ← size, List.take_left]
      rfl
    | succ i =>
      rw [List.flatMap_cons, List.append_assoc, List.drop_append, List.drop_eq_nil_of_le (by omega), List.nil_append, size,
        show 16 * (i + 1) - 16 = 16 * i by omega, ih i (by omega), List.getElem?_cons_succ]

theorem linesField_slice (ls : List Line) {i : Nat} (inside : i < 8) :
    ((linesField ls).drop (16 * i)).take 16 = (ls[i]?).elim (List.replicate 16 0#8) lineBytes := by
  rw [linesField, List.drop_take, List.take_take, Nat.min_eq_left (by omega), linesSlice ls i 128 (by omega)]

section
variable {w : State} {q : CommitReq} {t : Ticket}

/-- The body of the entry of a commit whose ticket stands. -/
theorem commitBody_ticket (kind : q.kind ≠ .shift) (found : q.ticket.bind w.ticket = some t) :
    commitBody w q = (bodyFields w t q.port (t.commit.bind (·.reason))).flatten := by
  rw [commitBody, if_neg kind, found, Option.elim_some, ticketBody_fields]

theorem ticketEntry_field (kind : q.kind ≠ .shift) (found : q.ticket.bind w.ticket = some t) (n : Nat) {k : Nat} {c : List Byte}
    (field : (bodyFields w t q.port (t.commit.bind (·.reason)))[k]? = some c)
    (fits : ([1, 1, 2, 4, 4, 11, 17, 4, 3, 1, 4, 1, 3, 128, 4, 48].take k).sum +
      [1, 1, 2, 4, 4, 11, 17, 4, 3, 1, 4, 1, 3, 128, 4, 48].getD k 0 ≤ 236) :
    entryField (buildEntry w q n) (16 + ([1, 1, 2, 4, 4, 11, 17, 4, 3, 1, 4, 1, 3, 128, 4, 48].take k).sum)
      ([1, 1, 2, 4, 4, 11, 17, 4, 3, 1, 4, 1, 3, 128, 4, 48].getD k 0) = c := by
  rw [buildEntry_bodyField w q n fits, commitBody_ticket kind found]
  exact entryField_at (bodyFields_sizes ..) field

theorem ticketEntry_flag (kind : q.kind ≠ .shift) (found : q.ticket.bind w.ticket = some t) (n i : Nat) :
    entryFlag (buildEntry w q n) i = (entryFlags w t).getD i false := by
  have flags : entryField (buildEntry w q n) 16 1 = [flagByte (entryFlags w t)] :=
    ticketEntry_field kind found n (k := 0) rfl (by decide)
  have few : (entryFlags w t).length ≤ 8 := show 5 ≤ 8 by decide
  rw [entryFlag, flags, List.headD_cons, flagByte_bit few]

theorem ticketEntry_line (kind : q.kind ≠ .shift) (found : q.ticket.bind w.ticket = some t) (n : Nat) {i : Nat} (inside : i < 8) :
    entryField (buildEntry w q n) (72 + 16 * i) 16 = (t.lines[i]?).elim (List.replicate 16 0#8) lineBytes := by
  have lines : entryField (buildEntry w q n) 72 128 = linesField t.lines :=
    ticketEntry_field kind found n (k := 13) rfl (by decide)
  rw [entryField_sub lines (by omega), linesField_slice t.lines inside]

theorem ticketEntry_text (kind : q.kind ≠ .shift) (found : q.ticket.bind w.ticket = some t) (n : Nat) :
    entryField (buildEntry w q n) 28 11 = textField 10 t.vehicle ∧ entryField (buildEntry w q n) 39 17 = textField 16 t.seller :=
  ⟨ticketEntry_field kind found n (k := 5) rfl (by decide), ticketEntry_field kind found n (k := 6) rfl (by decide)⟩

theorem tareField_stored {x : Nat} (h : t.tareSource = some (.stored x)) : tareField t = x := by
  rw [tareField, h]
  exact Int.toNat_natCast x

theorem tareField_none (h : ∀ x, t.tareSource ≠ some (.stored x)) : tareField t = 0 := by
  rw [tareField]
  split
  · exact absurd ‹_› (h _)
  · rfl

theorem calCounters_eq (w : State) : w.calCounters = [Scale.a, .b, .p].map (fun sc => BitVec.ofNat 8 (w.chan sc).calCounter) := by
  simp only [State.calCounters, allScales, be_one]
  rfl

theorem storedFlag_iff : (entryFlags w t).getD 2 false = true ↔ ∃ x, t.tareSource = some (.stored x) := by
  change (match t.tareSource with | some (.stored _) => true | _ => false) = true ↔ _
  split
  · rename_i x _
    exact iff_of_true rfl ⟨x, ‹_›⟩
  · rename_i other
    exact iff_of_false Bool.false_ne_true fun ⟨x, h⟩ => other x h

theorem endedFlag_iff : (entryFlags w t).getD 4 false = true ↔ ∃ x, t.hold = some ⟨x, true⟩ := by
  change (match t.hold with | some h => h.endedEarly | none => false) = true ↔ _
  split
  · rename_i h held
    obtain ⟨expiry, ended⟩ := h
    cases ended
    · exact iff_of_false Bool.false_ne_true fun ⟨x, h⟩ => by rw [held] at h; cases h
    · exact iff_of_true rfl ⟨expiry, held⟩
  · rename_i none'
    exact iff_of_false Bool.false_ne_true fun ⟨x, h⟩ => by rw [none'] at h; cases h

end

/-! ## A shift's entry -/

theorem shiftEntry_field {q : CommitReq} (kind : q.kind = .shift) (w : State) (n : Nat) {k : Nat} {c : List Byte}
    (field : (shiftFields w q.port)[k]? = some c)
    (fits : ([1, 1, 42, 3, 141, 4, 4, 4, 4, 4, 6, 1, 21].take k).sum + [1, 1, 42, 3, 141, 4, 4, 4, 4, 4, 6, 1, 21].getD k 0 ≤ 236) :
    entryField (buildEntry w q n) (16 + ([1, 1, 42, 3, 141, 4, 4, 4, 4, 4, 6, 1, 21].take k).sum)
      ([1, 1, 42, 3, 141, 4, 4, 4, 4, 4, 6, 1, 21].getD k 0) = c := by
  rw [buildEntry_bodyField w q n fits, commitBody, if_pos kind, shiftBody_fields]
  exact entryField_at (shiftFields_sizes ..) field

end Sys2Proof.Machine
end

section
/-! PROOFS. A commit that fails leaves the queue, its ticket returns and its slots are freed (R61, R109, R126, R165). -/

namespace Sys2Proof.Machine

/-! ## The slots of a record are freed, one after another (R109, R165) -/

/-- The slots are freed one after another. -/
def slotsFreed (slots : List Nat) (s : State) : State := slots.foldl (fun x slot => slotFreed slot x) s

theorem slotsFreed_walkView (slots : List Nat) {s t : State} (same : s.walkView = t.walkView) :
    (slotsFreed slots s).walkView = (slotsFreed slots t).walkView := by
  induction slots generalizing s t with
  | nil => exact same
  | cons slot slots ih => exact ih (walkView_slotFreed same slot)

theorem slotsFreed_frame (slots : List Nat) (s : State) : slotsFreed slots s = { s with
    jobs := (slotsFreed slots s).jobs, backlog := (slotsFreed slots s).backlog
    ageCounter := (slotsFreed slots s).ageCounter, free := (slotsFreed slots s).free } := by
  induction slots generalizing s with
  | nil => rfl
  | cons slot slots ih =>
    have rest : slotsFreed (slot :: slots) s = slotsFreed slots (slotFreed slot s) := rfl
    have first := slotFreed_frame slot s
    rw [rest]
    exact (ih _).trans (congrArg (fun x : State => { x with
      jobs := (slotsFreed slots (slotFreed slot s)).jobs, backlog := (slotsFreed slots (slotFreed slot s)).backlog
      ageCounter := (slotsFreed slots (slotFreed slot s)).ageCounter, free := (slotsFreed slots (slotFreed slot s)).free }) first)

/-- What the walk reads alone tells which jobs it leaves. -/
theorem slotsFreed_outside (slots : List Nat) {s t : State} (same : t.walkView = s.walkView) : slotsFreed slots t = { t with
    jobs := (slotsFreed slots s).jobs, backlog := (slotsFreed slots s).backlog
    ageCounter := (slotsFreed slots s).ageCounter, free := (slotsFreed slots s).free } := by
  have views := slotsFreed_walkView slots same
  simp only [State.walkView, Prod.mk.injEq] at views
  obtain ⟨jobs, backlog, age, free, -, -, -⟩ := views
  rw [← jobs, ← backlog, ← age, ← free]
  exact slotsFreed_frame slots t

theorem slotsFreed_keeps_left (slots : List Nat) {slot : Nat} {s : State} (left : SlotLeft slot s) :
    SlotLeft slot (slotsFreed slots s) := by
  induction slots generalizing s with
  | nil => exact left
  | cons other slots ih =>
    refine ih ?_
    by_cases same : slot = other
    · exact same ▸ slotFreed_left other s
    · exact (slotFreed_grows same s).left left

theorem slotsFreed_left {slots : List Nat} {slot : Nat} (mem : slot ∈ slots) (s : State) : SlotLeft slot (slotsFreed slots s) := by
  induction slots generalizing s with
  | nil => exact absurd mem List.not_mem_nil
  | cons other slots ih =>
    rcases List.mem_cons.mp mem with rfl | mem
    · exact slotsFreed_keeps_left slots (slotFreed_left slot s)
    · exact ih mem _

theorem slotsFreed_stays {slots : List Nat} {slot : Nat} {s : State} {j : Job} (outside : slot ∉ slots)
    (held : s.job slot = some j) : (slotsFreed slots s).job slot = some j := by
  induction slots generalizing s with
  | nil => exact held
  | cons other slots ih =>
    rw [List.mem_cons, not_or] at outside
    exact ih outside.2 (slotFreed_stays outside.1 held)

/-! ## The ticket of a record returns (R61) -/

theorem offerPayable_returned (n : Nat) (s : State) :
    offerPayable n .returned s = broadcast ⟨.ticketPayable, some n, [4#8], s.clock⟩ s := by
  rw [offerPayable, be_one]
  rfl

/-- What the return of a record's ticket tells the ports. -/
def returnHeard (r : Settlement) (s : State) : State :=
  match s.books.ticket r with
  | some t => if returnsPayable s.clock t then broadcast ⟨.ticketPayable, some t.number, [4#8], s.clock⟩ s else s
  | none => s

/-- The state in which the ticket of a record has returned. -/
def recordReturned (r : Settlement) (s : State) : State := { s with
  tickets := (s.books.returned s.clock r).tickets, holds := (s.books.returned s.clock r).holds, ports := (returnHeard r s).ports }

theorem broadcast_ports_eq {s t : State} (same : s.ports = t.ports) (n : Notice) : (broadcast n s).ports = (broadcast n t).ports :=
  congrArg (fun v : PerPort PortCtx => (⟨hear n v.s0, hear n v.s1, hear n v.s2, hear n v.s3⟩ : PerPort PortCtx)) same

/-- Where the hold of a ticket that returns stands in the hold list: its own entry, while it was HELD and its hold has not expired. -/
def holdsReturned (t : Ticket) (c : TicketCommit) (clock : Nat) (hs : List HoldEntry) : List HoldEntry :=
  t.hold.elim hs (fun e => if c.before = .held ∧ clock < e.expiry then placeHold ⟨t.number, e.expiry⟩ hs else hs)

/-- A ticket returns to PAYABLE, or to the state that it had. -/
theorem returnTicket_found {s : State} {n : Nat} {t : Ticket} {c : TicketCommit} (found : s.ticket n = some t)
    (commit : t.commit = some c) : returnTicket n s =
      if returnsPayable s.clock t = true then offerPayable n .returned (s.putTicket { t with commit := none, state := .payable })
      else { s.putTicket { t with commit := none, state := c.before } with holds := holdsReturned t c s.clock s.holds } := by
  obtain rfl : t.number = n := (ticket_some found).2
  have payable : returnsPayable s.clock t = (c.before == .payable || (c.before == .held && t.hold.any (fun e => e.expiry ≤ s.clock))) := by
    rw [returnsPayable, commit]
  rw [returnTicket, found, payable, holdsReturned]
  dsimp only
  rw [commit]
  obtain ⟨kind, reason, port, before, receipt⟩ := c
  cases before with
  | held =>
    cases hold : t.hold with
    | none =>
      simp
      rfl
    | some h =>
      by_cases stands : s.clock < h.expiry
      · have unexpired : ¬ h.expiry ≤ s.clock := Nat.not_le.mpr stands
        rw [if_neg (by simp [unexpired])]
        dsimp only
        rw [if_pos stands, Option.elim_some, if_pos ⟨rfl, stands⟩]
        rfl
      · have expired : h.expiry ≤ s.clock := Nat.not_lt.mp stands
        rw [if_pos (by simp [expired])]
        dsimp only
        rw [if_neg stands]
  | payable => simp
  | _ => cases t.hold <;> simp <;> rfl

/-- A ticket that returns to PAYABLE does not come back to the hold list. -/
theorem holdsReturned_payable {t : Ticket} {c : TicketCommit} {clock : Nat} (commit : t.commit = some c)
    (payable : returnsPayable clock t = true) (hs : List HoldEntry) : holdsReturned t c clock hs = hs := by
  rw [returnsPayable, commit] at payable
  dsimp only at payable
  rw [holdsReturned]
  cases hold : t.hold with
  | none => rfl
  | some e =>
    rw [Option.elim_some]
    refine if_neg fun ⟨held, unexpired⟩ => ?_
    rw [held, hold, Option.any_some, decide_eq_false (Nat.not_le.mpr unexpired)] at payable
    exact absurd payable (by decide)

theorem recordReturned_found {r : Settlement} {s : State} {t : Ticket} {c : TicketCommit} (found : s.books.ticket r = some t)
    (commit : t.commit = some c) : recordReturned r s = { s with
      tickets := putIn t.number { t with commit := none, state := if returnsPayable s.clock t then .payable else c.before } s.tickets
      holds := holdsReturned t c s.clock s.holds
      ports := (if returnsPayable s.clock t then broadcast ⟨.ticketPayable, some t.number, [4#8], s.clock⟩ s else s).ports } := by
  have holds : holdsReturned t c s.clock s.holds = match t.hold with
      | some e => if c.before = .held ∧ s.clock < e.expiry then placeHold ⟨t.number, e.expiry⟩ s.holds else s.holds
      | none => s.holds := by
    rw [holdsReturned]
    cases t.hold <;> rfl
  rw [recordReturned, returnHeard, Books.returned, found]
  dsimp only
  rw [commit, holds]
  rfl

/-- The return of a record's ticket, in its tickets, holds and notices. -/
theorem returnTicket_eq (r : Settlement) (s : State) :
    (match r.ticket with | some n => returnTicket n s | none => s) = recordReturned r s := by
  cases named : r.ticket with
  | none =>
    have none' : s.books.ticket r = none := by rw [Books.ticket, named]; rfl
    rw [recordReturned, returnHeard, Books.returned, none']
    rfl
  | some n =>
    have ticket : s.books.ticket r = s.ticket n := by rw [Books.ticket, named]; rfl
    cases found : s.ticket n with
    | none =>
      rw [recordReturned, returnHeard, Books.returned, ticket, found]
      dsimp only
      rw [returnTicket, found]
      rfl
    | some t =>
      cases commit : t.commit with
      | none =>
        have stays : returnsPayable s.clock t = false := by rw [returnsPayable, commit]
        rw [recordReturned, returnHeard, Books.returned, ticket, found]
        dsimp only
        rw [commit, stays, returnTicket, found]
        dsimp only
        rw [commit]
        rfl
      | some c =>
        obtain rfl : t.number = n := (ticket_some found).2
        dsimp only
        rw [returnTicket_found found commit, recordReturned_found (ticket.trans found) commit, offerPayable_returned, putTicket_eq,
          putTicket_eq]
        cases payable : returnsPayable s.clock t with
        | false => rfl
        | true =>
          rw [holdsReturned_payable commit payable]
          rfl

/-! ## The commit leaves the queue (R109, R126) -/

theorem failRecord_eq (r : Settlement) (s : State) : failRecord r s = slotsFreed r.jobs (recordReturned r s) := by
  rw [← returnTicket_eq]
  rfl

/-- MEDIA with the torn numbers, 0 for an absent one (R109, R211). -/
def mediaData (r : Settlement) : List Byte := be 4 (r.torn.getD 0 0) ++ be 4 (r.torn.getD 1 0)

theorem failHead_some {r : Settlement} {rs : List Settlement} {f : State} (records : f.settlements = r :: rs) :
    failHead f = (reply r.port .media (mediaData r) (slotsFreed r.jobs (recordReturned r f))).dropHead := by
  rw [failHead, records, ← failRecord_eq]
  rfl

theorem failHead_none {f : State} (records : f.settlements = []) : failHead f = f.dropHead := by
  rw [failHead, records]

/-- The head commit that fails, as it leaves the part. -/
theorem failHead_frame {r : Settlement} {rs : List Settlement} {f : State} (records : f.settlements = r :: rs) :
    let freed := slotsFreed r.jobs f
    let b := f.books.returned f.clock r
    failHead f = { f with
      commitQueue := f.commitQueue.tail, settlements := f.settlements.tail, head := none, tickets := b.tickets, holds := b.holds
      jobs := freed.jobs, backlog := freed.backlog, ageCounter := freed.ageCounter, free := freed.free
      ports := (reply r.port .media (mediaData r) (returnHeard r f)).ports } := by
  intro freed b
  rw [failHead_some records, slotsFreed_outside r.jobs (s := f) (t := recordReturned r f) rfl]
  rfl

theorem failHead_fails {r : Settlement} {rs : List Settlement} {f : State} (records : f.settlements = r :: rs) :
    CommitFails r f (failHead f) := by
  have frame := failHead_frame records
  have job (slot : Nat) : (failHead f).job slot = (slotsFreed r.jobs f).job slot := by
    rw [State.job, frame, State.job]
  refine ⟨fun slot mem => ?_, fun slot j outside held => ?_, frame⟩
  · rw [SlotLeft, job]
    exact slotsFreed_left mem f
  · rw [job]
    exact slotsFreed_stays outside held

end Sys2Proof.Machine
end

section
/-! PROOFS. How the head commit ends: its next, its completion and its torn attempts (R107, R120, R123 to R126). -/

namespace Sys2Proof.Machine

/-! ## The next commit (R120, R126) -/

theorem failHead_queue (f : State) : (failHead f).commitQueue = f.commitQueue.tail := by
  cases records : f.settlements with
  | nil =>
    rw [failHead_none records]
    rfl
  | cons r rs => exact (congrArg State.commitQueue (failHead_frame records) :)

theorem setFault_waits (k : FaultKind) (d : FaultDetail) (s : State) : (setFault k d s).commitQueue = s.commitQueue ∧
    (setFault k d s).settlements = s.settlements ∧ (setFault k d s).head = s.head := by
  rw [setFault_frame]
  exact ⟨rfl, rfl, rfl⟩

/-- With the counter exhausted the next commit fails at once, and the one behind it is taken. -/
theorem nextHead_exhausted {q : CommitReq} {rest : List CommitReq} {s : State} (free : s.head = none)
    (queue : s.commitQueue = q :: rest) (full : s.exhausted = true) :
    nextHead s = nextHead (failHead (setFault .journalFull (.commitKind q.kind) s)) := by
  have left : (failHead (setFault .journalFull (.commitKind q.kind) s)).commitQueue.length + 1 = s.commitQueue.length := by
    rw [failHead_queue, (setFault_waits ..).1, queue]
    rfl
  rw [nextHead, takeHead, free, queue]
  dsimp only
  rw [if_pos full, nextHead, left, queue]

theorem nextHead_noRecord {q : CommitReq} {rest : List CommitReq} {s : State} (free : s.head = none)
    (queue : s.commitQueue = q :: rest) (full : s.exhausted = true) (none' : s.settlements = []) :
    nextHead s = nextHead { setFault .journalFull (.commitKind q.kind) s with commitQueue := rest } := by
  obtain ⟨queue', records, head⟩ := setFault_waits .journalFull (.commitKind q.kind) s
  rw [nextHead_exhausted free queue full, failHead_none (records.trans none')]
  generalize setFault .journalFull (.commitKind q.kind) s = u at *
  have dropped : u.dropHead = { u with commitQueue := rest, settlements := u.settlements, head := u.head } := by
    rw [State.dropHead, queue', queue, records, none', head, free]
    rfl
  rw [dropped]

/-! ## The completion (R107) -/

/-- A job that is QUEUED with its receipt number. -/
def jobQueued (receipt : Nat) (j : Job) : Job :=
  { j with state := .queued, receipt := if j.kind = .tally then none else some receipt }

theorem queueReserved_eq (receipt : Nat) (s : State) (slot : Nat) : queueReserved receipt s slot =
    { s with jobs := (s.job slot).elim s.jobs (fun j => s.jobs.set slot (some (jobQueued receipt j))) } := by
  rw [queueReserved]
  cases s.job slot <;> rfl

/-- The jobs of a record are QUEUED with its receipt number. -/
def jobsQueued (receipt : Nat) (slots : List Nat) (jobs : List (Option Job)) : List (Option Job) :=
  slots.foldl (fun js slot => (js.getD slot none).elim js (fun j => js.set slot (some (jobQueued receipt j)))) jobs

theorem queueReserved_all (receipt : Nat) (slots : List Nat) (s : State) :
    slots.foldl (queueReserved receipt) s = { s with jobs := jobsQueued receipt slots s.jobs } := by
  induction slots generalizing s with
  | nil => rfl
  | cons slot slots ih =>
    rw [List.foldl_cons, ih, queueReserved_eq]
    rfl

theorem getD_set_some {js : List (Option Job)} {slot i : Nat} {j : Job} (held : js.getD slot none = some j) (x : Option Job) :
    (js.set slot x).getD i none = if i = slot then x else js.getD i none := by
  have inside : slot < js.length := by
    by_contra outside
    rw [List.getD_eq_getElem?_getD, List.getElem?_eq_none (Nat.not_lt.mp outside)] at held
    exact Option.some_ne_none j held.symm
  rw [List.getD_eq_getElem?_getD, List.getElem?_set, List.getD_eq_getElem?_getD]
  by_cases same : i = slot
  · rw [if_pos same.symm, if_pos inside, if_pos same]
    rfl
  · rw [if_neg (Ne.symm same), if_neg same]

theorem jobsQueued_job (receipt : Nat) (slots : List Nat) (js : List (Option Job)) (i : Nat) :
    (jobsQueued receipt slots js).getD i none =
      if i ∈ slots then (js.getD i none).map (jobQueued receipt) else js.getD i none := by
  have again (x : Option Job) : (x.map (jobQueued receipt)).map (jobQueued receipt) = x.map (jobQueued receipt) := by
    cases x <;> rfl
  have step (js : List (Option Job)) (slot : Nat) :
      ((js.getD slot none).elim js (fun j => js.set slot (some (jobQueued receipt j)))).getD i none =
        if i = slot then (js.getD i none).map (jobQueued receipt) else js.getD i none := by
    cases held : js.getD slot none with
    | none =>
      rw [Option.elim_none]
      by_cases same : i = slot
      · rw [if_pos same, same, held]
        rfl
      · rw [if_neg same]
    | some j =>
      rw [Option.elim_some, getD_set_some held]
      by_cases same : i = slot
      · rw [if_pos same, if_pos same, same, held]
        rfl
      · rw [if_neg same, if_neg same]
  induction slots generalizing js with
  | nil => rw [if_neg List.not_mem_nil]; rfl
  | cons slot slots ih =>
    have rest : jobsQueued receipt (slot :: slots) js = jobsQueued receipt slots
      ((js.getD slot none).elim js (fun j => js.set slot (some (jobQueued receipt j)))) := rfl
    rw [rest, ih, step]
    by_cases same : i = slot
    · rw [if_pos same, if_pos (List.mem_cons.mpr (.inl same)), again, ite_self]
    · have members : i ∈ slot :: slots ↔ i ∈ slots := by rw [List.mem_cons, or_iff_right same]
      rw [if_neg same, if_congr members rfl rfl]

theorem books_ticket (r : Settlement) (s : State) : s.books.ticket r = r.ticket.bind s.ticket := rfl

/-- A record that is completed, in its tickets, its jobs, the tally and the notices. -/
theorem completeRecord_eq (r : Settlement) (receipt : Nat) (s : State) :
    let b := s.books.completed s.clock receipt r
    completeRecord r receipt s = { s with
      tickets := b.tickets, tally := b.tally, snapshot := b.snapshot, jobs := jobsQueued receipt r.jobs s.jobs
      ports := (broadcast ⟨.receiptCommitted, some receipt, be 1 (entryKindCode r.kind), s.clock⟩ s).ports } := by
  intro b
  have freed : (match r.ticket with | some n => s.freeTicket n | none => s) = { s with tickets := b.tickets } := by
    have tickets : b.tickets = match r.ticket with
      | some n => s.tickets.filter (fun t => t.number != n)
      | none => s.tickets := rfl
    rw [tickets]
    cases r.ticket <;> rfl
  have counted (x : State) (clock : x.clock = s.clock) (tally : x.tally = s.tally) (snapshot : x.snapshot = s.snapshot) :
      tallyCompletion r.kind (r.ticket.bind s.ticket) receipt x = { x with tally := b.tally, snapshot := b.snapshot } := by
    have tally' : b.tally = match r.kind, s.books.ticket r with
      | .payout, some t => x.tally.addPayout t.lines (t.total.getD 0)
      | .payout, none => x.tally
      | .void, _ => x.tally.addVoid
      | .shift, _ => { Tally.first x.clock with shift := min 4294967295 (x.tally.shift + 1) } := by
      rw [clock, tally]
      rfl
    have snapshot' : b.snapshot = if r.kind = .shift then some ⟨x.tally, receipt⟩ else x.snapshot := by
      rw [tally, snapshot]
      rfl
    rw [tally', snapshot', books_ticket]
    cases r.kind with
    | payout => cases r.ticket.bind s.ticket <;> rfl
    | void => rfl
    | shift => rfl
  have whole : completeRecord r receipt s =
      let x := tallyCompletion r.kind (r.ticket.bind s.ticket) receipt
        (r.jobs.foldl (queueReserved receipt) (match r.ticket with | some n => s.freeTicket n | none => s))
      broadcast ⟨.receiptCommitted, some receipt, be 1 (entryKindCode r.kind), x.clock⟩ x := rfl
  have reserved : r.jobs.foldl (queueReserved receipt) (match r.ticket with | some n => s.freeTicket n | none => s) =
      { s with tickets := b.tickets, jobs := jobsQueued receipt r.jobs s.jobs } := by
    rw [freed, queueReserved_all]
  rw [whole, reserved, counted { s with tickets := b.tickets, jobs := jobsQueued receipt r.jobs s.jobs } rfl rfl rfl]
  rfl

/-- The data of the result of a completed commit (R106). -/
theorem completionData_eq (receipt total shift : Nat) (t : Option Nat) :
    completionData .payout receipt (some total) shift = be 4 receipt ++ be 4 total ∧
    completionData .void receipt t shift = [flagByte [t.isSome]] ++ be 4 receipt ++ beOpt 4 t ∧
    completionData .shift receipt t shift = be 4 receipt ++ be 4 shift := ⟨rfl, rfl, rfl⟩

/-- The head commit that completes, as it leaves the part. -/
theorem completeHead_eq {r : Settlement} {rs : List Settlement} {s : State} (records : s.settlements = r :: rs) (receipt : Nat) :
    let b := s.books.completed s.clock receipt r
    completeHead receipt s = { s with
      commitQueue := s.commitQueue.tail, settlements := rs, head := none
      tickets := b.tickets, tally := b.tally, snapshot := b.snapshot, jobs := jobsQueued receipt r.jobs s.jobs
      ports := (reply r.port .ok (completionData r.kind receipt ((s.books.ticket r).bind (·.total)) s.tally.shift)
        (broadcast ⟨.receiptCommitted, some receipt, be 1 (entryKindCode r.kind), s.clock⟩ s)).ports } := by
  intro b
  have tail : s.settlements.tail = rs := by rw [records]; rfl
  have completes : completeHead receipt s = (reply r.port .ok
      (completionData r.kind receipt ((r.ticket.bind s.ticket).bind (·.total)) s.tally.shift) (completeRecord r receipt s)).dropHead := by
    rw [completeHead, records]
  rw [completes, completeRecord_eq, ← tail]
  rfl

end Sys2Proof.Machine
end

section
/-! PROOFS. The steps of a commit, and the obligation on them (R123, R125). -/

namespace Sys2Proof.Machine

/-! ## What the end of a commit leaves -/

/-- From `s` to `t` the settings, the clock, the calibration area, the tares and the journal array have stayed. -/
structure StepKeeps (s t : State) : Prop where
  settings : t.settings = s.settings
  clock : t.clock = s.clock
  cal : t.cal = s.cal
  tares : t.tares = s.tares
  journal : t.journal = s.journal

theorem StepKeeps.refl (s : State) : StepKeeps s s := ⟨rfl, rfl, rfl, rfl, rfl⟩

theorem StepKeeps.trans {s t u : State} (h : StepKeeps s t) (k : StepKeeps t u) : StepKeeps s u :=
  ⟨k.settings.trans h.settings, k.clock.trans h.clock, k.cal.trans h.cal, k.tares.trans h.tares, k.journal.trans h.journal⟩

theorem stepKeeps_settle (s : State) : StepKeeps s (settle s) := by
  rw [settle_frame]
  exact ⟨rfl, rfl, rfl, rfl, rfl⟩

theorem stepKeeps_evalSpace (s : State) : StepKeeps s (evalSpace s) := by
  rw [evalSpace_frame]
  exact ⟨rfl, rfl, rfl, rfl, rfl⟩

theorem stepKeeps_setFault (k : FaultKind) (d : FaultDetail) (s : State) : StepKeeps s (setFault k d s) := by
  rw [setFault_frame]
  exact ⟨rfl, rfl, rfl, rfl, rfl⟩

theorem stepKeeps_failHead (f : State) : StepKeeps f (failHead f) := by
  cases records : f.settlements with
  | nil =>
    rw [failHead_none records]
    exact ⟨rfl, rfl, rfl, rfl, rfl⟩
  | cons r rs =>
    rw [failHead_frame records]
    exact ⟨rfl, rfl, rfl, rfl, rfl⟩

theorem stepKeeps_completeHead (receipt : Nat) (s : State) : StepKeeps s (completeHead receipt s) := by
  cases records : s.settlements with
  | nil =>
    rw [completeHead, records]
    exact ⟨rfl, rfl, rfl, rfl, rfl⟩
  | cons r rs =>
    rw [completeHead_eq records]
    exact ⟨rfl, rfl, rfl, rfl, rfl⟩

theorem stepKeeps_numbered (q : CommitReq) (attempt : Nat) (w : State) : StepKeeps w (numbered q attempt w) := by
  obtain ⟨_, _, _, _, _, _, _, _, frame⟩ := numbered_begun q attempt w
  rw [frame]
  exact ⟨rfl, rfl, rfl, rfl, rfl⟩

theorem stepKeeps_takeHead (fuel : Nat) (s : State) : StepKeeps s (takeHead fuel s) := by
  induction fuel generalizing s with
  | zero => exact .refl s
  | succ fuel ih =>
    rw [takeHead]
    split
    · split
      · exact ((stepKeeps_setFault ..).trans (stepKeeps_failHead _)).trans (ih _)
      · rename_i fresh
        rw [assignNumber_eq _ 1 (Bool.not_eq_true _ ▸ fresh)]
        exact stepKeeps_numbered ..
    · exact .refl s

theorem stepKeeps_nextHead (s : State) : StepKeeps s (nextHead s) := stepKeeps_takeHead _ s

/-! ## A torn attempt (R125) -/

/-- The journal after TORN has been programmed on an entry: with its body check at 0 when the status byte does not take it. -/
def journalTorn (a : Nat) (torn check : Cells) (j : Memory) : Memory :=
  let marked := memProgram j a [0x6F#8] torn.stuck torn.lost
  if memRead marked a ||| 0x6F#8 = 0x6F#8 then marked
  else memProgram marked (a + 252) [0#8, 0#8, 0#8, 0#8] check.stuck check.lost

theorem programTorn_eq (i slot : Nat) (torn check : Cells) (s : State) : programTorn i slot torn check s =
    { s with journal := journalTorn (entryAddr i slot) torn check s.journal } := by
  have zeros : be 4 0 = [0#8, 0#8, 0#8, 0#8] := by decide
  let marked := memProgram s.journal (entryAddr i slot) [0x6F#8] torn.stuck torn.lost
  have takes : carries (memRead marked (entryAddr i slot)) .torn = true ↔ memRead marked (entryAddr i slot) ||| 0x6F#8 = 0x6F#8 :=
    beq_iff_eq
  have programmed : programTorn i slot torn check s =
      if carries (memRead marked (entryAddr i slot)) .torn = true then { s with journal := marked }
      else { s with journal := memProgram marked (entryAddr i slot + 252) (be 4 0) check.stuck check.lost } := rfl
  rw [programmed, if_congr takes rfl rfl, zeros, journalTorn]
  by_cases h : memRead marked (entryAddr i slot) ||| 0x6F#8 = 0x6F#8
  · rw [if_pos h, if_pos h]
  · rw [if_neg h, if_neg h]

/-- The map when the slot of the head commit's entry has ended with a mark. -/
def slotEnded (h : Head) (m : Mark) (s : State) : List Sector := s.sectors.set h.sector { s.sector h.sector with
  used := (s.sector h.sector).used + 1, marks := (s.sector h.sector).marks.set h.slot m
  state := if (s.sector h.sector).used + 1 = 16 then .full else (s.sector h.sector).state }

theorem endSlot_eq (h : Head) (m : Mark) (s : State) : endSlot h.sector h.slot m s =
    { s with sectors := slotEnded h m s, head := none } := rfl

/-- The state in which an attempt has torn, before the commit goes on. -/
def attemptTorn (h : Head) (torn check : Cells) (s : State) : State := { s with
  journal := journalTorn (entryAddr h.sector h.slot) torn check s.journal, sectors := slotEnded h .torn s, head := none
  settlements := match s.settlements with | [] => [] | r :: rs => { r with torn := r.torn ++ [h.number] } :: rs
  tally := s.tally.addTorn }

theorem tearAttempt_eq (q : CommitReq) (h : Head) (torn check : Cells) (s : State) : tearAttempt q h torn check s =
    let w := attemptTorn h torn check s
    if h.attempt = 1 then
      if s.exhausted then nextHead (failHead (setFault .journalFull (.commitKind q.kind) w)) else numbered q 2 w
    else nextHead (failHead (setFault .journalMedia (.receipt h.number) w)) := by
  have torn' : tallyTorn ((endSlot h.sector h.slot .torn (programTorn h.sector h.slot torn check s)).updRecord
      (fun c => { c with torn := c.torn ++ [h.number] })) = attemptTorn h torn check s := by
    rw [programTorn_eq, endSlot_eq]
    rfl
  rw [tearAttempt, torn']
  cases exhausted : s.exhausted with
  | true =>
    have here : (attemptTorn h torn check s).exhausted = true := exhausted
    rw [here, if_pos rfl]
    rfl
  | false =>
    have here : (attemptTorn h torn check s).exhausted = false := exhausted
    rw [here, assignNumber_eq q 2 here]

theorem stepKeeps_tearAttempt (q : CommitReq) (h : Head) (torn check : Cells) (s : State) :
    StepKeeps { s with journal := journalTorn (entryAddr h.sector h.slot) torn check s.journal } (tearAttempt q h torn check s) := by
  have first : StepKeeps { s with journal := journalTorn (entryAddr h.sector h.slot) torn check s.journal }
      (attemptTorn h torn check s) := ⟨rfl, rfl, rfl, rfl, rfl⟩
  rw [tearAttempt_eq]
  dsimp only
  refine first.trans ?_
  generalize attemptTorn h torn check s = w
  split
  · split
    · exact ((stepKeeps_setFault ..).trans (stepKeeps_failHead _)).trans (stepKeeps_nextHead _)
    · exact stepKeeps_numbered ..
  · exact ((stepKeeps_setFault ..).trans (stepKeeps_failHead _)).trans (stepKeeps_nextHead _)

/-! ## The end of a step (R123) -/

theorem endStep_ends {s : State} {h : Head} {q : CommitReq} {rest : List CommitReq} (current : s.engine.current = some .commitStep)
    (head : s.head = some h) (queue : s.commitQueue = q :: rest) (cells torn check : Cells) :
    endStep h.step cells torn check s =
      let after := memProgramVerify s.journal (entryAddr h.sector h.slot + (stepBytes h).1) (stepBytes h).2 cells
      let x := State.endOp { s with journal := after.1 }
      settle (evalSpace (if after.2 = true then passStep h x else tearAttempt q h torn check x)) := by
  rw [endStep, current, head, queue]
  dsimp only
  rw [if_pos rfl]

theorem stepKeeps_passStep (h : Head) (s : State) : StepKeeps s (passStep h s) := by
  rw [passStep]
  split
  · exact ⟨rfl, rfl, rfl, rfl, rfl⟩
  · exact ⟨rfl, rfl, rfl, rfl, rfl⟩
  · refine StepKeeps.trans (t := endSlot h.sector h.slot .complete s) ⟨rfl, rfl, rfl, rfl, rfl⟩ ?_
    exact (stepKeeps_completeHead ..).trans (stepKeeps_nextHead _)

/-- The bytes of a step lie in its entry. -/
theorem stepBytes_inside {h : Head} (size : h.entry.length = 256) {k : Nat} (there : (stepBytes h).2[k]? ≠ none) :
    (stepBytes h).1 + k < 256 := by
  have inside : k < (stepBytes h).2.length := by
    by_contra outside
    exact there (List.getElem?_eq_none (Nat.not_lt.mp outside))
  rw [stepBytes] at inside ⊢
  split at inside
  · simp [size] at inside ⊢
    omega
  · simp [size] at inside ⊢
    omega
  · simp at inside ⊢
    omega

end Sys2Proof.Machine
end

section
/-! PROOFS. The obligation on the steps of a commit (R105, R118, R119, R123, R170, R215). -/

namespace Sys2Proof.Machine

/-- A commit's three steps and the events that end them. -/
theorem commitStep_exec {s : State} (powered : s.powered = true) (cells torn check : Cells) :
    ∀ x ∈ [(HeadStep.header, Instr.commitHeader cells torn check), (.body, .commitBody cells torn check),
      (.complete, .commitComplete cells torn check)], exec x.2 s = .next (endStep x.1 cells torn check s) := by
  have ends (step : HeadStep) : event s (endStep step cells torn check) = .next (endStep step cells torn check s) :=
    event_powered powered _
  intro x mem
  simp only [List.mem_cons, List.not_mem_nil, or_false] at mem
  rcases mem with rfl | rfl | rfl
  · exact (exec_commitHeader ..).trans (ends .header)
  · exact (exec_commitBody ..).trans (ends .body)
  · exact (exec_commitComplete ..).trans (ends .complete)

theorem length_stepBytes {h : Head} (size : h.entry.length = 256) : (stepBytes h).1 + (stepBytes h).2.length ≤ 256 := by
  rw [stepBytes]
  split <;> simp [size]

/-- TORN and the body check are programmed within the entry. -/
theorem journalTorn_outside {a y : Nat} (outside : y < a ∨ a + 256 ≤ y) (torn check : Cells) (j : Memory) :
    memRead (journalTorn a torn check j) y = memRead j y := by
  have marked : memRead (memProgram j a [0x6F#8] torn.stuck torn.lost) y = memRead j y :=
    memRead_memProgram_outside _ _ (by simp only [List.length_singleton]; omega)
  rw [journalTorn]
  split
  · exact marked
  · rw [memRead_memProgram_outside _ _ (by simp only [List.length_cons, List.length_nil]; omega), marked]

theorem step_outside {h : Head} (size : h.entry.length = 256) {y : Nat}
    (outside : y < entryAddr h.sector h.slot ∨ entryAddr h.sector h.slot + 256 ≤ y) (j : Memory) (cells : Cells) :
    memRead (memProgramVerify j (entryAddr h.sector h.slot + (stepBytes h).1) (stepBytes h).2 cells).1 y = memRead j y := by
  have fits := length_stepBytes size
  exact memRead_memProgram_outside _ _ (by omega)

/-- What the end of a step leaves, and its journal by whether the step read back. -/
theorem endStep_keeps {s : State} {h : Head} {q : CommitReq} {rest : List CommitReq}
    (current : s.engine.current = some .commitStep) (head : s.head = some h) (queue : s.commitQueue = q :: rest)
    (cells torn check : Cells) :
    let t := endStep h.step cells torn check s
    let after := memProgramVerify s.journal (entryAddr h.sector h.slot + (stepBytes h).1) (stepBytes h).2 cells
    t.settings = s.settings ∧ t.clock = s.clock ∧ t.cal = s.cal ∧ t.tares = s.tares ∧
      t.journal = if after.2 = true then after.1 else journalTorn (entryAddr h.sector h.slot) torn check after.1 := by
  rw [endStep_ends current head queue]
  generalize memProgramVerify s.journal (entryAddr h.sector h.slot + (stepBytes h).1) (stepBytes h).2 cells = after
  dsimp only
  by_cases good : after.2 = true
  · rw [if_pos good, if_pos good]
    obtain ⟨settings, clock, cal, tares, journal⟩ := ((stepKeeps_passStep h (State.endOp { s with journal := after.1 })).trans
      (stepKeeps_evalSpace _)).trans (stepKeeps_settle _)
    exact ⟨settings, clock, cal, tares, journal⟩
  · rw [if_neg good, if_neg good]
    obtain ⟨settings, clock, cal, tares, journal⟩ :=
      ((stepKeeps_tearAttempt q h torn check (State.endOp { s with journal := after.1 })).trans
        (stepKeeps_evalSpace _)).trans (stepKeeps_settle _)
    exact ⟨settings, clock, cal, tares, journal⟩

/-- A step that reads back hands the next one to the engine. -/
def nextStep (h : Head) (step : HeadStep) (j : Memory) (s : State) : State := { s with
  journal := j, head := some { h with step := step }
  engine := { s.engine with current := none, writes := s.engine.writes ++ [.commitStep] } }

theorem passStep_header {h : Head} (step : h.step = .header) (j : Memory) (s : State) :
    passStep h (State.endOp { s with journal := j }) = { nextStep h .body j s with
      sectors := s.sectors.set h.sector { s.sector h.sector with marks := (s.sector h.sector).marks.set h.slot .started } } := by
  rw [passStep, step]
  rfl

theorem passStep_body {h : Head} (step : h.step = .body) (j : Memory) (s : State) :
    passStep h (State.endOp { s with journal := j }) = nextStep h .complete j s := by
  rw [passStep, step]
  rfl

/-- The layout of a ticket's entry (R118). -/
theorem ticketEntry_layout {w : State} {q : CommitReq} {t : Ticket} (kind : q.kind ≠ .shift)
    (found : q.ticket.bind w.ticket = some t) (n : Nat) :
    let e := buildEntry w q n
    let bytes (off len : Nat) := entryField e off len
    let zeros (off len : Nat) : Prop := bytes off len = List.replicate len 0#8
    let text (off width : Nat) (x : Option (List Byte)) : Prop :=
      (x = none → zeros off (width + 1)) ∧
      ∀ v, x = some v → v.length ≤ width → bytes off (width + 1) = be 1 v.length ++ v ++ List.replicate (width - v.length) 0#8
    entryFlag e 0 = !w.clockSet ∧ entryFlag e 1 = t.closedTime.isSome ∧
      (entryFlag e 2 = true ↔ ∃ x, t.tareSource = some (.stored x)) ∧ entryFlag e 3 = t.hold.isSome ∧
      (entryFlag e 4 = true ↔ ∃ x, t.hold = some ⟨x, true⟩) ∧ bytes 17 1 = be 1 (portCode q.port) ∧
      bytes 18 2 = be 2 t.number ∧ bytes 20 4 = be 4 t.openedTime ∧ bytes 24 4 = be 4 (t.closedTime.getD 0) ∧
      text 28 10 t.vehicle ∧ text 39 16 t.seller ∧ (∀ x : Nat, t.tareSource = some (.stored x) → bytes 56 4 = be 4 x) ∧
      ((∀ x, t.tareSource ≠ some (.stored x)) → zeros 56 4) ∧
      bytes 60 3 = [Scale.a, .b, .p].map (fun sc => BitVec.ofNat 8 (w.chan sc).calCounter) ∧
      bytes 63 1 = be 1 ((t.commit.bind (·.reason)).getD 0) ∧ bytes 64 4 = be 4 ((t.hold.map (·.expiry)).getD 0) ∧
      bytes 68 1 = be 1 t.lines.length ∧ zeros 69 3 ∧
      (∀ i l, i < 8 → t.lines[i]? = some l →
        bytes (72 + 16 * i) 16 = be 1 l.grade ++ be 4 l.net ++ be 4 l.dock ++ beOpt 3 l.price ++ beOpt 4 l.amount) ∧
      (∀ i, i < 8 → t.lines.length ≤ i → zeros (72 + 16 * i) 16) ∧ bytes 200 4 = be 4 (t.total.getD 0) ∧ zeros 204 48 := by
  intro e bytes zeros text
  have field {k : Nat} {c : List Byte} := ticketEntry_field kind found n (k := k) (c := c)
  have flag := ticketEntry_flag kind found n
  obtain ⟨vehicle, seller⟩ := ticketEntry_text kind found n
  have tare : bytes 56 4 = be 4 (tareField t) := field (k := 7) rfl (by decide)
  have reads {off width : Nat} {x : Option (List Byte)} (h : bytes off (width + 1) = textField width x) : text off width x :=
    ⟨fun none' => h.trans (by rw [none', textField_none]), fun v some' fits => h.trans (by rw [some', textField_some fits])⟩
  refine ⟨flag 0, flag 1, ?_, flag 3, ?_, field (k := 1) rfl (by decide), field (k := 2) rfl (by decide),
    field (k := 3) rfl (by decide), field (k := 4) rfl (by decide), reads vehicle, reads seller, fun x stored => ?_, fun none' => ?_,
    ?_, field (k := 9) rfl (by decide), field (k := 10) rfl (by decide), field (k := 11) rfl (by decide),
    field (k := 12) rfl (by decide), fun i l inside there => ?_, fun i inside past => ?_, field (k := 14) rfl (by decide),
    field (k := 15) rfl (by decide)⟩
  · rw [flag 2]
    exact storedFlag_iff
  · rw [flag 4]
    exact endedFlag_iff
  · rw [tare, tareField_stored stored]
  · exact tare.trans (by rw [tareField_none none']; decide)
  · rw [← calCounters_eq]
    exact field (k := 8) rfl (by decide)
  · exact (ticketEntry_line kind found n inside).trans (by rw [there]; rfl)
  · exact (ticketEntry_line kind found n inside).trans (by rw [List.getElem?_eq_none past]; rfl)

/-- The layout of a shift's entry (R170). -/
theorem shiftEntry_layout {q : CommitReq} (kind : q.kind = .shift) (w : State) (n : Nat) :
    let e := buildEntry w q n
    let bytes (off len : Nat) := entryField e off len
    let zeros (off len : Nat) : Prop := bytes off len = List.replicate len 0#8
    bytes 16 1 = [flag (!w.clockSet)] ∧ bytes 17 1 = be 1 (portCode q.port) ∧ zeros 18 42 ∧
      bytes 60 3 = [Scale.a, .b, .p].map (fun sc => BitVec.ofNat 8 (w.chan sc).calCounter) ∧ zeros 63 141 ∧
      bytes 204 4 = be 4 w.tally.shift ∧ bytes 208 4 = be 4 w.tally.openTime ∧ bytes 212 4 = be 4 w.tally.receipts ∧
      bytes 216 4 = be 4 w.tally.voids ∧ bytes 220 4 = be 4 w.tally.torn ∧ bytes 224 6 = be 6 w.tally.total ∧
      bytes 230 1 = [flag w.tally.incomplete] ∧ zeros 231 21 := by
  intro e bytes zeros
  have field {k : Nat} {c : List Byte} := shiftEntry_field kind w n (k := k) (c := c)
  have flags : flagByte [!w.clockSet] = flag (!w.clockSet) := by cases w.clockSet <;> rfl
  refine ⟨?_, field (k := 1) rfl (by decide), field (k := 2) rfl (by decide), ?_, field (k := 4) rfl (by decide),
    field (k := 5) rfl (by decide), field (k := 6) rfl (by decide), field (k := 7) rfl (by decide), field (k := 8) rfl (by decide),
    field (k := 9) rfl (by decide), field (k := 10) rfl (by decide), field (k := 11) rfl (by decide), field (k := 12) rfl (by decide)⟩
  · rw [← flags]
    exact field (k := 0) rfl (by decide)
  · rw [← calCounters_eq]
    exact field (k := 3) rfl (by decide)

/-- Settles O44: how an entry is read and built, and where each step programs. -/
theorem commitStepsProgram : Obligations.CommitStepsProgram := by
  refine ⟨readMark_bits, fun e size => ⟨?_, carriesTorn_iff size, headerHolds_iff size, bodyHolds_iff size,
    fun off n fits => entryField_eq size fits, fun off n fits => ⟨entryNat_zero e off, entryNat_succ size fits⟩,
    entryFlag_eq size, fun off width fits => entryText_eq size (by omega) width, fun one => entryKind_of size one,
    fun two => entryKind_of size two, fun three => entryKind_of size three, entryLines_eq size⟩,
    fun h i slot => ⟨rfl, fun step => ?_, fun step => ?_, fun step => ?_⟩, fun w q n => ?_,
    fun h r rest cells torn check s powered current head queue x mem step => ⟨fun k size there => stepBytes_inside size there, ?_⟩⟩
  · rw [markOf, headD_eq_getD size]
  · rw [stepBytes, step]
    rfl
  · rw [stepBytes, step]
  · rw [stepBytes, step]
    rfl
  · obtain ⟨header, body⟩ := buildEntry_checks w q n
    have headers := buildEntry_header w q n
    have part {i m : Nat} (fits : i + m ≤ 9) := entryField_sub headers fits
    exact ⟨length_buildEntry w q n, header, body, buildEntry_field w q n (k := 0) rfl, buildEntry_field w q n (k := 3) rfl,
      part (i := 0) (m := 4) (by decide), part (i := 4) (m := 1) (by decide), part (i := 5) (m := 4) (by decide),
      fun t kind found => ticketEntry_layout kind found n, fun kind => shiftEntry_layout kind w n⟩
  · have ends := endStep_ends current head queue cells torn check
    obtain ⟨settings, clock, cal, tares, journal⟩ := endStep_keeps current head queue cells torn check
    refine ⟨endStep h.step cells torn check s, step ▸ commitStep_exec powered cells torn check x mem, settings, clock, cal, tares,
      fun size y outside => ?_, fun good => journal.trans (if_pos good), fun good first => ?_, fun good second => ?_⟩
    · have programmed := step_outside size outside s.journal cells
      rw [journal]
      split
      · exact programmed
      · exact (journalTorn_outside outside ..).trans programmed
    · rw [ends]
      dsimp only
      rw [if_pos good, passStep_header (step.trans first)]
      rfl
    · rw [ends]
      dsimp only
      rw [if_pos good, passStep_body (step.trans second)]
      rfl

end Sys2Proof.Machine
end

section
/-! PROOFS. The obligation on the ends of commits (R106 to R109, R120, R123 to R126, R166 to R168). -/

namespace Sys2Proof.Machine

/-- A paid line adds to the figures of its grade, each stopping at its maximum (R166, R167). -/
theorem addPayout_line (t : Tally) (ls : List Line) (l : Line) (total : Nat) :
    let most32 := 4294967295
    let most48 := 281474976710655
    let u := t.addPayout ls total
    let f := u.grades.getD (l.grade - 1) ⟨0, 0, 0, 0⟩
    let net := f.net + l.net
    let payable := f.payable + (l.net - l.dock)
    let amount := f.amount + l.amount.getD 0
    let lines := f.lines + 1
    t.addPayout (ls ++ [l]) total = { u with
      grades := u.grades.set (l.grade - 1) ⟨min most48 net, min most48 payable, min most48 amount, min most32 lines⟩
      incomplete := u.incomplete || decide (most48 < net ∨ most48 < payable ∨ most48 < amount ∨ most32 < lines) } := by
  intro most32 most48 u f net payable amount lines
  have last : t.addPayout (ls ++ [l]) total = u.addLine l := List.foldl_append ..
  have over' : decide (most48 < net ∨ most48 < payable ∨ most48 < amount ∨ most32 < lines) =
      (decide (max48 < net) || (decide (max48 < payable) || (decide (max48 < amount) || decide (max32 < lines)))) := by
    rw [Bool.decide_or, Bool.decide_or, Bool.decide_or]
    rfl
  rw [last, over', ← Bool.or_assoc, ← Bool.or_assoc, ← Bool.or_assoc]
  rfl

/-- The bytes of each step, and where they are programmed. -/
theorem stepBytes_of (h : Head) : (h.step = .header → stepBytes h = (0, 0x7F#8 :: (h.entry.drop 1).take 11)) ∧
    (h.step = .body → stepBytes h = (16, h.entry.drop 16)) ∧ (h.step = .complete → stepBytes h = (0, [0x3F#8])) := by
  refine ⟨fun step => ?_, fun step => ?_, fun step => ?_⟩ <;> rw [stepBytes, step] <;> rfl

/-- The state in which an attempt of a commit with a record has torn. -/
theorem attemptTorn_eq {h : Head} {r : Settlement} {rs : List Settlement} {s : State} (records : s.settlements = r :: rs)
    (torn check : Cells) (j : Memory) : attemptTorn h torn check (State.endOp { s with journal := j }) = { s with
      engine := { s.engine with current := none }
      journal := journalTorn (entryAddr h.sector h.slot) torn check j
      sectors := slotEnded h .torn s, head := none, settlements := { r with torn := r.torn ++ [h.number] } :: rs
      tally := s.tally.addTorn } := by
  have record : (match s.settlements with | [] => [] | r :: rs => { r with torn := r.torn ++ [h.number] } :: rs) =
      { r with torn := r.torn ++ [h.number] } :: rs := by rw [records]
  rw [← record]
  rfl

/-- The state in which the head commit is completed. -/
def commitCompleted (h : Head) (r : Settlement) (rs : List Settlement) (rest : List CommitReq) (j : Memory) (s : State) : State :=
  let b := s.books.completed s.clock h.number r
  { s with
    engine := { s.engine with current := none }
    journal := j, sectors := slotEnded h .complete s, head := none, commitQueue := rest, settlements := rs
    tickets := b.tickets, tally := b.tally, snapshot := b.snapshot, jobs := jobsQueued h.number r.jobs s.jobs
    ports := (reply r.port .ok
      (completionData r.kind h.number ((s.books.ticket r).bind (·.total)) s.tally.shift)
      (broadcast ⟨.receiptCommitted, some h.number, be 1 (entryKindCode r.kind), s.clock⟩ s)).ports }

theorem passStep_complete {h : Head} {q : CommitReq} {rest : List CommitReq} {r : Settlement} {rs : List Settlement} {s : State}
    (step : h.step = .complete) (queue : s.commitQueue = q :: rest) (records : s.settlements = r :: rs) (j : Memory) :
    passStep h (State.endOp { s with journal := j }) = nextHead (commitCompleted h r rs rest j s) := by
  have passes : passStep h (State.endOp { s with journal := j }) =
      nextHead (completeHead h.number { State.endOp { s with journal := j } with
        sectors := slotEnded h .complete s, head := none }) := by
    rw [passStep, step]
    rfl
  have tail : s.commitQueue.tail = rest := by rw [queue]; rfl
  have completes := completeHead_eq (s := { State.endOp { s with journal := j } with
    sectors := slotEnded h .complete s, head := none }) records h.number
  rw [passes, completes, commitCompleted, ← tail]
  rfl

/-- A commit's three steps, the events that end them, and what each programs. -/
theorem commitStep_programs {h : Head} {s : State} (powered : s.powered = true) (cells torn check : Cells) :
    ∀ x ∈ [(HeadStep.header, Instr.commitHeader cells torn check, 0, 0x7F#8 :: (h.entry.drop 1).take 11),
        (.body, .commitBody cells torn check, 16, h.entry.drop 16), (.complete, .commitComplete cells torn check, 0, [0x3F#8])],
      h.step = x.1 → exec x.2.1 s = .next (endStep h.step cells torn check s) ∧ stepBytes h = x.2.2 := by
  obtain ⟨header, body, complete⟩ := stepBytes_of h
  have ends := commitStep_exec powered cells torn check
  intro x mem step
  simp only [List.mem_cons, List.not_mem_nil, or_false] at mem
  rcases mem with rfl | rfl | rfl
  · exact ⟨step ▸ ends (.header, .commitHeader cells torn check) (by simp), header step⟩
  · exact ⟨step ▸ ends (.body, .commitBody cells torn check) (by simp), body step⟩
  · exact ⟨step ▸ ends (.complete, .commitComplete cells torn check) (by simp), complete step⟩

/-- A step that reads back wrong ends the attempt (R125). -/
theorem endStep_torn {s : State} {h : Head} {q : CommitReq} {rest : List CommitReq} {r : Settlement} {rs : List Settlement}
    (current : s.engine.current = some .commitStep) (head : s.head = some h) (queue : s.commitQueue = q :: rest)
    (records : s.settlements = r :: rs) (cells torn check : Cells)
    (bad : (memProgramVerify s.journal (entryAddr h.sector h.slot + (stepBytes h).1) (stepBytes h).2 cells).2 = false) :
    let j := (memProgramVerify s.journal (entryAddr h.sector h.slot + (stepBytes h).1) (stepBytes h).2 cells).1
    let lost := { r with torn := r.torn ++ [h.number] }
    let w := { s with
      engine := { s.engine with current := none }
      journal := journalTorn (entryAddr h.sector h.slot) torn check j
      sectors := slotEnded h .torn s, head := none, settlements := lost :: rs, tally := s.tally.addTorn }
    (h.attempt = 1 → s.exhausted = false → endStep h.step cells torn check s = settle (evalSpace (numbered q 2 w))) ∧
    (h.attempt ≠ 1 ∨ s.exhausted = true →
      let f := if h.attempt = 1 then setFault .journalFull (.commitKind q.kind) w else setFault .journalMedia (.receipt h.number) w
      ∃ v, endStep h.step cells torn check s = settle (evalSpace (nextHead v)) ∧ CommitFails lost f v) := by
  have ends := endStep_ends current head queue cells torn check
  dsimp only at ends
  rw [if_neg (by rw [bad]; exact Bool.false_ne_true), tearAttempt_eq, attemptTorn_eq records] at ends
  intro j lost w
  have tears : endStep h.step cells torn check s = settle (evalSpace (if h.attempt = 1 then
      if s.exhausted then nextHead (failHead (setFault .journalFull (.commitKind q.kind) w)) else numbered q 2 w
    else nextHead (failHead (setFault .journalMedia (.receipt h.number) w)))) := ends
  have fails (k : FaultKind) (d : FaultDetail) : CommitFails lost (setFault k d w) (failHead (setFault k d w)) :=
    failHead_fails (rs := rs) (setFault_waits k d w).2.1
  refine ⟨fun first fresh => ?_, fun last => ?_⟩
  · rw [tears, if_pos first, fresh, if_neg Bool.false_ne_true]
  · intro f
    by_cases first : h.attempt = 1
    · have full : s.exhausted = true := last.resolve_left (not_not_intro first)
      have chosen : f = setFault .journalFull (.commitKind q.kind) w := if_pos first
      rw [chosen]
      exact ⟨_, by rw [tears, if_pos first, full, if_pos rfl], fails ..⟩
    · have chosen : f = setFault .journalMedia (.receipt h.number) w := if_neg first
      rw [chosen]
      exact ⟨_, by rw [tears, if_neg first], fails ..⟩

/-- Settles O45: the tally's figures, the next commit, and each end of an attempt. -/
theorem commitAttemptsEnd : Obligations.CommitAttemptsEnd := by
  refine ⟨fun t ls l total clock => ⟨rfl, rfl, rfl, addPayout_line t ls l total, rfl⟩, completionData_eq, fun s => nextHead_stands,
    fun q rest s free queue => ⟨nextHead_begins free queue, nextHead_noRecord free queue, fun r rs full records =>
      ⟨_, nextHead_exhausted free queue full, failHead_fails ((setFault_waits ..).2.1.trans records)⟩⟩,
    fun h q rest r rs cells torn check s powered current head queue records => ⟨fun step good => ?_, fun x mem => ?_⟩⟩
  · obtain ⟨-, -, complete⟩ := stepBytes_of h
    have ends := endStep_ends current head queue cells torn check
    have exec_eq := commitStep_exec powered cells torn check (.complete, .commitComplete cells torn check) (by simp)
    rw [complete step] at ends
    dsimp only at ends
    rw [if_pos (by exact good), passStep_complete step queue records, step] at ends
    refine ⟨commitCompleted h r rs rest _ s, exec_eq.trans (congrArg Host.Outcome.next ends), fun slot => ?_, rfl⟩
    exact jobsQueued_job h.number r.jobs s.jobs slot
  · intro after step bad
    obtain ⟨exec_eq, bytes⟩ := commitStep_programs powered cells torn check x mem step
    have torn' := endStep_torn current head queue records cells torn check
    rw [bytes] at torn'
    obtain ⟨again, fails⟩ := torn' bad
    rw [exec_eq]
    refine ⟨fun first fresh => congrArg Host.Outcome.next (again first fresh), fun last => ?_⟩
    obtain ⟨v, ends, failed⟩ := fails last
    exact ⟨v, congrArg Host.Outcome.next ends, failed⟩

end Sys2Proof.Machine
end

section
/-! PROOFS. The stages of a start, and what each leaves (R141, R142, R164, R165, R173, R174, R208). -/

namespace Sys2Proof.Machine

/-! ## The scan -/

/-- From `s` to `t` the scan has gone on: the map, the counter, the fault status, the notices, the tally, the low flag and the erase
may have changed, and no read or write waits that did not. -/
structure ScanStep (s t : State) : Prop where
  frame : t = { s with
    faults := t.faults, firstFault := t.firstFault, ports := t.ports, tally := t.tally, sectors := t.sectors, counter := t.counter
    exhausted := t.exhausted, lowFlag := t.lowFlag, engine := t.engine }
  reads : t.engine.reads = s.engine.reads
  writes : t.engine.writes = s.engine.writes

theorem ScanStep.refl (s : State) : ScanStep s s := ⟨rfl, rfl, rfl⟩

theorem ScanStep.trans {s t u : State} (h : ScanStep s t) (k : ScanStep t u) : ScanStep s u :=
  ⟨k.frame.trans (congrArg (fun x : State => { x with
    faults := u.faults, firstFault := u.firstFault, ports := u.ports, tally := u.tally, sectors := u.sectors, counter := u.counter
    exhausted := u.exhausted, lowFlag := u.lowFlag, engine := u.engine }) h.frame), k.reads.trans h.reads, k.writes.trans h.writes⟩

theorem setFault_faulted (k : FaultKind) (d : FaultDetail) (s : State) : setFault k d s = { s with
    faults := (setFault k d s).faults, firstFault := (setFault k d s).firstFault, ports := (setFault k d s).ports } := by
  have faults : (setFault k d s).faults = s.faults.set (faultIndex k) (some ⟨d, s.clock⟩) :=
    (congrArg State.faults (setFault_frame k d s) :)
  rw [faults]
  exact setFault_frame k d s

theorem scanStep_setFault (k : FaultKind) (d : FaultDetail) (s : State) : ScanStep s (setFault k d s) := by
  have frame := setFault_faulted k d s
  generalize setFault k d s = t at *
  exact ⟨frame.trans (by rw [frame]), by rw [frame], by rw [frame]⟩

/-- The tally after torn entries have been counted (R173). -/
def tornCounted (warm : Bool) (torn : List Nat) (t : Tally) : Tally :=
  if warm then torn.foldl (fun x _ => x.addTorn) t else t

theorem tallyTorn_all (torn : List Nat) (s : State) :
    torn.foldl (fun s _ => tallyTorn s) s = { s with tally := torn.foldl (fun x _ => x.addTorn) s.tally } := by
  induction torn generalizing s with
  | nil => rfl
  | cons n torn ih =>
    rw [List.foldl_cons, ih]
    rfl

/-- What a start reports of the entries that it has marked TORN. -/
theorem reportTorn_eq (warm : Bool) (torn : List Nat) (s : State) : reportTorn warm torn s =
    { (minOf torn).elim s (fun n => setFault .tornFound (.receipt n) s) with tally := tornCounted warm torn s.tally } := by
  cases torn with
  | nil =>
    rw [tornCounted]
    cases warm <;> rfl
  | cons n ns =>
    have least : minOf (n :: ns) = some (ns.foldl min n) := rfl
    have kept (k : FaultKind) (d : FaultDetail) : (setFault k d s).tally = s.tally := (congrArg State.tally (setFault_frame k d s) :)
    rw [reportTorn, least, Option.elim_some, tornCounted, ← kept .tornFound (.receipt (ns.foldl min n))]
    dsimp only
    cases warm with
    | false => rfl
    | true => rw [if_pos rfl, tallyTorn_all, if_pos rfl]

theorem scanStep_reportTorn (warm : Bool) (torn : List Nat) (s : State) : ScanStep s (reportTorn warm torn s) := by
  rw [reportTorn_eq]
  cases minOf torn with
  | none => exact ⟨rfl, rfl, rfl⟩
  | some n => exact (scanStep_setFault .tornFound (.receipt n) s).trans ⟨rfl, rfl, rfl⟩

theorem scanStep_settleNewest (s : State) : ScanStep s (settleNewest s) := by
  rw [settleNewest]
  split <;> exact ⟨rfl, rfl, rfl⟩

theorem scanStep_foldl {α : Type} {f : State → α → State} (hf : ∀ s a, ScanStep s (f s a)) (l : List α) (s : State) :
    ScanStep s (l.foldl f s) := by
  induction l generalizing s with
  | nil => exact .refl s
  | cons a l ih => exact (hf s a).trans (ih _)

theorem scanStep_backfillAudited (s : State) : ScanStep s (backfillAudited s) := by
  rw [backfillAudited]
  split
  · exact .refl s
  · refine scanStep_foldl (fun s e => ?_) _ s
    split <;> exact ⟨rfl, rfl, rfl⟩

theorem scanStep_startCounter (s : State) : ScanStep s (startCounter s) := by
  rw [startCounter]
  split
  · split <;> exact ⟨rfl, rfl, rfl⟩
  · exact ⟨rfl, rfl, rfl⟩

theorem scanStep_evalSpace (s : State) : ScanStep s (evalSpace s) := by
  have frame := evalSpace_frame s
  generalize evalSpace s = t at *
  exact ⟨frame.trans (by rw [frame]), by rw [frame], by rw [frame]⟩

theorem scanStep_restartErase (s : State) : ScanStep s (restartErase s) := by
  rw [restartErase]
  split <;> exact ⟨rfl, rfl, rfl⟩

/-- The array that the scan leaves, of the array with its changes. -/
def scannedJournal (s : State) : Memory :=
  sectorIndexes.foldl (fun m i => programTears i (tornSlots ((scanCases s).getD i .blank) (s.sectorBytes i)) m) s.journal

/-- The map that the scan reads of the array. -/
def scannedSectors (s : State) : List Sector :=
  sectorIndexes.map (fun i => scanRecord (scanCases s) s.settings.firstReceipt (s.sectorBytes i) i)

/-- The numbers that the scan reports as torn. -/
def scannedTorn (s : State) : List Nat :=
  sectorIndexes.flatMap (tornNumbers { s with sectors := scannedSectors s } (scanCases s))

/-- The state in which the array has been read. -/
def arrayRead (s : State) : State := { s with scanned := true, sectors := scannedSectors s, journal := scannedJournal s }

theorem scanJournal_eq (warm : Bool) (decay : List (Nat × Byte)) (s : State) :
    let y := { s with journal := memDecay s.journal 0 131072 decay }
    scanJournal warm decay s =
      restartErase (evalSpace (startCounter (backfillAudited (settleNewest (reportTorn warm (scannedTorn y) (arrayRead y)))))) := rfl

theorem scanStep_scan (warm : Bool) (torn : List Nat) (s : State) : ScanStep s
    (restartErase (evalSpace (startCounter (backfillAudited (settleNewest (reportTorn warm torn s)))))) :=
  (scanStep_reportTorn warm torn s).trans <| (scanStep_settleNewest _).trans <| (scanStep_backfillAudited _).trans <|
    (scanStep_startCounter _).trans <| (scanStep_evalSpace _).trans <| scanStep_restartErase _

/-! ## The scales -/

/-- A scale's channel as a start sets it up. -/
def startedChannel (s : State) (sc : Scale) : Channel :=
  startChannel (s.scaleSettings sc).enabled (s.cal.get sc) (s.chan sc).zeroOffset

theorem startScales_frame (s : State) : startScales s = { s with
    channels := ⟨startedChannel s .a, startedChannel s .b, startedChannel s .p⟩, ports := (startScales s).ports } := by
  have leaves (was : PerScale Channel) (x : State) (sc : Scale) : ∃ ports, offerLeft was x sc = { x with ports := ports } := by
    rw [offerLeft]
    split
    · exact ⟨_, rfl⟩
    · exact ⟨_, rfl⟩
  have all (was : PerScale Channel) (l : List Scale) (x : State) : ∃ ports, l.foldl (offerLeft was) x = { x with ports := ports } := by
    induction l generalizing x with
    | nil => exact ⟨_, rfl⟩
    | cons sc l ih =>
      obtain ⟨ports, first⟩ := leaves was x sc
      obtain ⟨ports', rest⟩ := ih { x with ports := ports }
      exact ⟨ports', by rw [List.foldl_cons, first, rest]⟩
  obtain ⟨ports, scales⟩ := all s.channels allScales
    { s with channels := ⟨startedChannel s .a, startedChannel s .b, startedChannel s .p⟩ }
  have started : startScales s = _ := scales
  rw [started]

/-! ## Commits, holds, the backlog and the tally -/

/-- From `s` to `t` the books, the print queue and the notices may have changed. -/
structure Resumed (s t : State) : Prop where
  frame : t = { s with
    ports := t.ports, tickets := t.tickets, jobs := t.jobs, backlog := t.backlog, ageCounter := t.ageCounter, free := t.free
    holds := t.holds, snapshot := t.snapshot, tally := t.tally, settlements := t.settlements }

theorem Resumed.refl (s : State) : Resumed s s := ⟨rfl⟩

theorem Resumed.trans {s t u : State} (h : Resumed s t) (k : Resumed t u) : Resumed s u :=
  ⟨k.frame.trans (congrArg (fun x : State => { x with
    ports := u.ports, tickets := u.tickets, jobs := u.jobs, backlog := u.backlog, ageCounter := u.ageCounter, free := u.free
    holds := u.holds, snapshot := u.snapshot, tally := u.tally, settlements := u.settlements }) h.frame)⟩

theorem resumed_testBacklog (s : State) : Resumed s (testBacklog s) := by
  have frame := testBacklog_frame s
  generalize testBacklog s = t at *
  exact ⟨frame.trans (by rw [frame])⟩

theorem resumed_completeRecord (r : Settlement) (n : Nat) (s : State) : Resumed s (completeRecord r n s) := by
  rw [completeRecord_eq]
  exact ⟨rfl⟩

theorem resumed_failRecord (r : Settlement) (s : State) : Resumed s (failRecord r s) := by
  rw [failRecord_eq, slotsFreed_frame]
  exact ⟨rfl⟩

theorem resumed_resolveRecord (s : State) (r : Settlement) : Resumed s (resolveRecord s r) := by
  rw [resolveRecord]
  split
  · exact resumed_completeRecord ..
  · exact resumed_failRecord ..

theorem resumed_foldl {α : Type} {f : State → α → State} (hf : ∀ s a, Resumed s (f s a)) (l : List α) (s : State) :
    Resumed s (l.foldl f s) := by
  induction l generalizing s with
  | nil => exact .refl s
  | cons a l ih => exact (hf s a).trans (ih _)

theorem resumed_examineHolds (s : State) : Resumed s (examineHolds s) := by
  rw [examineHolds_eq]
  exact ⟨rfl⟩

theorem resumed_warmResolve (s : State) : Resumed s (warmResolve s) :=
  ((resumed_foldl resumed_resolveRecord s.settlements s).trans ⟨rfl⟩).trans (resumed_examineHolds _)

theorem resumed_setBacklog (s : State) : Resumed s (setBacklog s) := by
  rw [setBacklog]
  split
  · exact Resumed.trans ⟨rfl⟩ (resumed_testBacklog _)
  · exact .refl s

theorem resumed_rebuildTally (s : State) : Resumed s (rebuildTally s) := ⟨rfl⟩

end Sys2Proof.Machine
end

section
/-! PROOFS. A start as a whole, and what it keeps (R175, R206 to R208). -/

namespace Sys2Proof.Machine

/-! ## Engines with nothing to do -/

/-- Neither engine has work: no read, write, mark or pass waits, and the printer is paused. -/
structure State.Idles (s : State) : Prop where
  reads : s.engine.reads = []
  writes : s.engine.writes = []
  marks : s.pendingMarks = []
  pass : s.pass = none
  printer : paused s.pe = true

theorem State.Idles.pumpOnce {s : State} (h : s.Idles) : pumpOnce s = none := by
  have noRead : s.nextRead = none := by rw [State.nextRead, h.reads]; rfl
  have noPrint : s.mayPrint = false := by
    rw [State.mayPrint, h.printer]
    cases s.pe.activity == .idle <;> rfl
  have still : s.suspendable = none := by
    rw [State.suspendable, State.highWaiting, noRead, h.writes]
    exact if_neg fun x => absurd x.2 (by decide)
  have noTake : takeWaiting s = none := by
    rw [takeWaiting, noRead, h.writes, h.marks, h.pass]
    dsimp only
    split <;> rfl
  rw [Machine.pumpOnce, noPrint, still, noTake, if_neg Bool.false_ne_true]
  dsimp only
  rw [ite_self]

/-- With nothing to do outside CONFIG_PENDING, the end of an event changes nothing. -/
theorem State.Idles.settle {s : State} (h : s.Idles) (mode : s.mode ≠ .configPending) : settle s = s := by
  have still : pump 128 s = s := by rw [pump, h.pumpOnce]
  rw [Machine.settle, still, drainTest, if_neg fun enters => mode enters.1]

/-! ## The stages of a start -/

/-- The ports are set up, and what no start keeps is cleared; a cold one clears the rest. -/
def startBase (warm : Bool) (s : State) : State := startPorts (if warm then clearVolatile s else coldValues (clearVolatile s))

/-- The fault status of the start. -/
def startFaults (warm : Bool) (x : State) : State := if warm then warmFaults x else coldFaults x

/-- The print queue before the scales start. -/
def startQueue (warm : Bool) (x : State) : State := if warm then { x with jobs := x.jobs.map (fun j => j.map warmJob) } else x

/-- The books and the print queue after the scales have started. -/
def startBooks (warm : Bool) (x : State) : State :=
  if warm then warmResolve (testBacklog (warmTickets x)) else rebuildTally (setBacklog x)

/-- The state before RUN. -/
def started (warm : Bool) (decay : List (Nat × Byte)) (s : State) : State :=
  startBooks warm (startScales (startQueue warm (scanJournal warm decay (startFaults warm (startBase warm s)))))

theorem activities_eq (warm : Bool) (decay : List (Nat × Byte)) (x : State) :
    (if warm then warmActivities decay x else coldActivities decay x) =
      startBooks warm (startScales (startQueue warm (scanJournal warm decay (startFaults warm x)))) := by
  cases warm with
  | true => rw [if_pos rfl, warmActivities, startBooks, startQueue, startFaults, if_pos rfl, if_pos rfl, if_pos rfl]
  | false =>
    rw [if_neg Bool.false_ne_true, coldActivities, startBooks, startQueue, startFaults, if_neg Bool.false_ne_true,
      if_neg Bool.false_ne_true, if_neg Bool.false_ne_true]

theorem startPart_eq (retained sense : Bool) (decay : List (Nat × Byte)) (s : State) :
    startPart retained sense decay s = settle (setMode .run (started (warmStart retained sense s) decay s)) := by
  rw [startPart, started, startBase, ← activities_eq]

theorem warmFaults_frame (x : State) : warmFaults x = { x with
    storeRecord := false, faults := (warmFaults x).faults, firstFault := (warmFaults x).firstFault, ports := (warmFaults x).ports } := by
  rw [warmFaults]
  cases interrupted : x.storeRecord with
  | false =>
    rw [if_neg Bool.false_ne_true, ← interrupted]
  | true => exact setFault_faulted .storeMedia .storeInterrupted { x with storeRecord := false }

/-- Two faults, and with an invalid store a third, set from a clear fault status. -/
def coldFaulted (x : State) : State :=
  let y := setFault .clockUnset .none (setFault .retentionLost .none { x with faults := List.replicate 11 none, firstFault := none })
  if x.store.valid.isNone then setFault .settingsLost .none y else y

theorem coldFaults_eq (x : State) : coldFaults x = coldFaulted x := by
  have store (k : FaultKind) (d : FaultDetail) (y : State) : (setFault k d y).store = y.store :=
    (congrArg State.store (setFault_frame k d y) :)
  rw [coldFaults, coldFaulted]
  rw [store, store]

theorem coldFaults_frame (x : State) : coldFaults x = { x with
    faults := (coldFaults x).faults, firstFault := (coldFaults x).firstFault, ports := (coldFaults x).ports } := by
  have step (k : FaultKind) (d : FaultDetail) {y : State} (h : ∃ f g ports, y = { x with faults := f, firstFault := g, ports := ports }) :
      ∃ f g ports, setFault k d y = { x with faults := f, firstFault := g, ports := ports } := by
    obtain ⟨f, g, ports, rfl⟩ := h
    exact ⟨_, _, _, setFault_faulted k d _⟩
  have whole : ∃ f g ports, coldFaults x = { x with faults := f, firstFault := g, ports := ports } := by
    have two := step .clockUnset .none (step .retentionLost .none
      (y := { x with faults := List.replicate 11 none, firstFault := none }) ⟨_, _, _, rfl⟩)
    rw [coldFaults_eq, coldFaulted]
    split
    · exact step .settingsLost .none two
    · exact two
  obtain ⟨f, g, ports, frame⟩ := whole
  rw [frame]

/-- What a start leaves of the part as its first stage has set it up. -/
structure StartKeeps (x z : State) : Prop where
  clock : z.clock = x.clock
  clockSet : z.clockSet = x.clockSet
  settings : z.settings = x.settings
  tares : z.tares = x.tares
  nextTicket : z.nextTicket = x.nextTicket
  commitQueue : z.commitQueue = x.commitQueue
  head : z.head = x.head
  pass : z.pass = x.pass
  storeWrite : z.storeWrite = x.storeWrite
  pe : z.pe = x.pe
  marks : z.pendingMarks = x.pendingMarks
  cal : z.cal = x.cal
  store : z.store = x.store
  dirty : z.dirty = x.dirty
  supply : z.supply = x.supply
  resetHigh : z.resetHigh = x.resetHigh
  lostSupply : z.lostSupply = x.lostSupply
  reads : z.engine.reads = x.engine.reads
  writes : z.engine.writes = x.engine.writes

theorem StartKeeps.trans {x y z : State} (h : StartKeeps x y) (k : StartKeeps y z) : StartKeeps x z :=
  ⟨k.1.trans h.1, k.2.trans h.2, k.3.trans h.3, k.4.trans h.4, k.5.trans h.5, k.6.trans h.6, k.7.trans h.7, k.8.trans h.8,
    k.9.trans h.9, k.10.trans h.10, k.11.trans h.11, k.12.trans h.12, k.13.trans h.13, k.14.trans h.14, k.15.trans h.15,
    k.16.trans h.16, k.17.trans h.17, k.18.trans h.18, k.19.trans h.19⟩

theorem ScanStep.keeps {s t : State} (h : ScanStep s t) : StartKeeps s t := by
  obtain ⟨frame, reads, writes⟩ := h
  rw [frame]
  exact ⟨rfl, rfl, rfl, rfl, rfl, rfl, rfl, rfl, rfl, rfl, rfl, rfl, rfl, rfl, rfl, rfl, rfl, reads, writes⟩

theorem Resumed.keeps {s t : State} (h : Resumed s t) : StartKeeps s t := by
  rw [h.frame]
  exact ⟨rfl, rfl, rfl, rfl, rfl, rfl, rfl, rfl, rfl, rfl, rfl, rfl, rfl, rfl, rfl, rfl, rfl, rfl, rfl⟩

theorem startFaults_keeps (warm : Bool) (x : State) : StartKeeps x (startFaults warm x) := by
  cases warm with
  | true =>
    have frame : startFaults true x = _ := warmFaults_frame x
    rw [frame]
    exact ⟨rfl, rfl, rfl, rfl, rfl, rfl, rfl, rfl, rfl, rfl, rfl, rfl, rfl, rfl, rfl, rfl, rfl, rfl, rfl⟩
  | false =>
    have frame : startFaults false x = _ := coldFaults_frame x
    rw [frame]
    exact ⟨rfl, rfl, rfl, rfl, rfl, rfl, rfl, rfl, rfl, rfl, rfl, rfl, rfl, rfl, rfl, rfl, rfl, rfl, rfl⟩

theorem scanJournal_keeps (warm : Bool) (decay : List (Nat × Byte)) (s : State) : StartKeeps s (scanJournal warm decay s) := by
  rw [scanJournal_eq]
  refine StartKeeps.trans (y := arrayRead { s with journal := memDecay s.journal 0 131072 decay }) ?_ (scanStep_scan ..).keeps
  exact ⟨rfl, rfl, rfl, rfl, rfl, rfl, rfl, rfl, rfl, rfl, rfl, rfl, rfl, rfl, rfl, rfl, rfl, rfl, rfl⟩

theorem startQueue_keeps (warm : Bool) (x : State) : StartKeeps x (startQueue warm x) := by
  cases warm <;> exact ⟨rfl, rfl, rfl, rfl, rfl, rfl, rfl, rfl, rfl, rfl, rfl, rfl, rfl, rfl, rfl, rfl, rfl, rfl, rfl⟩

theorem startScales_keeps (x : State) : StartKeeps x (startScales x) := by
  rw [startScales_frame]
  exact ⟨rfl, rfl, rfl, rfl, rfl, rfl, rfl, rfl, rfl, rfl, rfl, rfl, rfl, rfl, rfl, rfl, rfl, rfl, rfl⟩

theorem startBooks_resumed (warm : Bool) (x : State) : Resumed x (startBooks warm x) := by
  cases warm with
  | true => exact (Resumed.trans ⟨rfl⟩ (resumed_testBacklog _)).trans (resumed_warmResolve _)
  | false => exact (resumed_setBacklog x).trans (resumed_rebuildTally _)

theorem started_keeps (warm : Bool) (decay : List (Nat × Byte)) (s : State) :
    StartKeeps (startBase warm s) (started warm decay s) :=
  (startFaults_keeps warm _).trans <| (scanJournal_keeps warm decay _).trans <| (startQueue_keeps warm _).trans <|
    (startScales_keeps _).trans (startBooks_resumed warm _).keeps

/-- What the first stage of every start sets. -/
theorem startBase_sets (warm : Bool) (s : State) : (startBase warm s).supply = true ∧ (startBase warm s).resetHigh = true ∧
    (startBase warm s).lostSupply = false ∧ (startBase warm s).commitQueue = [] ∧ (startBase warm s).head = none ∧
    (startBase warm s).pass = none ∧ (startBase warm s).storeWrite = none ∧ (startBase warm s).pendingMarks = [] ∧
    (startBase warm s).pe = PrintEngine.start ∧ (startBase warm s).engine = ⟨none, [], [], none⟩ ∧
    (startBase warm s).cal = s.cal ∧ (startBase warm s).store = s.store ∧ (startBase warm s).mode = .starting := by
  cases warm <;> exact ⟨rfl, rfl, rfl, rfl, rfl, rfl, rfl, rfl, rfl, rfl, rfl, rfl, rfl⟩

/-- A start ends with its change to RUN: neither engine has work. -/
theorem startPart_run (retained sense : Bool) (decay : List (Nat × Byte)) (s : State) :
    startPart retained sense decay s = setMode .run (started (warmStart retained sense s) decay s) := by
  have keeps := started_keeps (warmStart retained sense s) decay s
  obtain ⟨-, -, -, -, -, pass, -, marks, pe, engine, -⟩ := startBase_sets (warmStart retained sense s) s
  rw [startPart_eq]
  refine State.Idles.settle ⟨?_, ?_, ?_, ?_, ?_⟩ nofun
  · exact keeps.reads.trans (congrArg Engine.reads engine)
  · exact keeps.writes.trans (congrArg Engine.writes engine)
  · exact keeps.marks.trans marks
  · exact keeps.pass.trans pass
  · exact congrArg paused (keeps.pe.trans pe)

end Sys2Proof.Machine
end

section
/-! PROOFS. The calibration areas and the fault status of a start (R19, R23, R24, R195, R201, R216). -/

namespace Sys2Proof.Machine

/-! ## The records of a calibration area (R19, R216) -/

theorem entryField_bytes {bs : List Byte} {off n : Nat} (fits : off + n ≤ bs.length) :
    entryField bs off n = (List.range n).map (fun k => bs.getD (off + k) 0#8) := take_drop_eq _ 0#8 fits

section
variable {bs : List Byte} {off : Nat}

theorem entryNat_byte (fits : off + 1 ≤ bs.length) : entryNat bs off 1 = (bs.getD off 0#8).toNat := by
  rw [entryNat, entryField_bytes fits]
  exact Nat.zero_add _

theorem entryNat_word (fits : off + 2 ≤ bs.length) :
    entryNat bs off 2 = 256 * (bs.getD off 0#8).toNat + (bs.getD (off + 1) 0#8).toNat := by
  rw [entryNat, entryField_bytes fits]
  simp [ofBytes, List.range_succ]

theorem entryNat_three (fits : off + 3 ≤ bs.length) : entryNat bs off 3 =
    256 * (256 * (bs.getD off 0#8).toNat + (bs.getD (off + 1) 0#8).toNat) + (bs.getD (off + 2) 0#8).toNat := by
  rw [entryNat, entryField_bytes fits]
  simp [ofBytes, List.range_succ]

theorem ofBytes_long (fits : off + 4 ≤ bs.length) : ofBytes (entryField bs off 4) =
    65536 * (256 * (bs.getD off 0#8).toNat + (bs.getD (off + 1) 0#8).toNat) +
      (256 * (bs.getD (off + 2) 0#8).toNat + (bs.getD (off + 3) 0#8).toNat) := by
  rw [entryField_bytes fits]
  simp [ofBytes, List.range_succ]
  omega

end

theorem calRecordOf_eq {bs : List Byte} (size : bs.length = 32) :
    let b (i : Nat) := (bs.getD i 0#8).toNat
    let sum := ((List.range 20).map b).sum
    let word (i : Nat) := 256 * b i + b (i + 1)
    let long (i : Nat) := 65536 * word i + word (i + 2)
    let zero : Int := if long 1 < 2 ^ 31 then long 1 else long 1 - 2 ^ 32
    (word 20 = sum % 65536 →
      calRecordOf bs = some ⟨b 0, zero, 256 * word 5 + b 7, [word 8, word 10, word 12, word 14], long 16⟩) ∧
    (word 20 ≠ sum % 65536 → calRecordOf bs = none) := by
  intro b sum word long zero
  have words {off : Nat} (fits : off + 2 ≤ 32) : entryNat bs off 2 = word off := entryNat_word (by omega)
  have longs {off : Nat} (fits : off + 4 ≤ 32) : ofBytes (entryField bs off 4) = long off := ofBytes_long (by omega)
  have check : byteSum 2 (entryField bs 0 20) = sum % 65536 := by
    rw [byteSum_eq, entryField_bytes (by omega), List.map_map]
    simp only [Nat.zero_add]
    rfl
  have width : (entryField bs 1 4).length = 4 := by
    rw [entryField_bytes (by omega), List.length_map, List.length_range]
  have signed : ofBytesInt (entryField bs 1 4) = zero := by
    rw [ofBytesInt, longs (by decide), width]
    dsimp only [zero]
    by_cases low : long 1 < 2 ^ 31
    · rw [if_pos low, if_pos (by omega)]
    · rw [if_neg low, if_neg (by omega)]
      rfl
  refine ⟨fun holds => ?_, fun fails => ?_⟩
  · rw [calRecordOf, words (by decide), check, if_pos holds, entryNat_byte (by omega), signed, entryNat_three (by omega),
      entryNat, longs (by decide)]
    simp only [List.range, List.range.loop, List.map_cons, List.map_nil]
    rw [words (by decide), words (by decide), words (by decide), words (by decide)]
  · rw [calRecordOf, words (by decide), check, if_neg fails]

theorem filterMap_ite {α β : Type} (p : α → Bool) (f : α → β) (l : List α) :
    l.filterMap (fun a => if p a then none else some (f a)) = (l.filter (fun a => !p a)).map f := by
  induction l with
  | nil => rfl
  | cons a l ih => cases h : p a <;> simp [h, ih]

/-- The slots of an area that are used, by their number. -/
def usedSlots (area : CalArea) : List Nat :=
  (List.range 64).filter (fun i => (memBytes area.slots (32 * i) 32).any (fun b => b != 0xFF#8))

theorem calSlots_eq (area : CalArea) :
    calSlots area = (usedSlots area).map (fun i => calRecordOf (memBytes area.slots (32 * i) 32)) := by
  have used (i : Nat) : (!calSlotBlank area i) = (memBytes area.slots (32 * i) 32).any (fun b => b != 0xFF#8) := by
    rw [calSlotBlank, List.not_all_eq_any_not]
    rfl
  rw [calSlots, filterMap_ite, usedSlots]
  simp only [used]

/-- The valid records of an area. -/
def validRecords (area : CalArea) : List CalRecord :=
  (usedSlots area).filterMap (fun i => calRecordOf (memBytes area.slots (32 * i) 32))

theorem calSlots_valid (area : CalArea) : (calSlots area).filterMap id = validRecords area := by
  rw [calSlots_eq, List.filterMap_map, validRecords]
  rfl

/-- The search for the newest record keeps the best so far or finds a better one. -/
theorem newestRecord_from (rs : List CalRecord) (best : CalRecord) : ∃ r, rs.foldl (fun best r =>
      match best with
      | some b => if b.sequence < r.sequence then some r else best
      | none => some r) (some best) = some r ∧ (r = best ∨ r ∈ rs) ∧ best.sequence ≤ r.sequence ∧
    ∀ x ∈ rs, x.sequence ≤ r.sequence := by
  induction rs generalizing best with
  | nil => exact ⟨best, rfl, .inl rfl, Nat.le_refl _, fun x mem => absurd mem List.not_mem_nil⟩
  | cons a rs ih =>
    rw [List.foldl_cons]
    dsimp only
    by_cases newer : best.sequence < a.sequence
    · rw [if_pos newer]
      obtain ⟨r, found, one, above, all⟩ := ih a
      exact ⟨r, found, .inr (List.mem_cons.mpr one), by omega, fun x mem => (List.mem_cons.mp mem).elim (fun same => same ▸ above) (all x)⟩
    · rw [if_neg newer]
      obtain ⟨r, found, one, above, all⟩ := ih best
      exact ⟨r, found, one.imp_right (List.mem_cons_of_mem a), above,
        fun x mem => (List.mem_cons.mp mem).elim (fun same => same ▸ by omega) (all x)⟩

theorem newestRecord_spec (rs : List CalRecord) : (rs = [] → newestRecord rs = none) ∧
    (rs ≠ [] → ∃ r ∈ rs, newestRecord rs = some r ∧ ∀ r' ∈ rs, r'.sequence ≤ r.sequence) := by
  refine ⟨fun none' => by rw [none', newestRecord, List.foldl_nil], fun some' => ?_⟩
  obtain ⟨a, rs', rfl⟩ := List.exists_cons_of_ne_nil some'
  obtain ⟨r, found, one, above, all⟩ := newestRecord_from rs' a
  exact ⟨r, List.mem_cons.mpr one, found, fun x mem => (List.mem_cons.mp mem).elim (fun same => same ▸ above) (all x)⟩

/-! ## The fault status -/

theorem setFault_fault_other {j k : FaultKind} (other : j ≠ k) (d : FaultDetail) (s : State) :
    (setFault k d s).fault j = s.fault j := by
  have faults : (setFault k d s).faults = s.faults.set (faultIndex k) (some ⟨d, s.clock⟩) :=
    (congrArg State.faults (setFault_frame k d s) :)
  rw [State.fault, faults]
  exact fault_set_other other s _

theorem setFault_fault_same {s : State} (size : s.faults.length = 11) (k : FaultKind) (d : FaultDetail) :
    (setFault k d s).fault k = some ⟨d, s.clock⟩ :=
  fault_of_faults size (congrArg State.faults (setFault_frame k d s) :)

theorem setFault_faults_length (k : FaultKind) (d : FaultDetail) (s : State) : (setFault k d s).faults.length = s.faults.length := by
  have faults : (setFault k d s).faults = s.faults.set (faultIndex k) (some ⟨d, s.clock⟩) :=
    (congrArg State.faults (setFault_frame k d s) :)
  rw [faults, List.length_set]

/-- The fault status that a warm start adds to. -/
theorem warmFaults_fault {x : State} {k : FaultKind} (other : k ≠ .storeMedia) : (warmFaults x).fault k = x.fault k := by
  rw [warmFaults]
  split
  · exact setFault_fault_other other ..
  · rfl

theorem warmFaults_storeMedia {x : State} (size : x.faults.length = 11) : (warmFaults x).fault .storeMedia =
    if x.storeRecord then some ⟨.storeInterrupted, x.clock⟩ else x.fault .storeMedia := by
  rw [warmFaults]
  split
  · exact setFault_fault_same (s := { x with storeRecord := false }) size ..
  · rfl

/-- The fault status of a cold start (R195). -/
theorem coldFaults_fault (x : State) (k : FaultKind) : (coldFaults x).fault k =
    if k = .retentionLost ∨ k = .clockUnset ∨ (k = .settingsLost ∧ x.store.valid = none) then some ⟨.none, x.clock⟩ else none := by
  let clear : State := { x with faults := List.replicate 11 none, firstFault := none }
  let first := setFault .retentionLost .none clear
  let second := setFault .clockUnset .none first
  have size : first.faults.length = 11 := (setFault_faults_length ..).trans rfl
  have size' : second.faults.length = 11 := (setFault_faults_length ..).trans size
  have none' (j : FaultKind) : clear.fault j = none := by cases j <;> rfl
  have clock₁ : first.clock = x.clock := setFault_clock ..
  have clock₂ : second.clock = x.clock := (setFault_clock ..).trans clock₁
  have second_fault (j : FaultKind) : second.fault j = if j = .retentionLost ∨ j = .clockUnset then some ⟨.none, x.clock⟩ else none := by
    by_cases unset : j = .clockUnset
    · subst unset
      rw [if_pos (.inr rfl), ← clock₁]
      exact setFault_fault_same size ..
    · rw [show second.fault j = first.fault j from setFault_fault_other unset ..]
      by_cases lost : j = .retentionLost
      · subst lost
        rw [if_pos (.inl rfl)]
        exact setFault_fault_same (s := clear) rfl ..
      · rw [if_neg (fun h => h.elim lost unset)]
        exact (setFault_fault_other lost ..).trans (none' j)
  have whole : coldFaults x = if x.store.valid.isNone then setFault .settingsLost .none second else second := coldFaults_eq x
  rw [whole]
  by_cases invalid : x.store.valid = none
  · rw [if_pos (Option.isNone_iff_eq_none.mpr invalid)]
    by_cases lost : k = .settingsLost
    · rw [if_pos (.inr (.inr ⟨lost, invalid⟩)), lost, ← clock₂]
      exact setFault_fault_same size' ..
    · rw [setFault_fault_other lost, second_fault]
      exact if_congr (or_congr_right (by simp [lost])) rfl rfl
  · rw [if_neg fun h => invalid (Option.isNone_iff_eq_none.mp h), second_fault]
    exact if_congr (or_congr_right (by simp [invalid])) rfl rfl

end Sys2Proof.Machine
end

section
/-! PROOFS. The obligation on what a start completes (R175, R206 to R208). -/

namespace Sys2Proof.Machine

/-! ## What the stages leave to the end -/

/-- From `s` to `t` only the map, the counter, the low flag, the erase and the notices may have changed. -/
structure MapStep (s t : State) : Prop where
  frame : t = { s with
    ports := t.ports, sectors := t.sectors, counter := t.counter, exhausted := t.exhausted, lowFlag := t.lowFlag
    engine := t.engine }

theorem MapStep.trans {s t u : State} (h : MapStep s t) (k : MapStep t u) : MapStep s u :=
  ⟨k.frame.trans (congrArg (fun x : State => { x with
    ports := u.ports, sectors := u.sectors, counter := u.counter, exhausted := u.exhausted, lowFlag := u.lowFlag
    engine := u.engine }) h.frame)⟩

theorem mapStep_settleNewest (s : State) : MapStep s (settleNewest s) := by
  rw [settleNewest]
  split <;> exact ⟨rfl⟩

theorem mapStep_backfillAudited (s : State) : MapStep s (backfillAudited s) := by
  have marks (l : List (Nat × Nat × Nat)) (top : Nat) (x : State) :
      MapStep x (l.foldl (fun s e => if e.1 < top then s.setSlotMark e.2.1 e.2.2 .audited else s) x) := by
    induction l generalizing x with
    | nil => exact ⟨rfl⟩
    | cons e l ih =>
      refine MapStep.trans ?_ (ih _)
      dsimp only
      split <;> exact ⟨rfl⟩
  rw [backfillAudited]
  split
  · exact ⟨rfl⟩
  · exact marks ..

theorem mapStep_startCounter (s : State) : MapStep s (startCounter s) := by
  rw [startCounter]
  split
  · split <;> exact ⟨rfl⟩
  · exact ⟨rfl⟩

theorem mapStep_evalSpace (s : State) : MapStep s (evalSpace s) := by
  have frame := evalSpace_frame s
  generalize evalSpace s = t at *
  exact ⟨frame.trans (by rw [frame])⟩

theorem mapStep_restartErase (s : State) : MapStep s (restartErase s) := by
  rw [restartErase]
  split <;> exact ⟨rfl⟩

theorem mapStep_scan (s : State) :
    MapStep s (restartErase (evalSpace (startCounter (backfillAudited (settleNewest s))))) :=
  (mapStep_settleNewest s).trans <| (mapStep_backfillAudited _).trans <| (mapStep_startCounter _).trans <|
    (mapStep_evalSpace _).trans <| mapStep_restartErase _

theorem reportTorn_fault {k : FaultKind} (other : k ≠ .tornFound) (warm : Bool) (torn : List Nat) (s : State) :
    (reportTorn warm torn s).fault k = s.fault k := by
  rw [reportTorn_eq]
  cases minOf torn with
  | none => rfl
  | some n => exact setFault_fault_other other (.receipt n) s

theorem fault_congr {s t : State} (h : t.faults = s.faults) (k : FaultKind) : t.fault k = s.fault k := by
  rw [State.fault, h, ← State.fault]

theorem MapStep.fault {s t : State} (h : MapStep s t) (k : FaultKind) : t.fault k = s.fault k :=
  fault_congr (by rw [h.frame]) k

/-- The scan finds no fault but torn entries. -/
theorem scanJournal_fault {k : FaultKind} (other : k ≠ .tornFound) (warm : Bool) (decay : List (Nat × Byte)) (s : State) :
    (scanJournal warm decay s).fault k = s.fault k := by
  rw [scanJournal_eq]
  have read : (arrayRead { s with journal := memDecay s.journal 0 131072 decay }).fault k = s.fault k := fault_congr rfl k
  generalize scannedTorn _ = torn
  generalize arrayRead { s with journal := memDecay s.journal 0 131072 decay } = y at *
  rw [(mapStep_scan _).fault, reportTorn_fault other, read]

/-- What the scan leaves beside the journal. -/
theorem scanJournal_books (warm : Bool) (decay : List (Nat × Byte)) (s : State) :
    let t := scanJournal warm decay s
    t.scanned = true ∧ t.channels = s.channels ∧ t.tickets = s.tickets ∧ t.holds = s.holds ∧ t.settlements = s.settlements ∧
    t.jobs = s.jobs ∧ t.backlog = s.backlog ∧ t.ageCounter = s.ageCounter ∧ t.free = s.free ∧ t.snapshot = s.snapshot ∧
    t.storeRecord = s.storeRecord ∧ t.eraseRecord = s.eraseRecord := by
  rw [scanJournal_eq]
  dsimp only
  have step := (scanStep_scan warm (scannedTorn { s with journal := memDecay s.journal 0 131072 decay })
    (arrayRead { s with journal := memDecay s.journal 0 131072 decay })).frame
  rw [step]
  exact ⟨rfl, rfl, rfl, rfl, rfl, rfl, rfl, rfl, rfl, rfl, rfl, rfl⟩

/-- What the fault status stage leaves beside the fault status. -/
theorem startFaults_books (warm : Bool) (x : State) :
    let t := startFaults warm x
    t.channels = x.channels ∧ t.tickets = x.tickets ∧ t.holds = x.holds ∧ t.settlements = x.settlements ∧ t.jobs = x.jobs ∧
    t.backlog = x.backlog ∧ t.ageCounter = x.ageCounter ∧ t.free = x.free ∧ t.snapshot = x.snapshot ∧
    t.storeRecord = (if warm then false else x.storeRecord) ∧ t.eraseRecord = x.eraseRecord ∧ t.journal = x.journal ∧
    t.tally = x.tally := by
  cases warm with
  | true =>
    have frame : startFaults true x = _ := warmFaults_frame x
    rw [frame]
    exact ⟨rfl, rfl, rfl, rfl, rfl, rfl, rfl, rfl, rfl, rfl, rfl, rfl, rfl⟩
  | false =>
    have frame : startFaults false x = _ := coldFaults_frame x
    rw [frame]
    exact ⟨rfl, rfl, rfl, rfl, rfl, rfl, rfl, rfl, rfl, rfl, rfl, rfl, rfl⟩

/-- The state in which the scales start. -/
def startedScan (warm : Bool) (decay : List (Nat × Byte)) (s : State) : State :=
  startQueue warm (scanJournal warm decay (startFaults warm (startBase warm s)))

theorem started_eq (warm : Bool) (decay : List (Nat × Byte)) (s : State) :
    started warm decay s = startBooks warm (startScales (startedScan warm decay s)) := rfl

theorem startedScan_keeps (warm : Bool) (decay : List (Nat × Byte)) (s : State) :
    StartKeeps (startBase warm s) (startedScan warm decay s) :=
  (startFaults_keeps warm _).trans <| (scanJournal_keeps warm decay _).trans (startQueue_keeps warm _)

theorem startQueue_books (warm : Bool) (x : State) :
    let t := startQueue warm x
    t.scanned = x.scanned ∧ t.channels = x.channels ∧ t.tickets = x.tickets ∧ t.holds = x.holds ∧ t.settlements = x.settlements ∧
    t.backlog = x.backlog ∧ t.ageCounter = x.ageCounter ∧ t.free = x.free ∧ t.snapshot = x.snapshot ∧
    t.storeRecord = x.storeRecord ∧ t.faults = x.faults := by
  cases warm <;> exact ⟨rfl, rfl, rfl, rfl, rfl, rfl, rfl, rfl, rfl, rfl, rfl⟩

theorem startedScan_books (warm : Bool) (decay : List (Nat × Byte)) (s : State) :
    let x := startBase warm s
    let t := startedScan warm decay s
    t.scanned = true ∧ t.channels = x.channels ∧ t.tickets = x.tickets ∧ t.holds = x.holds ∧ t.settlements = x.settlements ∧
    t.backlog = x.backlog ∧ t.ageCounter = x.ageCounter ∧ t.free = x.free ∧ t.snapshot = x.snapshot ∧
    t.storeRecord = (if warm then false else x.storeRecord) := by
  have stages : startedScan warm decay s = startQueue warm (scanJournal warm decay (startFaults warm (startBase warm s))) := rfl
  rw [stages]
  generalize startBase warm s = x
  obtain ⟨channels, tickets, holds, settlements, -, backlog, age, free, snapshot, store, -, -⟩ := startFaults_books warm x
  generalize startFaults warm x = w at *
  obtain ⟨scanned, channels', tickets', holds', settlements', -, backlog', age', free', snapshot', store', -⟩ :=
    scanJournal_books warm decay w
  generalize scanJournal warm decay w = v at *
  obtain ⟨scanned'', channels'', tickets'', holds'', settlements'', backlog'', age'', free'', snapshot'', store'', -⟩ :=
    startQueue_books warm v
  exact ⟨scanned''.trans scanned, channels''.trans (channels'.trans channels), tickets''.trans (tickets'.trans tickets),
    holds''.trans (holds'.trans holds), settlements''.trans (settlements'.trans settlements),
    backlog''.trans (backlog'.trans backlog), age''.trans (age'.trans age), free''.trans (free'.trans free),
    snapshot''.trans (snapshot'.trans snapshot), store''.trans (store'.trans store)⟩

theorem startedScan_fault {k : FaultKind} (other : k ≠ .tornFound) (warm : Bool) (decay : List (Nat × Byte)) (s : State) :
    (startedScan warm decay s).fault k = (startFaults warm (startBase warm s)).fault k := by
  have scanned := scanJournal_fault other warm decay (startFaults warm (startBase warm s))
  have stages : startedScan warm decay s = startQueue warm (scanJournal warm decay (startFaults warm (startBase warm s))) := rfl
  rw [stages]
  generalize scanJournal warm decay (startFaults warm (startBase warm s)) = v at *
  obtain ⟨-, -, -, -, -, -, -, -, -, -, faults⟩ := startQueue_books warm v
  rw [State.fault, faults, ← State.fault, scanned]

/-- What the last two stages leave. -/
theorem started_leaves (warm : Bool) (decay : List (Nat × Byte)) (s : State) :
    let y := startedScan warm decay s
    let z := started warm decay s
    z.channels = ⟨startedChannel y .a, startedChannel y .b, startedChannel y .p⟩ ∧ z.faults = y.faults ∧ z.scanned = y.scanned ∧
    z.storeRecord = y.storeRecord ∧ z.sectors = y.sectors ∧ z.journal = y.journal ∧ z.counter = y.counter ∧
    z.exhausted = y.exhausted ∧ z.engine = y.engine := by
  rw [started_eq, (startBooks_resumed warm (startScales (startedScan warm decay s))).frame, startScales_frame]
  exact ⟨rfl, rfl, rfl, rfl, rfl, rfl, rfl, rfl, rfl⟩

/-! ## The tickets -/

/-- No ticket has a claim or a capture (R64). -/
def unclaimed (ts : List Ticket) : Prop := ∀ u ∈ ts, u.claim = none ∧ u.capture = none

theorem unclaimed_map {f : Ticket → Ticket} {ts : List Ticket} (keeps : ∀ u ∈ ts, (f u).claim = u.claim ∧ (f u).capture = u.capture)
    (h : unclaimed ts) : unclaimed (ts.map f) := by
  intro u mem
  obtain ⟨x, mem', rfl⟩ := List.mem_map.mp mem
  obtain ⟨claim, capture⟩ := keeps x mem'
  exact ⟨claim.trans (h x mem').1, capture.trans (h x mem').2⟩

theorem unclaimed_completed {clock receipt : Nat} {r : Settlement} {b : Books} (h : unclaimed b.tickets) :
    unclaimed (b.completed clock receipt r).tickets := by
  rw [Books.completed]
  dsimp only
  split
  · exact fun u mem => h u (List.mem_filter.mp mem).1
  · exact h

theorem unclaimed_returned {clock : Nat} {r : Settlement} {b : Books} (h : unclaimed b.tickets) :
    unclaimed (b.returned clock r).tickets := by
  rw [Books.returned]
  split
  · exact h
  · rename_i t found
    obtain ⟨n, -, at'⟩ := Option.bind_eq_some_iff.mp found
    obtain ⟨claim, capture⟩ := h t (List.mem_of_find?_eq_some at')
    split
    · exact h
    · intro u mem
      obtain ⟨x, mem', rfl⟩ := List.mem_map.mp mem
      split
      · exact ⟨claim, capture⟩
      · exact h x mem'

theorem unclaimed_resolveRecord {s : State} (h : unclaimed s.tickets) (r : Settlement) : unclaimed (resolveRecord s r).tickets := by
  rw [resolveRecord]
  split
  · rename_i n _
    rw [completeRecord_eq]
    exact unclaimed_completed (clock := s.clock) (receipt := n) (r := r) (b := s.books) h
  · rw [failRecord_eq, slotsFreed_frame]
    exact unclaimed_returned (clock := s.clock) (r := r) (b := s.books) h

theorem unclaimed_warmResolve {s : State} (h : unclaimed s.tickets) : unclaimed (warmResolve s).tickets := by
  have all (rs : List Settlement) (x : State) (h : unclaimed x.tickets) : unclaimed (rs.foldl resolveRecord x).tickets := by
    induction rs generalizing x with
    | nil => exact h
    | cons r rs ih => exact ih _ (unclaimed_resolveRecord h r)
  rw [warmResolve, examineHolds_eq]
  exact unclaimed_map (fun u _ => by split <;> exact ⟨rfl, rfl⟩) (all s.settlements s h)

theorem startBooks_warm (x : State) : startBooks true x = warmResolve (testBacklog (warmTickets x)) := rfl

theorem startBooks_cold (x : State) : startBooks false x = rebuildTally (setBacklog x) := rfl

theorem unclaimed_startBooks (x : State) : unclaimed (startBooks true x).tickets := by
  rw [startBooks_warm]
  refine unclaimed_warmResolve ?_
  rw [testBacklog_frame]
  intro u mem
  obtain ⟨x, -, rfl⟩ := List.mem_map.mp mem
  exact ⟨rfl, rfl⟩

theorem unclaimed_started (decay : List (Nat × Byte)) (s : State) : unclaimed (started true decay s).tickets :=
  unclaimed_startBooks _

theorem setBacklog_books (x : State) : (setBacklog x).tickets = x.tickets ∧ (setBacklog x).holds = x.holds ∧
    (setBacklog x).settlements = x.settlements := by
  rw [setBacklog]
  split
  · rw [testBacklog_frame]
    exact ⟨rfl, rfl, rfl⟩
  · exact ⟨rfl, rfl, rfl⟩

theorem startScales_books (x : State) : (startScales x).tickets = x.tickets ∧ (startScales x).holds = x.holds ∧
    (startScales x).settlements = x.settlements := by
  rw [startScales_frame]
  exact ⟨rfl, rfl, rfl⟩

/-- The backlog and the tally of a cold start take nothing of the books but the snapshot. -/
theorem startBooks_cold_books (x : State) : (startBooks false x).tickets = x.tickets ∧ (startBooks false x).holds = x.holds ∧
    (startBooks false x).settlements = x.settlements ∧ (startBooks false x).snapshot = none := by
  obtain ⟨tickets, holds, settlements⟩ := setBacklog_books x
  rw [startBooks_cold]
  generalize setBacklog x = y at *
  exact ⟨tickets, holds, settlements, rfl⟩

theorem startBooks_warm_settlements (x : State) : (startBooks true x).settlements = [] := by
  rw [startBooks_warm, warmResolve, examineHolds_eq]

/-- The books of a cold start are empty. -/
theorem started_cold (decay : List (Nat × Byte)) (s : State) : (started false decay s).tickets = [] ∧
    (started false decay s).holds = [] ∧ (started false decay s).settlements = [] ∧ (started false decay s).snapshot = none := by
  obtain ⟨-, -, tickets, holds, settlements, -⟩ := startedScan_books false decay s
  rw [started_eq]
  generalize startedScan false decay s = y at *
  obtain ⟨tickets', holds', settlements'⟩ := startScales_books y
  generalize startScales y = z at *
  obtain ⟨tickets'', holds'', settlements'', snapshot⟩ := startBooks_cold_books z
  exact ⟨tickets''.trans (tickets'.trans tickets), holds''.trans (holds'.trans holds),
    settlements''.trans (settlements'.trans settlements), snapshot⟩

theorem started_settlements (warm : Bool) (decay : List (Nat × Byte)) (s : State) : (started warm decay s).settlements = [] := by
  cases warm with
  | true => exact startBooks_warm_settlements _
  | false =>
    obtain ⟨-, -, settlements, -⟩ := started_cold decay s
    exact settlements

end Sys2Proof.Machine
end

section
/-! PROOFS. The obligation on what a start completes (R175, R206 to R208). -/

namespace Sys2Proof.Machine

theorem warmStart_iff (retained sense : Bool) (s : State) :
    warmStart retained sense s = true ↔ retained = true ∧ (s.lostSupply = true → sense = true) := by
  rw [warmStart]
  cases retained <;> cases sense <;> cases s.lostSupply <;> decide

/-- The defaults of the settings (R200). -/
theorem settings_default :
    Settings.default.grades = List.replicate 64 ⟨false, List.replicate 8 0x20#8, false, false, 0, 0, 0⟩ ∧
    Settings.default.ports.s0.role = .office ∧ Settings.default.ports.s1.role = .scale ∧
    Settings.default.ports.s2.role = .window ∧ Settings.default.ports.s3.role = .view ∧
    Settings.default.ports.s1.scaleMask = 0b111#3 ∧
    (∀ p, (Settings.default.ports.get p).noticeDefault = ⟨0xFF#8, 0b111#3⟩) ∧
    (∀ sc, Settings.default.scales.get sc = ⟨true, 10, 45, 10, .manual⟩) ∧
    Settings.default.claimTimeout = 180 ∧ Settings.default.tareValidity = 30 ∧
    Settings.default.headers = List.replicate 3 (List.replicate 32 0x20#8) ∧ Settings.default.firstReceipt = 1 ∧
    (∀ k, Settings.default.faultMasks.getLsbD (faultIndex k) = false) ∧
    (∀ k, Settings.default.faultStops.getLsbD (faultIndex k) = true ↔
      k ∈ [FaultKind.printerOffline, .journalFull, .journalMedia, .settingsLost, .storeMedia]) :=
  ⟨rfl, rfl, rfl, rfl, rfl, rfl, fun p => by cases p <;> rfl, fun sc => by cases sc <;> rfl, rfl, rfl, rfl, rfl,
    fun k => by cases k <;> rfl, fun k => by cases k <;> decide⟩

theorem setMode_frame (m : Mode) (s : State) : setMode m s = { s with mode := m, ports := (setMode m s).ports } := rfl

/-- Every port is set up from the live settings (R175). -/
theorem started_plainPorts (warm : Bool) (decay : List (Nat × Byte)) (s : State) (p : Port) :
    (started warm decay s).plainPorts p = startPort ((startBase warm s).portSettings p) (s.port p) := by
  have base : (startBase warm s).plainPorts p = startPort ((startBase warm s).portSettings p) (s.port p) := by
    cases warm
    · exact plainPorts_startPorts (coldValues (clearVolatile s)) p
    · exact plainPorts_startPorts (clearVolatile s) p
  rw [started, ← activities_eq, ← base]
  generalize startBase warm s = x
  split
  · rw [plainPorts_warmActivities]
  · rw [plainPorts_coldActivities]

/-- What the first stage takes over, by the kind of the start (R175, R207). -/
theorem startBase_warm (s : State) : (startBase true s).clock = s.clock ∧ (startBase true s).clockSet = s.clockSet ∧
    (startBase true s).settings = s.settings ∧ (startBase true s).tares = s.tares ∧
    (startBase true s).nextTicket = s.nextTicket ∧ (startBase true s).channels = s.channels ∧
    (startBase true s).faults = s.faults ∧ (startBase true s).storeRecord = s.storeRecord :=
  ⟨rfl, rfl, rfl, rfl, rfl, rfl, rfl, rfl⟩

theorem startBase_cold (s : State) : (startBase false s).clock = 0 ∧ (startBase false s).clockSet = false ∧
    (startBase false s).settings = s.store.valid.elim Settings.default loadImage ∧
    (startBase false s).tares = List.replicate 32 none ∧ (startBase false s).nextTicket = 1 ∧
    (startBase false s).dirty = false ∧ (startBase false s).store = s.store ∧ (startBase false s).storeRecord = false ∧
    ∀ sc, ((startBase false s).chan sc).zeroOffset = 0 :=
  ⟨rfl, rfl, rfl, rfl, rfl, rfl, rfl, rfl, fun sc => by cases sc <;> rfl⟩

/-- Every channel is set up from its calibration area and its settings (R19, R23, R24). -/
theorem started_chan (warm : Bool) (decay : List (Nat × Byte)) (s : State) (sc : Scale) :
    (started warm decay s).chan sc = startChannel ((started warm decay s).scaleSettings sc).enabled (s.cal.get sc)
      (if warm = true then (s.chan sc).zeroOffset else 0) := by
  have keeps := started_keeps warm decay s
  have keeps' := startedScan_keeps warm decay s
  obtain ⟨channels, -⟩ := started_leaves warm decay s
  obtain ⟨-, scanned, -⟩ := startedScan_books warm decay s
  obtain ⟨-, -, -, -, -, -, -, -, -, -, cal, -, -⟩ := startBase_sets warm s
  have zero : ((startBase warm s).chan sc).zeroOffset = if warm = true then (s.chan sc).zeroOffset else 0 := by
    cases warm with
    | true => rfl
    | false =>
      obtain ⟨-, -, -, -, -, -, -, -, zero⟩ := startBase_cold s
      exact zero sc
  have chan : (started warm decay s).chan sc = startedChannel (startedScan warm decay s) sc := by
    rw [State.chan, channels]
    cases sc <;> rfl
  rw [chan, startedChannel, State.scaleSettings, State.scaleSettings, keeps.settings, keeps'.settings, keeps'.cal, cal,
    State.chan, scanned, ← State.chan, zero]

/-- A channel that a start has set up (R19, R23, R24). -/
theorem startChannel_reads (enabled : Bool) (area : CalArea) (zero : Int) :
    let slot (i : Nat) := memBytes area.slots (32 * i) 32
    let used := (List.range 64).filter (fun i => (slot i).any (fun b => b != 0xFF#8))
    let valid := used.filterMap (fun i => calRecordOf (slot i))
    let c := startChannel enabled area zero
    c.slotsUsed = used.length ∧ c.calCounter = valid.length ∧ (c.calLocked = true ↔ area.lock ≠ 0xFF#8) ∧
    (valid = [] → c.live = none) ∧
    (valid ≠ [] → ∃ r ∈ valid, c.live = some r ∧ ∀ r' ∈ valid, r'.sequence ≤ r.sequence) ∧
    c.zeroOffset = zero ∧ c.state = (if enabled = true then .empty else .disabled) := by
  intro slot used valid c
  have slotsUsed : (calSlots area).length = used.length := by
    rw [calSlots_eq, List.length_map]
    rfl
  have records : (calSlots area).filterMap id = valid := calSlots_valid area
  have counter : c.calCounter = valid.length := congrArg List.length records
  have live : c.live = newestRecord valid := congrArg newestRecord records
  obtain ⟨blank, newest⟩ := newestRecord_spec valid
  exact ⟨slotsUsed, counter, bne_iff_ne, fun no => live.trans (blank no), fun some' => live ▸ newest some', rfl, rfl⟩

/-- The fault status before RUN, apart from the torn entries. -/
theorem started_fault {k : FaultKind} (other : k ≠ .tornFound) (warm : Bool) (decay : List (Nat × Byte)) (s : State) :
    (started warm decay s).fault k = (startFaults warm (startBase warm s)).fault k := by
  obtain ⟨-, faults, -⟩ := started_leaves warm decay s
  exact (fault_congr faults k).trans (startedScan_fault other warm decay s)

theorem started_fault_warm (decay : List (Nat × Byte)) (s : State) :
    (∀ k, k ≠ .tornFound → k ≠ .storeMedia → (started true decay s).fault k = s.fault k) ∧
    (s.faults.length = 11 → (started true decay s).fault .storeMedia =
      if s.storeRecord = true then some ⟨.storeInterrupted, s.clock⟩ else s.fault .storeMedia) := by
  refine ⟨fun k torn media => ?_, fun size => ?_⟩
  · rw [started_fault torn, startFaults, if_pos rfl, warmFaults_fault media]
    rfl
  · rw [started_fault (by decide), startFaults, if_pos rfl, warmFaults_storeMedia (x := startBase true s) size]
    rfl

theorem started_fault_cold (decay : List (Nat × Byte)) (s : State) : ∀ k, k ≠ .tornFound → (started false decay s).fault k =
    if k = .retentionLost ∨ k = .clockUnset ∨ (k = .settingsLost ∧ s.store.valid = none) then some ⟨.none, 0⟩ else none :=
  fun k torn => by
    rw [started_fault torn, startFaults, if_neg Bool.false_ne_true, coldFaults_fault]
    rfl

/-- A start loses the record of an interrupted store write. -/
theorem started_storeRecord (warm : Bool) (decay : List (Nat × Byte)) (s : State) : (started warm decay s).storeRecord = false := by
  obtain ⟨-, -, -, record, -⟩ := started_leaves warm decay s
  obtain ⟨-, -, -, -, -, -, -, -, -, record'⟩ := startedScan_books warm decay s
  rw [record, record']
  cases warm <;> rfl

/-- Settles O24: what the first stage sets, carried through the stages that keep it; ports, channels and faults by their own. -/
theorem startCompletes : Obligations.StartCompletes := by
  refine ⟨warmStart_iff, fun bs size => calRecordOf_eq size, fun _ _ => ⟨rfl, rfl⟩, settings_default, fun retained sense decay s => ?_⟩
  refine ⟨_, exec_start .., ?_⟩
  rw [startPart_run, setMode_frame]
  generalize warmStart retained sense s = warm
  have ports (p : Port) : (setMode .run (started warm decay s)).plainPorts p =
      startPort ((started warm decay s).portSettings p) (s.port p) := by
    rw [plainPorts_setMode, started_plainPorts, State.portSettings, ← (started_keeps warm decay s).settings, ← State.portSettings]
  have keeps := started_keeps warm decay s
  have chan := started_chan warm decay s
  have settlements := started_settlements warm decay s
  have storeRecord := started_storeRecord warm decay s
  have scanned : (started warm decay s).scanned = true := by
    obtain ⟨-, -, scanned, -⟩ := started_leaves warm decay s
    obtain ⟨scanned', -⟩ := startedScan_books warm decay s
    exact scanned.trans scanned'
  obtain ⟨supply, reset, lost, queue, head, pass, storeWrite, -, pe, -, cal, store, -⟩ := startBase_sets warm s
  have tickets : ∀ u ∈ (started warm decay s).tickets, u.claim = none ∧ u.capture = none := by
    cases warm with
    | true => exact unclaimed_started decay s
    | false =>
      obtain ⟨tickets, -⟩ := started_cold decay s
      rw [tickets]
      exact fun u mem => absurd mem List.not_mem_nil
  have retains : warm = true → (started warm decay s).clock = s.clock ∧ (started warm decay s).clockSet = s.clockSet ∧
      (started warm decay s).settings = s.settings ∧ (started warm decay s).tares = s.tares ∧
      (started warm decay s).nextTicket = s.nextTicket := by
    rintro rfl
    obtain ⟨clock, clockSet, settings, tares, nextTicket, -⟩ := startBase_warm s
    exact ⟨keeps.clock.trans clock, keeps.clockSet.trans clockSet, keeps.settings.trans settings, keeps.tares.trans tares,
      keeps.nextTicket.trans nextTicket⟩
  have resets : warm = false → (started warm decay s).clock = 0 ∧ (started warm decay s).clockSet = false ∧
      (started warm decay s).tares = List.replicate 32 none ∧ (started warm decay s).tickets = [] ∧
      (started warm decay s).holds = [] ∧ (started warm decay s).nextTicket = 1 ∧ (started warm decay s).snapshot = none ∧
      (started warm decay s).dirty = false ∧
      (started warm decay s).settings = (match s.store.valid with | some i => loadImage i | none => Settings.default) := by
    rintro rfl
    obtain ⟨clock, clockSet, settings, tares, nextTicket, dirty, -⟩ := startBase_cold s
    obtain ⟨tickets, holds, -, snapshot⟩ := started_cold decay s
    refine ⟨keeps.clock.trans clock, keeps.clockSet.trans clockSet, keeps.tares.trans tares, tickets, holds,
      keeps.nextTicket.trans nextTicket, snapshot, keeps.dirty.trans dirty, (keeps.settings.trans settings).trans ?_⟩
    cases s.store.valid <;> rfl
  have warmFault : warm = true →
      (∀ k, k ≠ .tornFound → k ≠ .storeMedia → (started warm decay s).fault k = s.fault k) ∧
      (s.faults.length = 11 → (started warm decay s).fault .storeMedia =
        if s.storeRecord = true then some ⟨.storeInterrupted, s.clock⟩ else s.fault .storeMedia) := by
    rintro rfl
    exact started_fault_warm decay s
  have coldFault : warm = false → ∀ k, k ≠ .tornFound → (started warm decay s).fault k =
      if k = .retentionLost ∨ k = .clockUnset ∨ (k = .settingsLost ∧ s.store.valid = none) then some ⟨.none, 0⟩ else none := by
    rintro rfl
    exact started_fault_cold decay s
  have powered : (started warm decay s).powered = true := by
    rw [State.powered, keeps.supply, keeps.resetHigh, supply, reset]
    rfl
  have pe' := keeps.pe.trans pe
  generalize setMode .run (started warm decay s) = w at *
  have cal' := keeps.cal.trans cal
  have store' := keeps.store.trans store
  replace lost := keeps.lostSupply.trans lost
  replace queue := keeps.commitQueue.trans queue
  replace head := keeps.head.trans head
  replace pass := keeps.pass.trans pass
  replace storeWrite := keeps.storeWrite.trans storeWrite
  clear keeps
  generalize started warm decay s = z at *
  refine ⟨rfl, powered, lost, queue, head, settlements, pass, scanned, storeWrite, (congrArg PrintEngine.pauseStart pe' :),
    (congrArg PrintEngine.sent pe' :), fun p => ?_, fun sc => ?_, tickets, retains, resets, fun sc => ?_, cal', store', storeRecord,
    ?_, ?_⟩
  · have port := ports p
    exact ⟨congrArg PortCtx.state port, congrArg PortCtx.enabled port, congrArg PortCtx.result port, congrArg PortCtx.overrun port,
      congrArg PortCtx.stream port, congrArg PortCtx.filter port⟩
  · have same : z.chan sc = _ := chan sc
    refine ⟨congrArg Channel.weight same, congrArg Channel.capture same, congrArg Channel.faultCount same,
      congrArg Channel.motion same, ?_⟩
    rw [show (({ z with mode := .run, ports := w.ports } : State).chan sc).state = _ from congrArg Channel.state same]
    cases enabled : (z.scaleSettings sc).enabled
    · exact .inr rfl
    · exact .inl rfl
  · have same : ({ z with mode := .run, ports := w.ports } : State).chan sc = _ := chan sc
    have reads := startChannel_reads (z.scaleSettings sc).enabled (s.cal.get sc) (if warm = true then (s.chan sc).zeroOffset else 0)
    rw [← same] at reads
    exact reads
  · exact warmFault
  · exact coldFault

end Sys2Proof.Machine
end

section
/-! PROOFS. The obligation on reset, the first cold start of a blank part (R175, R195, R208, section 11.6). -/

namespace Sys2Proof.Machine

/-! ## The ports of a part that has just started -/

/-- A port context set up by the first start, with its notices and what its latest frame has put out. -/
def portHeard (q : List Notice) (c : PortCtx) : PortCtx :=
  { PortCtx.reset with queue := q, summaryOut := c.summaryOut, dataOut := c.dataOut }

/-- The four port contexts with the same notices. -/
def portsHeard (q : List Notice) (v : PerPort PortCtx) : PerPort PortCtx :=
  ⟨portHeard q v.s0, portHeard q v.s1, portHeard q v.s2, portHeard q v.s3⟩

theorem hear_portHeard {n : Notice} {q : List Notice} (room : q.length < 8) (new : coalesces n q = false)
    (passes : admits Filter.all n = true) (c : PortCtx) : hear n (portHeard q c) = portHeard (q ++ [n]) c := by
  rw [hear, if_pos (show admits (portHeard q c).filter n = true from passes),
    if_neg (show ¬ coalesces n (portHeard q c).queue = true from Bool.eq_false_iff.mp new), enqueue,
    if_pos (show (portHeard q c).queue.length < 8 from room)]
  rfl

/-- A broadcast that every port hears. -/
theorem broadcast_portsHeard {n : Notice} {q : List Notice} {v : PerPort PortCtx} (room : q.length < 8)
    (new : coalesces n q = false) (passes : admits Filter.all n = true) {s : State} (ports : s.ports = portsHeard q v) :
    broadcast n s = { s with ports := portsHeard (q ++ [n]) v } := by
  have all := hear_portHeard room new passes
  rw [broadcast, ports, portsHeard]
  dsimp only
  rw [all, all, all, all]
  rfl

/-- A fault that appears in a clear and unmasked place of the fault status. -/
theorem setFault_portsHeard {k : FaultKind} {q : List Notice} {v : PerPort PortCtx} {s : State} (clear : s.fault k = none)
    (shown : s.masked k = false) (room : q.length < 8) (clock : s.clock = 0) (ports : s.ports = portsHeard q v) :
    setFault k .none s = { s with
      faults := s.faults.set (faultIndex k) (some ⟨.none, 0⟩)
      firstFault := noteFirstFault k .none 0 s.firstFault
      ports := portsHeard (q ++ [⟨.fault, some (faultIndex k), List.replicate 4 0xFF#8, 0⟩]) v } := by
  rw [setFault, clear, shown]
  refine (congrArg (fun time => broadcast ⟨.fault, some (faultIndex k), faultDetailBytes .none, time⟩ { s with
    faults := s.faults.set (faultIndex k) (some ⟨.none, time⟩), firstFault := noteFirstFault k .none time s.firstFault }) clock).trans ?_
  exact broadcast_portsHeard room rfl rfl ports

/-- A first evaluation of journal space that finds none. -/
theorem evalSpace_portsHeard {q : List Notice} {v : PerPort PortCtx} {s : State} (space : s.space = 0) (low : s.lowFlag = false)
    (room : q.length < 8) (clock : s.clock = 0) (ports : s.ports = portsHeard q v) : evalSpace s = { s with
      lowFlag := true, ports := portsHeard (q ++ [⟨.journalLow, none, [0#8, 0#8], 0⟩]) v } := by
  rw [evalSpace, space, if_pos (by decide), low, if_neg Bool.false_ne_true]
  refine (congrArg (fun time => broadcast ⟨.journalLow, none, beInt 2 0, time⟩ { s with lowFlag := true }) clock).trans ?_
  exact broadcast_portsHeard room rfl rfl ports

/-! ## The blank array -/

theorem sectorBytes_blank {s : State} (blank : s.journal = []) (i : Nat) :
    s.sectorBytes i = List.replicate 16 (List.replicate 256 0xFF#8) := by
  have bytes (slot : Nat) : s.entryBytes i slot = List.replicate 256 0xFF#8 := by
    have reads : (fun k => memRead [] (entryAddr i slot + k)) = fun _ => 0xFF#8 := rfl
    rw [State.entryBytes, blank, memBytes_eq, reads, List.map_const', List.length_range]
  rw [State.sectorBytes, funext bytes]
  exact List.map_const' ..

theorem scanSector_blank : scanSector false (List.replicate 16 (List.replicate 256 0xFF#8)) = .blank := by decide

theorem sector_unchecked :
    (⟨.blankUnchecked, none, 0, (List.replicate 16 (List.replicate 256 0xFF#8)).map markOf,
      (List.replicate 16 (List.replicate 256 0xFF#8)).map kindByte⟩ : Sector) = Sector.unchecked := by decide

theorem scanCases_blank {s : State} (blank : s.journal = []) (done : s.eraseRecord = none) :
    scanCases s = List.replicate 32 .blank := by
  have each (i : Nat) : scanSector (s.eraseRecord == some i) (s.sectorBytes i) = .blank := by
    rw [done, sectorBytes_blank blank]
    exact scanSector_blank
  rw [scanCases, funext each]
  exact List.map_const' ..

theorem scanCases_blank_getD (i : Nat) : (List.replicate 32 ScanCase.blank).getD i .blank = .blank := by
  rw [List.getD_eq_getElem?_getD, List.getElem?_replicate]
  split <;> rfl

section
variable {s : State} (blank : s.journal = []) (done : s.eraseRecord = none)
include blank done

theorem scannedSectors_blank : scannedSectors s = List.replicate 32 Sector.unchecked := by
  have each (i : Nat) : scanRecord (scanCases s) s.settings.firstReceipt (s.sectorBytes i) i = Sector.unchecked := by
    rw [scanCases_blank blank done, sectorBytes_blank blank, scanRecord, scanCases_blank_getD]
    exact sector_unchecked
  rw [scannedSectors, funext each]
  exact List.map_const' ..

theorem tornSlots_blank (i : Nat) : tornSlots ((scanCases s).getD i .blank) (s.sectorBytes i) = [] := by
  rw [scanCases_blank blank done, scanCases_blank_getD]
  rfl

theorem scannedJournal_blank : scannedJournal s = [] := by
  have each (l : List Nat) (m : Memory) :
      l.foldl (fun m i => programTears i (tornSlots ((scanCases s).getD i .blank) (s.sectorBytes i)) m) m = m := by
    induction l generalizing m with
    | nil => rfl
    | cons i l ih =>
      rw [List.foldl_cons, tornSlots_blank blank done]
      exact ih m
  rw [scannedJournal, each, blank]

theorem scannedTorn_blank : scannedTorn s = [] := by
  have each (i : Nat) : tornNumbers { s with sectors := scannedSectors s } (scanCases s) i = [] := by
    rw [tornNumbers]
    exact congrArg (List.map _) (tornSlots_blank blank done i)
  rw [scannedTorn, funext each]
  rfl

end

/-! ## A map with no entries -/

/-- No sector of the map holds entries, and no commit is at work. -/
structure Unwritten (s : State) : Prop where
  sectors : s.sectors = List.replicate 32 Sector.unchecked
  head : s.head = none
  queue : s.commitQueue = []

section
variable {s : State} (h : Unwritten s)
include h

theorem Unwritten.sector (i : Nat) : holdsEntries (s.sector i) = false := by
  rw [State.sector, h.sectors, List.getD_eq_getElem?_getD, List.getElem?_replicate]
  split <;> rfl

theorem Unwritten.extent (i : Nat) : s.extent i = 0 := by
  rw [State.extent, h.sector, if_neg Bool.false_ne_true]

theorem Unwritten.newest : s.newest = none := by
  rw [State.newest]
  simp only [h.extent, Nat.lt_irrefl, if_false]
  rfl

theorem Unwritten.oldest : s.oldest = none := by
  rw [State.oldest]
  simp only [h.extent, Nat.lt_irrefl, if_false]
  rfl

theorem Unwritten.retainedEntries : s.retainedEntries = [] := by
  rw [State.retainedEntries, State.retainedNumbers, h.oldest]
  rfl

theorem Unwritten.settleNewest : settleNewest s = s := by
  rw [Machine.settleNewest, h.newest]
  rfl

theorem Unwritten.backfillAudited : backfillAudited s = s := by
  rw [Machine.backfillAudited, h.retainedEntries]
  rfl

theorem Unwritten.startCounter : startCounter s = { s with counter := s.settings.firstReceipt, exhausted := false } := by
  rw [Machine.startCounter, h.newest]

theorem Unwritten.space : s.space = 0 := by
  have ahead (i : Nat) : aheadState (s.sector i) = false := by
    rw [State.sector, h.sectors, List.getD_eq_getElem?_getD, List.getElem?_replicate]
    split <;> rfl
  have run : s.aheadRun = [] := by
    rw [State.aheadRun, funext ahead]
    cases s.ringAhead <;> rfl
  have free : s.fillingFree = 0 := by
    rw [State.fillingFree, h.sectors]
    rfl
  rw [State.space, run, free, h.queue]
  split <;> rfl

theorem Unwritten.setBacklog : setBacklog s = s := by
  rw [Machine.setBacklog, h.oldest]

theorem Unwritten.rebuildTally : rebuildTally s = { s with tally := Tally.first s.clock, snapshot := none } := by
  rw [Machine.rebuildTally, h.retainedEntries]
  rfl

end

end Sys2Proof.Machine
end

section
/-! PROOFS. The stages of the first cold start, and the obligation on reset (R175, R195, R208, section 11.6). -/

namespace Sys2Proof.Machine

/-- The part of reset with what a start carries over of `s`, and its ports with some notices. -/
def freshPart (q : List Notice) (s : State) : State := { State.reset with
  store := s.store, pending := s.pending, free := s.free, msPhase := s.msPhase, ports := portsHeard q s.ports }

/-- The part in its first start, before its fault status, its map, its scales and its tally are set up. -/
def unstarted (s : State) : State := { freshPart [] s with
  mode := .starting, channels := s.channels.map (fun c => { c with zeroOffset := 0 }), faults := s.faults
  firstFault := s.firstFault, sectors := s.sectors, counter := s.counter, exhausted := s.exhausted, scanned := false
  lowFlag := false, tally := s.tally }

theorem startBase_blank {s : State} (blank : s.journal = []) (areas : s.cal = ⟨CalArea.blank, CalArea.blank, CalArea.blank⟩)
    (invalid : s.store.valid = none) : startBase false s = unstarted s := by
  have settings : (clearVolatile s).store.valid.elim Settings.default loadImage = Settings.default := by
    rw [show (clearVolatile s).store.valid = none from invalid, Option.elim_none]
  rw [startBase, if_neg Bool.false_ne_true, coldValues, settings, clearVolatile, blank, areas]
  rfl

/-- The three faults of a cold start with an invalid store. -/
theorem coldFaults_blank {s x : State} (invalid : x.store.valid = none) (clock : x.clock = 0) (settings : x.settings = Settings.default)
    (ports : x.ports = portsHeard [] s.ports) : coldFaults x = { x with
      faults := State.reset.faults, firstFault := State.reset.firstFault, ports := portsHeard (resetQueue.take 3) s.ports } := by
  have shown (y : State) (same : y.settings = Settings.default) (k : FaultKind) : y.masked k = false := by
    rw [State.masked, same]
    cases k <;> rfl
  let clear : State := { x with faults := List.replicate 11 none, firstFault := none }
  have one := setFault_portsHeard (k := .retentionLost) (q := []) (s := clear) (v := s.ports) rfl
    (shown clear settings _) (by decide) clock ports
  have two := setFault_portsHeard (k := .clockUnset) (s := { clear with
      faults := clear.faults.set 9 (some ⟨.none, 0⟩), firstFault := some ⟨.retentionLost, .none, 0, false⟩
      ports := portsHeard (resetQueue.take 1) s.ports }) (v := s.ports) rfl (shown _ settings _) (by decide) clock rfl
  have three := setFault_portsHeard (k := .settingsLost) (s := { clear with
      faults := (clear.faults.set 9 (some ⟨.none, 0⟩)).set 10 (some ⟨.none, 0⟩)
      firstFault := some ⟨.retentionLost, .none, 0, true⟩, ports := portsHeard (resetQueue.take 2) s.ports })
    (v := s.ports) rfl (shown _ settings _) (by decide) clock rfl
  rw [coldFaults_eq, coldFaulted, invalid, Option.isNone_none, if_pos rfl]
  refine (congrArg (fun y => setFault .settingsLost .none (setFault .clockUnset .none y)) one).trans ?_
  exact (congrArg (setFault .settingsLost .none) two).trans three

/-- The scan of a blank array, with an evaluation of journal space. -/
theorem scanJournal_blank {v : PerPort PortCtx} {x : State} (blank : x.journal = []) (done : x.eraseRecord = none) (head : x.head = none)
    (queue : x.commitQueue = []) (low : x.lowFlag = false) (clock : x.clock = 0)
    (ports : x.ports = portsHeard (resetQueue.take 3) v) : scanJournal false [] x = { x with
      scanned := true, sectors := List.replicate 32 Sector.unchecked, counter := x.settings.firstReceipt, exhausted := false
      lowFlag := true, ports := portsHeard (resetQueue.take 4) v } := by
  have same : { x with journal := memDecay x.journal 0 131072 [] } = x := rfl
  have read : arrayRead x = { x with scanned := true, sectors := List.replicate 32 Sector.unchecked } := by
    rw [arrayRead, scannedSectors_blank blank done, scannedJournal_blank blank done, ← blank]
  have unwritten : Unwritten (arrayRead x) := read ▸ ⟨rfl, head, queue⟩
  let counted : State := { x with
    scanned := true, sectors := List.replicate 32 Sector.unchecked, counter := x.settings.firstReceipt, exhausted := false }
  have count : startCounter (arrayRead x) = counted := by
    rw [unwritten.startCounter, read]
  have unwritten' : Unwritten counted := ⟨rfl, head, queue⟩
  have untorn : reportTorn false [] (arrayRead x) = arrayRead x := rfl
  rw [scanJournal_eq, same, scannedTorn_blank blank done, untorn, unwritten.settleNewest, unwritten.backfillAudited, count,
    evalSpace_portsHeard (s := counted) (v := v) unwritten'.space low (by decide) clock ports, restartErase]
  dsimp only [counted]
  rw [done]
  rfl

/-- The notice of a scale that the start takes out of FAULT. -/
def leftNotice (sc : Scale) : Notice := ⟨.scaleState, some (scaleCode sc), [1#8, 0#8], 0⟩

/-- What a start tells of one scale. -/
def leftOf (was : PerScale Channel) (sc : Scale) : List Notice := if (was.get sc).state = .fault then [leftNotice sc] else []

/-- One scale that was in FAULT tells every port, in its turn. -/
theorem offerLeft_portsHeard {was : PerScale Channel} {sc : Scale} {q : List Notice} {v : PerPort PortCtx} {x : State}
    (fresh : x.chan sc = Channel.fresh) (clock : x.clock = 0) (room : q.length < 8)
    (new : coalesces (leftNotice sc) q = false) (ports : x.ports = portsHeard q v) :
    offerLeft was x sc = { x with ports := portsHeard (q ++ leftOf was sc) v } := by
  rw [offerLeft, leftOf]
  split
  · have notice : offerScaleState sc x = broadcast (leftNotice sc) x := by
      rw [offerScaleState, fresh, clock]
      rfl
    rw [notice, broadcast_portsHeard room new (by cases sc <;> rfl) ports]
  · rw [List.append_nil, ← ports]

/-- The notices of the scales that were in FAULT, in the order A, B, P. -/
def leftNotices (was : PerScale Channel) : List Notice :=
  ([Scale.a, .b, .p].filter (fun sc => (was.get sc).state = .fault)).map leftNotice

theorem leftNotices_eq (was : PerScale Channel) : leftNotices was = leftOf was .a ++ leftOf was .b ++ leftOf was .p := by
  rw [leftNotices, leftOf, leftOf, leftOf, List.filter_cons, List.filter_cons, List.filter_cons, List.filter_nil]
  simp only [decide_eq_true_eq]
  split <;> split <;> split <;> rfl

theorem startScales_blank {v : PerPort PortCtx} {x : State} (areas : x.cal = ⟨CalArea.blank, CalArea.blank, CalArea.blank⟩)
    (settings : x.settings = Settings.default) (zero : ∀ sc, (x.chan sc).zeroOffset = 0) (clock : x.clock = 0)
    (ports : x.ports = portsHeard (resetQueue.take 4) v) : startScales x = { x with
      channels := State.reset.channels, ports := portsHeard (resetQueue.take 4 ++ leftNotices x.channels) v } := by
  have fresh (sc : Scale) : startedChannel x sc = Channel.fresh := by
    rw [startedChannel, zero, areas, State.scaleSettings, settings]
    cases sc <;> decide
  have scales : startScales x = allScales.foldl (offerLeft x.channels)
      { x with channels := ⟨startedChannel x .a, startedChannel x .b, startedChannel x .p⟩ } := rfl
  let q := resetQueue.take 4
  let was := x.channels
  let y (q : List Notice) : State := { x with channels := State.reset.channels, ports := portsHeard q v }
  have new (q : List Notice) (sc sc' : Scale) (other : sc ≠ sc') (unheard : coalesces (leftNotice sc) q = false) :
      coalesces (leftNotice sc) (q ++ leftOf was sc') = false := by
    rw [leftOf]
    split
    · cases sc <;> cases sc' <;> simp_all [coalesces, leftNotice, scaleCode]
    · rwa [List.append_nil]
  have begun : { x with channels := ⟨Channel.fresh, Channel.fresh, Channel.fresh⟩ } = y q := by
    exact congrArg (fun ports => { x with channels := State.reset.channels, ports := ports }) ports
  have one : offerLeft was (y q) .a = y (q ++ leftOf was .a) := offerLeft_portsHeard rfl clock (by decide) rfl rfl
  have two : offerLeft was (y (q ++ leftOf was .a)) .b = y (q ++ leftOf was .a ++ leftOf was .b) :=
    offerLeft_portsHeard rfl clock (by rw [leftOf]; split <;> decide) (new _ _ _ (by decide) rfl) rfl
  have three : offerLeft was (y (q ++ leftOf was .a ++ leftOf was .b)) .p = y (q ++ leftOf was .a ++ leftOf was .b ++ leftOf was .p) :=
    offerLeft_portsHeard rfl clock (by rw [leftOf, leftOf]; split <;> split <;> decide)
      (new _ _ _ (by decide) (new _ _ _ (by decide) rfl)) rfl
  rw [scales, fresh, fresh, fresh, begun, leftNotices_eq, ← List.append_assoc, ← List.append_assoc]
  exact (congrArg (fun z => offerLeft was (offerLeft was z .b) .p) one).trans ((congrArg (fun z => offerLeft was z .p) two).trans three)

/-- The part of the first start with its fault status. -/
def unscanned (s : State) : State := { unstarted s with
  faults := State.reset.faults, firstFault := State.reset.firstFault, ports := portsHeard (resetQueue.take 3) s.ports }

/-- The part of the first start with the map of its blank array. -/
def unscaled (s : State) : State := { freshPart (resetQueue.take 4) s with
  mode := .starting, channels := s.channels.map (fun c => { c with zeroOffset := 0 }), tally := s.tally }

/-- The part of the first start in its last stage, with some tally. -/
def unopened (t : Tally) (s : State) : State :=
  { freshPart (resetQueue.take 4 ++ leftNotices s.channels) s with mode := .starting, tally := t }

/-- The first start of a blank part, before RUN. -/
theorem started_blank {s : State} (blank : s.journal = []) (areas : s.cal = ⟨CalArea.blank, CalArea.blank, CalArea.blank⟩)
    (invalid : s.store.valid = none) : started false [] s = unopened (Tally.first 0) s := by
  have zero (sc : Scale) : ((unscaled s).chan sc).zeroOffset = 0 := by cases sc <;> rfl
  have unwritten : Unwritten (unopened s.tally s) := ⟨rfl, rfl, rfl⟩
  have faults : coldFaults (unstarted s) = unscanned s := coldFaults_blank (s := s) invalid rfl rfl rfl
  have scan : scanJournal false [] (unscanned s) = unscaled s := scanJournal_blank (v := s.ports) rfl rfl rfl rfl rfl rfl rfl
  have scales : startScales (unscaled s) = unopened s.tally s := startScales_blank (v := s.ports) rfl rfl zero rfl rfl
  rw [started, startFaults, if_neg Bool.false_ne_true, startQueue, if_neg Bool.false_ne_true, startBase_blank blank areas invalid,
    faults, scan, scales, startBooks_cold, unwritten.setBacklog]
  exact unwritten.rebuildTally

/-- Settles O7, stage by stage: the faults, the scan of a blank array, the scales, the tally and the change to RUN. -/
theorem resetIsFirstColdStart : Obligations.ResetIsFirstColdStart := by
  intro retained sense s _ cold blank areas invalid left port
  have room : (resetQueue.take 4 ++ leftNotices s.channels).length < 8 := by
    have few : (leftNotices s.channels).length ≤ 3 := by
      rw [leftNotices, List.length_map]
      exact List.length_filter_le ..
    rw [List.length_append]
    exact Nat.lt_of_le_of_lt (Nat.add_le_add_left few _) (by decide)
  have run : setMode .run (unopened (Tally.first 0) s) =
      freshPart (resetQueue.take 4 ++ leftNotices s.channels ++ resetQueue.drop 4) s :=
    broadcast_portsHeard (n := ⟨.modeChange, none, [0#8, 1#8], 0⟩) (v := s.ports)
      (s := { unopened (Tally.first 0) s with mode := .run }) room rfl rfl rfl
  rw [exec_start, startPart_run, cold, started_blank blank areas invalid, run]
  rfl

end Sys2Proof.Machine
end

section
/-! PROOFS. What the start-up scan reads of the array, and the entries that it marks TORN (R119, R141). -/

namespace Sys2Proof.Machine

/-! ## The entries of a sector -/

/-- The 256 bytes of a place in some array contents. -/
abbrev entryIn (m : Memory) (i k : Nat) : List Byte := memBytes m (entryAddr i k) 256

theorem sectorBytes_eq (s : State) (i : Nat) : s.sectorBytes i = (List.range 16).map (entryIn s.journal i) := rfl

theorem sectorBytes_getElem? {s : State} {i k : Nat} (inside : k < 16) : (s.sectorBytes i)[k]? = some (entryIn s.journal i k) := by
  rw [sectorBytes_eq, List.getElem?_map, List.getElem?_range inside]
  rfl

theorem sectorBytes_getD {s : State} {i k : Nat} (inside : k < 16) : (s.sectorBytes i).getD k [] = entryIn s.journal i k := by
  rw [List.getD_eq_getElem?_getD, sectorBytes_getElem? inside, Option.getD_some]

theorem sectorBytes_length (s : State) (i : Nat) : (s.sectorBytes i).length = 16 := by
  rw [sectorBytes_eq, List.length_map, List.length_range]

theorem map_sectorBytes {α : Type} (f : List Byte → α) (s : State) (i : Nat) :
    (s.sectorBytes i).map f = (List.range 16).map (fun k => f (entryIn s.journal i k)) := by
  rw [sectorBytes_eq, List.map_map]
  rfl

/-- A sector has an entry that reads all bits cleared (R141 case 2). -/
abbrev readsBad (m : Memory) (i : Nat) : Prop := ∃ k ∈ List.range 16, (entryIn m i k).headD 0xFF#8 = 0x00#8

theorem any_sectorBytes_bad (s : State) (i : Nat) :
    (s.sectorBytes i).any (fun e => e.headD 0xFF#8 == 0x00#8) = true ↔ readsBad s.journal i := by
  rw [sectorBytes_eq, List.any_map, List.any_eq_true]
  simp only [Function.comp_apply, beq_iff_eq]

theorem slotBlank_iff (e : List Byte) : slotBlank e = true ↔ markOf e = .blank := beq_iff_eq

theorem all_sectorBytes_blank (s : State) (i : Nat) :
    (s.sectorBytes i).all slotBlank = true ↔ ∀ k, k < 16 → markOf (entryIn s.journal i k) = .blank := by
  rw [sectorBytes_eq, List.all_map, List.all_eq_true]
  simp only [Function.comp_apply, slotBlank_iff, List.mem_range]

/-! ## The entries used of a sector (R141) -/

theorem scanUsed_le (es : List (List Byte)) : scanUsed es ≤ es.length := Nat.sub_le ..

/-- Every slot from the entries used on reads blank. -/
theorem scanUsed_blank {es : List (List Byte)} {k : Nat} {e : List Byte} (above : scanUsed es ≤ k) (at' : es[k]? = some e) :
    slotBlank e = true := by
  obtain ⟨inside, rfl⟩ := List.getElem?_eq_some_iff.mp at'
  have all := List.mem_takeWhile_imp (p := slotBlank) (l := es.reverse) (x := es[k])
  refine all ?_
  rw [scanUsed] at above
  have place : es.length - 1 - k < (es.reverse.takeWhile slotBlank).length := by omega
  have heads := List.takeWhile_prefix slotBlank (l := es.reverse)
  have same : (es.reverse.takeWhile slotBlank)[es.length - 1 - k] = es[k] := by
    rw [heads.getElem place, List.getElem_reverse]
    congr 1
    omega
  exact same ▸ List.getElem_mem place

/-- The entries used end with a slot that is not blank. -/
theorem scanUsed_eq {es : List (List Byte)} {k : Nat} {e : List Byte} (at' : es[k]? = some e) (last : slotBlank e = false)
    (blank : ∀ l e', k < l → es[l]? = some e' → slotBlank e' = true) : scanUsed es = k + 1 := by
  obtain ⟨inside, rfl⟩ := List.getElem?_eq_some_iff.mp at'
  have split : es = es.take k ++ es[k] :: es.drop (k + 1) := by
    rw [List.getElem_cons_drop, List.take_append_drop]
  have blanks : (es.drop (k + 1)).reverse.takeWhile slotBlank = (es.drop (k + 1)).reverse := by
    rw [List.takeWhile_eq_self_iff]
    intro x mem
    obtain ⟨n, found⟩ := List.getElem?_of_mem (List.mem_reverse.mp mem)
    rw [List.getElem?_drop] at found
    exact blank (k + 1 + n) x (by omega) found
  have run : es.reverse.takeWhile slotBlank = (es.drop (k + 1)).reverse := by
    conv_lhs => rw [split]
    rw [List.reverse_append, List.reverse_cons, List.append_assoc, List.takeWhile_append, blanks, if_pos rfl, List.singleton_append,
      List.takeWhile_cons_of_neg (Bool.eq_false_iff.mp last), List.append_nil]
  rw [scanUsed, run, List.length_reverse, List.length_drop]
  omega

/-! ## The entries that the scan marks TORN (R141) -/

theorem scanTears_iff (e : List Byte) : scanTears e = true ↔
    markOf e = .started ∨ ((markOf e = .complete ∨ markOf e = .printed) ∧ ¬ bodyHolds e = true) := by
  simp only [scanTears, Bool.or_eq_true, Bool.and_eq_true, beq_iff_eq, Bool.not_eq_true', Bool.not_eq_true]

theorem scanTears_blank {e : List Byte} (blank : slotBlank e = true) : scanTears e = false := by
  rw [slotBlank_iff] at blank
  rw [scanTears, blank]
  rfl

theorem filter_range_shorter {p : Nat → Bool} {n k : Nat} (fits : n ≤ k) (none' : ∀ i, n ≤ i → i < k → p i = false) :
    (List.range n).filter p = (List.range k).filter p := by
  obtain ⟨d, rfl⟩ := Nat.exists_eq_add_of_le fits
  rw [List.range_add, List.filter_append, List.filter_map]
  have rest : (List.range d).filter (p ∘ (n + ·)) = [] := by
    refine List.filter_eq_nil_iff.mpr fun i mem => ?_
    have low := List.mem_range.mp mem
    rw [Function.comp_apply, none' (n + i) (by omega) (by omega)]
    exact Bool.false_ne_true
  rw [rest, List.map_nil, List.append_nil]

theorem scanCases_getD {s : State} {i : Nat} (inside : i < 32) :
    (scanCases s).getD i .blank = scanSector (s.eraseRecord == some i) (s.sectorBytes i) := by
  rw [scanCases, List.getD_eq_getElem?_getD, List.getElem?_map, sectorIndexes, List.getElem?_range inside]
  rfl

/-- The slots that the scan marks TORN: none in a sector whose erase was in progress and in one that is BAD. -/
theorem tornSlots_eq {s : State} {i : Nat} (inside : i < 32) : tornSlots ((scanCases s).getD i .blank) (s.sectorBytes i) =
    if s.eraseRecord = some i ∨ readsBad s.journal i then []
    else (List.range 16).filter (fun k => scanTears (entryIn s.journal i k)) := by
  have entries : (List.range 16).filter (fun k => scanTears ((s.sectorBytes i).getD k [])) =
      (List.range 16).filter (fun k => scanTears (entryIn s.journal i k)) :=
    List.filter_congr fun k mem => by rw [sectorBytes_getD (List.mem_range.mp mem)]
  rw [scanCases_getD inside, scanSector]
  by_cases erasing : s.eraseRecord = some i
  · rw [if_pos (beq_iff_eq.mpr erasing), if_pos (.inl erasing)]
    rfl
  rw [if_neg (fun h => erasing (beq_iff_eq.mp h))]
  by_cases bad : readsBad s.journal i
  · rw [if_pos ((any_sectorBytes_bad s i).mpr bad), if_pos (.inr bad)]
    rfl
  have scanned : ¬ (s.eraseRecord = some i ∨ readsBad s.journal i) := not_or.mpr ⟨erasing, bad⟩
  rw [if_neg (fun h => bad ((any_sectorBytes_bad s i).mp h)), if_neg scanned, ← entries]
  by_cases blank : (s.sectorBytes i).all slotBlank = true
  · rw [if_pos blank]
    refine (List.filter_eq_nil_iff.mpr fun k mem => ?_).symm
    rw [sectorBytes_getD (List.mem_range.mp mem)]
    rw [all_sectorBytes_blank] at blank
    rw [scanTears_blank ((slotBlank_iff _).mpr (blank k (List.mem_range.mp mem)))]
    exact Bool.false_ne_true
  · rw [if_neg blank]
    refine filter_range_shorter ((scanUsed_le _).trans_eq (sectorBytes_length s i)) fun k above low => ?_
    rw [sectorBytes_getD low]
    exact scanTears_blank (scanUsed_blank above (sectorBytes_getElem? low))

/-- The places that the scan marks TORN, in the order of the array. -/
theorem tornPlaces_eq (s : State) : tornPlaces s.eraseRecord s.journal =
    sectorIndexes.flatMap (fun i => (tornSlots ((scanCases s).getD i .blank) (s.sectorBytes i)).map (fun k => (i, k))) := by
  refine List.flatMap_congr fun i mem => ?_
  dsimp only
  rw [tornSlots_eq (List.mem_range.mp mem)]
  split
  · rfl
  · refine congrArg _ (List.filter_congr fun k _ => ?_)
    rw [Bool.eq_iff_iff, decide_eq_true_eq, scanTears_iff]

theorem mem_tornPlaces {s : State} {i k : Nat} (inside : i < 32) : (i, k) ∈ tornPlaces s.eraseRecord s.journal ↔
    s.eraseRecord ≠ some i ∧ ¬ readsBad s.journal i ∧ k < 16 ∧ scanTears (entryIn s.journal i k) = true := by
  rw [tornPlaces_eq, List.mem_flatMap]
  have own : (∃ j ∈ sectorIndexes, (i, k) ∈ (tornSlots ((scanCases s).getD j .blank) (s.sectorBytes j)).map (fun k => (j, k))) ↔
      k ∈ tornSlots ((scanCases s).getD i .blank) (s.sectorBytes i) := by
    constructor
    · rintro ⟨j, -, mem⟩
      obtain ⟨k', mem', same⟩ := List.mem_map.mp mem
      obtain ⟨rfl, rfl⟩ := Prod.mk.inj same
      exact mem'
    · exact fun mem => ⟨i, List.mem_range.mpr inside, List.mem_map.mpr ⟨k, mem, rfl⟩⟩
  rw [own, tornSlots_eq inside]
  split
  · rename_i skipped
    exact iff_of_false List.not_mem_nil fun h => skipped.elim h.1 h.2.1
  · rename_i scanned
    rw [List.mem_filter, List.mem_range]
    exact ⟨fun h => ⟨fun e => scanned (.inl e), fun b => scanned (.inr b), h⟩, fun h => h.2.2⟩

/-! ## The array after the scan (R141) -/

/-- TORN is programmed on the entries at some places. -/
def tearsAt (places : List (Nat × Nat)) (m : Memory) : Memory :=
  places.foldl (fun m x => memProgram m (entryAddr x.1 x.2) [0x6F#8] [] []) m

theorem memRead_program_byte {m : Memory} (wf : m.wf = true) (a y : Nat) (b : Byte) :
    memRead (memProgram m a [b] [] []) y = if y = a then memRead m y &&& b else memRead m y := by
  by_cases own : y = a
  · subst own
    have inside := memRead_memProgram_inside wf y [b] [] [] (i := 0) Nat.zero_lt_one
    rw [Nat.add_zero] at inside
    rw [if_pos rfl, inside, List.getD_cons_zero, List.getD_nil, BitVec.or_zero, show ~~~(0#8) = BitVec.allOnes 8 from rfl,
      BitVec.and_allOnes]
  · rw [if_neg own, memRead_memProgram_outside]
    rw [List.length_singleton]
    omega

theorem memRead_tearsAt (places : List (Nat × Nat)) {m : Memory} (wf : m.wf = true) (y : Nat) : memRead (tearsAt places m) y =
    if ∃ x ∈ places, y = entryAddr x.1 x.2 then memRead m y &&& 0x6F#8 else memRead m y := by
  induction places generalizing m with
  | nil => rw [if_neg (fun ⟨x, mem, _⟩ => absurd mem List.not_mem_nil)]; rfl
  | cons x places ih =>
    have first : tearsAt (x :: places) m = tearsAt places (memProgram m (entryAddr x.1 x.2) [0x6F#8] [] []) := rfl
    rw [first, ih (wf_memProgram wf ..), memRead_program_byte wf]
    have members : (∃ z ∈ x :: places, y = entryAddr z.1 z.2) ↔ y = entryAddr x.1 x.2 ∨ ∃ z ∈ places, y = entryAddr z.1 z.2 := by
      simp only [List.mem_cons, exists_eq_or_imp]
    by_cases own : y = entryAddr x.1 x.2
    · rw [if_pos own, if_pos (members.mpr (.inl own))]
      split
      · rw [BitVec.and_assoc, BitVec.and_self]
      · rfl
    · rw [if_neg own, if_congr (members.trans (or_iff_right own)) rfl rfl]

theorem programTears_eq (i : Nat) (slots : List Nat) (m : Memory) :
    programTears i slots m = tearsAt (slots.map (fun k => (i, k))) m := by
  rw [tearsAt, List.foldl_map]
  rfl

theorem scannedJournal_eq (s : State) : scannedJournal s = tearsAt (tornPlaces s.eraseRecord s.journal) s.journal := by
  rw [tornPlaces_eq, tearsAt, List.foldl_flatMap, scannedJournal]
  simp only [programTears_eq]
  rfl

end Sys2Proof.Machine
end

section
/-! PROOFS. The map that the start-up scan reads of the array (R141). -/

namespace Sys2Proof.Machine

/-- The record of a sector as the scan reads it. -/
def scannedSector (s : State) (i : Nat) : Sector := scanRecord (scanCases s) s.settings.firstReceipt (s.sectorBytes i) i

theorem scannedSectors_sector {s t : State} (read : t.sectors = scannedSectors s) {i : Nat} (inside : i < 32) :
    t.sector i = scannedSector s i := by
  rw [State.sector, read, scannedSectors, List.getD_eq_getElem?_getD, List.getElem?_map, sectorIndexes, List.getElem?_range inside]
  rfl

theorem scannedSectors_length (s : State) : (scannedSectors s).length = 32 := by
  rw [scannedSectors, List.length_map, sectorIndexes, List.length_range]

section
variable {s : State} {i : Nat}

/-- Whatever its case, the record of a sector has the marks and the kinds of its 16 entries. -/
theorem scannedSector_marks_kinds : (scannedSector s i).marks.length = 16 ∧
    (scannedSector s i).kinds = (s.sectorBytes i).map kindByte := by
  rw [scannedSector, scanRecord]
  split <;> exact ⟨by rw [List.length_map, sectorBytes_length], rfl⟩

theorem scannedSector_kinds : (scannedSector s i).kinds = (List.range 16).map (fun k => (entryIn s.journal i k).getD 5 0#8) := by
  obtain ⟨-, kinds⟩ := scannedSector_marks_kinds (s := s) (i := i)
  rw [kinds, map_sectorBytes]
  refine List.map_congr_left fun k _ => kindByte_eq ?_
  rw [entryIn, memBytes_eq, List.length_map, List.length_range]

variable (inside : i < 32)
include inside

theorem scannedSector_erasing (erasing : s.eraseRecord = some i) : (scannedSector s i).state = .erasing := by
  rw [scannedSector, scanRecord, scanCases_getD inside, scanSector, if_pos (beq_iff_eq.mpr erasing)]

variable (other : s.eraseRecord ≠ some i)
include other

theorem scannedSector_bad (bad : readsBad s.journal i) : (scannedSector s i).state = .bad := by
  rw [scannedSector, scanRecord, scanCases_getD inside, scanSector, if_neg (fun h => other (beq_iff_eq.mp h)),
    if_pos ((any_sectorBytes_bad s i).mpr bad)]

variable (good : ¬ readsBad s.journal i)
include good

theorem scannedSector_blank (blank : ∀ k, k < 16 → markOf (entryIn s.journal i k) = .blank) :
    (scannedSector s i).state = .blankUnchecked := by
  rw [scannedSector, scanRecord, scanCases_getD inside, scanSector, if_neg (fun h => other (beq_iff_eq.mp h)),
    if_neg (fun h => good ((any_sectorBytes_bad s i).mp h)), if_pos ((all_sectorBytes_blank s i).mpr blank)]

/-- A sector with an entry that is not blank, as the scan reads it (R141 case 4). -/
theorem scannedSector_entries {k : Nat} (low : k < 16) (used : markOf (entryIn s.journal i k) ≠ .blank) : scannedSector s i =
    ⟨.full, some ((scanFirst (s.sectorBytes i)).getD (guessFirst (scanCases s) i s.settings.firstReceipt)), scanUsed (s.sectorBytes i),
      (s.sectorBytes i).map (fun e => if scanTears e then .torn else markOf e), (s.sectorBytes i).map kindByte⟩ := by
  have some' : ¬ (s.sectorBytes i).all slotBlank = true := fun h => used ((all_sectorBytes_blank s i).mp h k low)
  rw [scannedSector, scanRecord, scanCases_getD inside, scanSector, if_neg (fun h => other (beq_iff_eq.mp h)),
    if_neg (fun h => good ((any_sectorBytes_bad s i).mp h)), if_neg some']

end

/-- The lowest header that holds gives the first number (R141 case 4). -/
theorem scanFirst_eq {es : List (List Byte)} {l : Nat} {e : List Byte} (at' : es[l]? = some e) (holds : headerHolds e = true)
    (lowest : ∀ d e', d < l → es[d]? = some e' → headerHolds e' = false) : scanFirst es = some (entryNat e 1 4 - l) := by
  obtain ⟨inside, rfl⟩ := List.getElem?_eq_some_iff.mp at'
  have found : es.zipIdx.find? (fun e => headerHolds e.1) = some (es[l], l) := by
    refine List.find?_eq_some_iff_getElem.mpr ⟨holds, l, by rwa [List.length_zipIdx], by rw [List.getElem_zipIdx, Nat.zero_add], ?_⟩
    intro d low
    rw [List.getElem_zipIdx, Bool.not_eq_true']
    exact lowest d _ low (List.getElem?_eq_getElem (by omega))
  rw [scanFirst, found]
  rfl

end Sys2Proof.Machine
end

section
/-! PROOFS. The map as the start-up scan settles it: the newest sector, and the entries taken as AUDITED (R142). -/

namespace Sys2Proof.Machine

/-! ## Maps with the same entries -/

/-- The sectors of two maps hold entries of the same numbers, and kinds. -/
structure SameEntries (s t : State) : Prop where
  holds : ∀ i, holdsEntries (t.sector i) = holdsEntries (s.sector i)
  first : ∀ i, (t.sector i).first = (s.sector i).first
  used : ∀ i, (t.sector i).used = (s.sector i).used
  kinds : ∀ i, (t.sector i).kinds = (s.sector i).kinds
  head : t.head = s.head

theorem SameEntries.trans {s t u : State} (h : SameEntries s t) (k : SameEntries t u) : SameEntries s u :=
  ⟨fun i => (k.holds i).trans (h.holds i), fun i => (k.first i).trans (h.first i), fun i => (k.used i).trans (h.used i),
    fun i => (k.kinds i).trans (h.kinds i), k.head.trans h.head⟩

theorem SameMap.entries {s t : State} (h : SameMap s t) : SameEntries s t :=
  ⟨fun i => by rw [h.sector], fun i => by rw [h.sector], fun i => by rw [h.sector], fun i => by rw [h.sector], h.head⟩

section
variable {s t : State} (h : SameEntries s t)
include h

theorem SameEntries.extent (i : Nat) : t.extent i = s.extent i := by
  rw [State.extent, State.inProgress, h.holds, h.used, h.head, State.extent, State.inProgress]

theorem SameEntries.places (n : Nat) : t.places n = s.places n := by
  simp only [State.places, State.slotIn, inSector, h.holds, h.first, h.extent]
  rfl

theorem SameEntries.lookup (n : Nat) : t.lookup n = s.lookup n := by rw [State.lookup, h.places, State.lookup]

theorem SameEntries.newest : t.newest = s.newest := by simp only [State.newest, h.first, h.extent]

theorem SameEntries.oldest : t.oldest = s.oldest := by simp only [State.oldest, h.first, h.extent]

theorem SameEntries.retainedNumbers : t.retainedNumbers = s.retainedNumbers := by
  simp only [State.retainedNumbers, h.oldest, h.newest, h.lookup]

theorem SameEntries.retainedEntries : t.retainedEntries = s.retainedEntries := by
  simp only [State.retainedEntries, h.retainedNumbers, h.places]

end

/-! ## The sector of the newest entry (R142) -/

theorem sector_updSector (s : State) (i : Nat) (f : Sector → Sector) (k : Nat) : (s.updSector i f).sector k =
    if k = i ∧ i < s.sectors.length then f (s.sector i) else s.sector k := by
  have set : (s.updSector i f).sectors = s.sectors.set i (f (s.sector i)) := rfl
  rw [State.sector, set, List.getD_eq_getElem?_getD, List.getElem?_set]
  by_cases own : k = i
  · subst own
    by_cases inside : k < s.sectors.length
    · rw [if_pos rfl, if_pos inside, if_pos ⟨rfl, inside⟩, Option.getD_some]
    · rw [if_pos rfl, if_neg inside, if_neg (fun h => inside h.2), State.sector, List.getD_eq_getElem?_getD,
        List.getElem?_eq_none (Nat.le_of_not_lt inside)]
  · rw [if_neg (Ne.symm own), if_neg (fun h => own h.1), State.sector, List.getD_eq_getElem?_getD]

/-- The sector of the newest retained entry. -/
def State.newestSector (s : State) : Option Nat := (s.newest.bind s.lookup).map Prod.fst

theorem newestSector_holds {s : State} {i : Nat} (newest : s.newestSector = some i) : i < 32 ∧ holdsEntries (s.sector i) = true := by
  obtain ⟨⟨i', slot⟩, found, rfl⟩ := Option.map_eq_some_iff.mp newest
  obtain ⟨n, -, place⟩ := Option.bind_eq_some_iff.mp found
  obtain ⟨inside, -, holds, -⟩ := mem_places.mp ((lookup_spec s n).2 _ place)
  exact ⟨inside, holds⟩

theorem SameEntries.newestSector {s t : State} (h : SameEntries s t) : t.newestSector = s.newestSector := by
  rw [State.newestSector, h.newest, funext h.lookup, State.newestSector]

theorem settleNewest_eq (s : State) : settleNewest s = s.newestSector.elim s (fun i =>
    s.updSector i (fun c => { c with state := if c.used < 16 then .filling else .full })) := by
  rw [settleNewest, State.newestSector]
  cases s.newest.bind s.lookup <;> rfl

/-- The records after the newest sector is known. -/
theorem settleNewest_sector {s : State} (size : s.sectors.length = 32) (i : Nat) : (settleNewest s).sector i =
    if s.newestSector = some i then { s.sector i with state := if (s.sector i).used < 16 then .filling else .full } else s.sector i := by
  rw [settleNewest_eq]
  cases newest : s.newestSector with
  | none => exact (if_neg nofun).symm
  | some j =>
    obtain ⟨inside, -⟩ := newestSector_holds newest
    rw [Option.elim_some, sector_updSector]
    by_cases own : i = j
    · rw [if_pos ⟨own, size ▸ inside⟩, if_pos (congrArg some own.symm), own]
    · rw [if_neg (fun h => own h.1), if_neg (fun h => own (Option.some_inj.mp h).symm)]

theorem settleNewest_entries {s : State} (size : s.sectors.length = 32) : SameEntries s (settleNewest s) := by
  refine ⟨fun i => ?_, fun i => ?_, fun i => ?_, fun i => ?_, by rw [(mapStep_settleNewest s).frame]⟩
  · rw [settleNewest_sector size]
    split
    · rename_i newest
      obtain ⟨-, holds⟩ := newestSector_holds newest
      rw [holds, holdsEntries]
      dsimp only
      split <;> rfl
    · rfl
  all_goals
    rw [settleNewest_sector size]
    split <;> rfl

theorem settleNewest_marks {s : State} (size : s.sectors.length = 32) (i : Nat) :
    ((settleNewest s).sector i).marks = (s.sector i).marks := by
  rw [settleNewest_sector size]
  split <;> rfl

/-! ## The entries taken as AUDITED (R142) -/

/-- Only marks differ between two maps. -/
structure Remarked (s t : State) : Prop where
  sector : ∀ i, ∃ marks, t.sector i = { s.sector i with marks := marks }
  head : t.head = s.head

theorem Remarked.refl (s : State) : Remarked s s := ⟨fun i => ⟨(s.sector i).marks, rfl⟩, rfl⟩

theorem Remarked.trans {s t u : State} (h : Remarked s t) (k : Remarked t u) : Remarked s u := by
  refine ⟨fun i => ?_, k.head.trans h.head⟩
  obtain ⟨marks, first⟩ := h.sector i
  obtain ⟨marks', second⟩ := k.sector i
  exact ⟨marks', by rw [second, first]⟩

theorem Remarked.entries {s t : State} (h : Remarked s t) : SameEntries s t := by
  refine ⟨fun i => ?_, fun i => ?_, fun i => ?_, fun i => ?_, h.head⟩
  all_goals
    obtain ⟨marks, same⟩ := h.sector i
    simp only [same, holdsEntries]

theorem remarked_setSlotMark (s : State) (i slot : Nat) (m : Mark) : Remarked s (s.setSlotMark i slot m) := by
  refine ⟨fun k => ?_, rfl⟩
  rw [sector_setSlotMark]
  split
  · rename_i own
    exact ⟨_, by rw [own.1]⟩
  · exact ⟨_, rfl⟩

/-- Every sector has a record, with a mark for each slot. -/
structure FullMap (s : State) : Prop where
  sectors : s.sectors.length = 32
  marks : ∀ i, i < 32 → (s.sector i).marks.length = 16

theorem FullMap.setSlotMark {s : State} (h : FullMap s) (i slot : Nat) (m : Mark) : FullMap (s.setSlotMark i slot m) := by
  refine ⟨by rw [State.setSlotMark, State.updSector, List.length_set, h.sectors], fun k inside => ?_⟩
  rw [sector_setSlotMark]
  split
  · rename_i own
    rw [List.length_set, ← own.1, h.marks k inside]
  · exact h.marks k inside

/-- The marks of some entries become AUDITED. -/
def audits (es : List (Nat × Nat × Nat)) (top : Nat) (s : State) : State :=
  es.foldl (fun s e => if e.1 < top then s.setSlotMark e.2.1 e.2.2 .audited else s) s

theorem audits_spec (es : List (Nat × Nat × Nat)) (top : Nat) {s : State} (full : FullMap s)
    (inside : ∀ e ∈ es, e.2.1 < 32 ∧ e.2.2 < 16) : Remarked s (audits es top s) ∧ ∀ i l,
      (audits es top s).slotMark i l = if ∃ e ∈ es, e.1 < top ∧ e.2 = (i, l) then .audited else s.slotMark i l := by
  induction es generalizing s with
  | nil => exact ⟨.refl s, fun i l => (if_neg fun ⟨e, mem, _⟩ => absurd mem List.not_mem_nil).symm⟩
  | cons e es ih =>
    have rest : audits (e :: es) top s = audits es top (if e.1 < top then s.setSlotMark e.2.1 e.2.2 .audited else s) := rfl
    have inside' := fun x mem => inside x (List.mem_cons_of_mem e mem)
    rw [rest]
    by_cases below : e.1 < top
    · obtain ⟨low, slot⟩ := inside e List.mem_cons_self
      obtain ⟨same, marks⟩ := ih (full.setSlotMark e.2.1 e.2.2 .audited) inside'
      rw [if_pos below]
      refine ⟨(remarked_setSlotMark ..).trans same, fun i l => ?_⟩
      rw [marks, slotMark_setSlotMark (full.sectors ▸ low) ((full.marks _ low).symm ▸ slot)]
      by_cases own : e.2 = (i, l)
      · rw [if_pos (show (i, l) = (e.2.1, e.2.2) from own.symm), ite_self, if_pos ⟨e, List.mem_cons_self, below, own⟩]
      · rw [if_neg (fun h : (i, l) = (e.2.1, e.2.2) => own h.symm)]
        refine if_congr ?_ rfl rfl
        rw [List.exists_mem_cons_iff, or_iff_right (fun h => own h.2)]
    · obtain ⟨same, marks⟩ := ih full inside'
      rw [if_neg below]
      refine ⟨same, fun i l => ?_⟩
      rw [marks]
      refine if_congr ?_ rfl rfl
      rw [List.exists_mem_cons_iff, or_iff_right (fun h => below h.1)]

/-- The highest number of a retained entry that carries AUDITED. -/
def State.topAudited (s : State) : Option Nat :=
  maxOf ((s.retainedEntries.filter (fun e => s.slotMark e.2.1 e.2.2 == .audited)).map Prod.fst)

theorem backfillAudited_eq (s : State) : backfillAudited s = s.topAudited.elim s (fun top => audits s.retainedEntries top s) := by
  rw [backfillAudited, State.topAudited]
  cases maxOf ((s.retainedEntries.filter (fun e => s.slotMark e.2.1 e.2.2 == .audited)).map Prod.fst) <;> rfl

theorem mem_audited {s : State} {n : Nat} :
    n ∈ (s.retainedEntries.filter (fun e => s.slotMark e.2.1 e.2.2 == .audited)).map Prod.fst ↔
      ∃ x ∈ s.places n, s.slotMark x.1 x.2 = .audited := by
  simp only [List.mem_map, List.mem_filter, beq_iff_eq]
  constructor
  · rintro ⟨⟨n', x⟩, ⟨mem, audited⟩, rfl⟩
    exact ⟨x, mem_retainedEntries.mp mem, audited⟩
  · rintro ⟨x, mem, audited⟩
    exact ⟨(n, x), ⟨mem_retainedEntries.mpr mem, audited⟩, rfl⟩

/-- An entry at a place has a number below one that carries AUDITED. -/
def State.belowAudited (s : State) (x : Nat × Nat) : Prop :=
  ∃ n n', n < n' ∧ x ∈ s.places n ∧ ∃ y ∈ s.places n', s.slotMark y.1 y.2 = .audited

/-- The map with its entries taken as AUDITED: those with a number below one that carries AUDITED (R142). -/
theorem backfillAudited_spec {s : State} (full : FullMap s) : Remarked s (backfillAudited s) ∧ ∀ i l,
    (s.belowAudited (i, l) → (backfillAudited s).slotMark i l = .audited) ∧
    (¬ s.belowAudited (i, l) → (backfillAudited s).slotMark i l = s.slotMark i l) := by
  have inside (e : Nat × Nat × Nat) (mem : e ∈ s.retainedEntries) : e.2.1 < 32 ∧ e.2.2 < 16 := by
    obtain ⟨n, i, l⟩ := e
    obtain ⟨entry, low⟩ := (mem_places_iff s n i l).mp (mem_retainedEntries.mp mem)
    exact ⟨entry.1.1, Nat.lt_succ_of_le low⟩
  rw [backfillAudited_eq]
  cases top : s.topAudited with
  | none =>
    refine ⟨.refl s, fun i l => ⟨?_, fun _ => rfl⟩⟩
    rintro ⟨n, n', -, -, audited⟩
    have mem := mem_audited.mpr audited
    rw [State.topAudited] at top
    cases list : (s.retainedEntries.filter (fun e => s.slotMark e.2.1 e.2.2 == .audited)).map Prod.fst with
    | nil => exact absurd (list ▸ mem) List.not_mem_nil
    | cons a as => exact absurd (list ▸ top) nofun
  | some m =>
    obtain ⟨mem, highest⟩ := maxOf_eq_some_iff.mp top
    obtain ⟨same, marks⟩ := audits_spec s.retainedEntries m full inside
    refine ⟨same, fun i l => ⟨?_, fun above => ?_⟩⟩
    · rintro ⟨n, n', below, place, audited⟩
      exact (marks i l).trans (if_pos ⟨(n, i, l), mem_retainedEntries.mpr place,
        Nat.lt_of_lt_of_le below (highest n' (mem_audited.mpr audited)), rfl⟩)
    · refine (marks i l).trans (if_neg ?_)
      rintro ⟨⟨n, x⟩, retained, below, rfl⟩
      exact above ⟨n, m, below, mem_retainedEntries.mp retained, mem_audited.mp mem⟩

end Sys2Proof.Machine
end

section
/-! PROOFS. The map that a start shows (R141, R142). -/

namespace Sys2Proof.Machine

/-- `t` shows the map that the scan reads of the array of `y` and settles. -/
def ShowsScan (y t : State) : Prop :=
  ∃ r : State, r.sectors = scannedSectors y ∧ r.head = none ∧ SameMap (backfillAudited (settleNewest r)) t

theorem places_number {s : State} {x : Nat × Nat} {n n' : Nat} (one : x ∈ s.places n) (two : x ∈ s.places n') : n = n' := by
  obtain ⟨i, l⟩ := x
  obtain ⟨-, -, -, f, first, low, -, slot⟩ := mem_places.mp one
  obtain ⟨-, -, -, f', first', low', -, slot'⟩ := mem_places.mp two
  obtain rfl := Option.some_inj.mp (first.symm.trans first')
  omega

/-- The map as it stands before its entries are taken as AUDITED. -/
structure Settled (y u : State) : Prop where
  full : FullMap u
  first : ∀ i, i < 32 → (u.sector i).first = (scannedSector y i).first
  used : ∀ i, i < 32 → (u.sector i).used = (scannedSector y i).used
  kinds : ∀ i, i < 32 → (u.sector i).kinds = (scannedSector y i).kinds
  marks : ∀ i, i < 32 → (u.sector i).marks = (scannedSector y i).marks
  state : ∀ i, i < 32 → (u.sector i).state =
    if u.newestSector = some i then (if (scannedSector y i).used < 16 then .filling else .full) else (scannedSector y i).state

theorem settled {y r : State} (read : r.sectors = scannedSectors y) : Settled y (settleNewest r) := by
  have size : r.sectors.length = 32 := by rw [read, scannedSectors_length]
  have sector (i : Nat) (inside : i < 32) : r.sector i = scannedSector y i := scannedSectors_sector read inside
  have entries := settleNewest_entries size
  refine ⟨⟨?_, fun i inside => ?_⟩, fun i inside => ?_, fun i inside => ?_, fun i inside => ?_, fun i inside => ?_, fun i inside => ?_⟩
  · rw [settleNewest_eq]
    cases r.newestSector with
    | none => exact size
    | some i => exact List.length_set.trans size
  · rw [settleNewest_marks size, sector i inside]
    exact scannedSector_marks_kinds.1
  · rw [entries.first, sector i inside]
  · rw [entries.used, sector i inside]
  · rw [entries.kinds, sector i inside]
  · rw [settleNewest_marks size, sector i inside]
  · rw [entries.newestSector, settleNewest_sector size, sector i inside]
    split <;> rfl

/-- What a start shows of the map, with the map before its entries are taken as AUDITED. -/
theorem ShowsScan.settled {y t : State} (shows : ShowsScan y t) : ∃ u, Settled y u ∧ SameEntries u t ∧
    (∀ i, (t.sector i).state = (u.sector i).state) ∧
    ∀ x, (u.belowAudited x → t.slotMark x.1 x.2 = .audited) ∧ (¬ u.belowAudited x → t.slotMark x.1 x.2 = u.slotMark x.1 x.2) := by
  obtain ⟨r, read, -, same⟩ := shows
  have ready := Machine.settled read
  obtain ⟨marked, marks⟩ := backfillAudited_spec ready.full
  refine ⟨_, ready, marked.entries.trans same.entries, fun i => ?_, fun x => ?_⟩
  · obtain ⟨ms, sector⟩ := marked.sector i
    rw [same.sector, sector]
  · rw [same.slotMark]
    exact marks x.1 x.2

section
variable {y t : State} (shows : ShowsScan y t)
include shows

theorem ShowsScan.first {i : Nat} (inside : i < 32) : (t.sector i).first = (scannedSector y i).first := by
  obtain ⟨u, ready, same, -⟩ := shows.settled
  rw [same.first, ready.first i inside]

theorem ShowsScan.used {i : Nat} (inside : i < 32) : (t.sector i).used = (scannedSector y i).used := by
  obtain ⟨u, ready, same, -⟩ := shows.settled
  rw [same.used, ready.used i inside]

theorem ShowsScan.kinds {i : Nat} (inside : i < 32) : (t.sector i).kinds = (scannedSector y i).kinds := by
  obtain ⟨u, ready, same, -⟩ := shows.settled
  rw [same.kinds, ready.kinds i inside]

theorem ShowsScan.state {i : Nat} (inside : i < 32) : (t.sector i).state =
    if t.newestSector = some i then (if (scannedSector y i).used < 16 then .filling else .full) else (scannedSector y i).state := by
  obtain ⟨u, ready, same, state, -⟩ := shows.settled
  rw [state, same.newestSector, ready.state i inside]

/-- A sector that holds no entries stands as the scan read it. -/
theorem ShowsScan.state_unheld {i : Nat} (inside : i < 32) (unheld : (scannedSector y i).state ≠ .full) :
    (t.sector i).state = (scannedSector y i).state := by
  obtain ⟨r, read, free, same⟩ := shows
  have shows : ShowsScan y t := ⟨r, read, free, same⟩
  have entries : SameEntries r t := by
    have size : r.sectors.length = 32 := by rw [read, scannedSectors_length]
    obtain ⟨marked, -⟩ := backfillAudited_spec (Machine.settled read).full
    exact (settleNewest_entries size).trans (marked.entries.trans same.entries)
  rw [shows.state inside, if_neg]
  intro newest
  obtain ⟨-, holds⟩ := newestSector_holds (entries.newestSector ▸ newest)
  rw [scannedSectors_sector read inside] at holds
  have filling : (scannedSector y i).state = .filling := by
    rw [holdsEntries, Bool.or_eq_true, beq_iff_eq, beq_iff_eq] at holds
    exact holds.resolve_right unheld
  rw [scannedSector, scanRecord] at filling
  revert filling
  split <;> nofun

/-- Below an entry that carries AUDITED every entry carries it. -/
theorem ShowsScan.audited_below {n n' : Nat} {x x' : Nat × Nat} (place : x ∈ t.places n) (place' : x' ∈ t.places n') (below : n < n')
    (audited : t.slotMark x'.1 x'.2 = .audited) : t.slotMark x.1 x.2 = .audited := by
  obtain ⟨u, -, same, -, marks⟩ := shows.settled
  rw [same.places] at place place'
  refine (marks x).1 ?_
  by_cases under : u.belowAudited x'
  · obtain ⟨m, m', less, place'', top⟩ := under
    obtain rfl := places_number place' place''
    exact ⟨n, m', below.trans less, place, top⟩
  · exact ⟨n, n', below, place, x', place', ((marks x').2 under).symm.trans audited⟩

/-- A mark stands as the scan read it, or the entry is taken as AUDITED, below one that carries AUDITED. -/
theorem ShowsScan.mark {i l : Nat} (inside : i < 32) :
    (t.slotMark i l = (scannedSector y i).marks.getD l .blank ∨ t.slotMark i l = .audited) ∧
    ((∀ n n', (i, l) ∈ t.places n → n < n' → ∀ x ∈ t.places n', t.slotMark x.1 x.2 ≠ .audited) →
      t.slotMark i l = (scannedSector y i).marks.getD l .blank) := by
  obtain ⟨u, ready, same, -, marks⟩ := shows.settled
  have stood : u.slotMark i l = (scannedSector y i).marks.getD l .blank := by rw [State.slotMark, ready.marks i inside]
  rw [← stood]
  by_cases under : u.belowAudited (i, l)
  · refine ⟨.inr ((marks (i, l)).1 under), fun none' => ?_⟩
    obtain ⟨n, n', below, place, x, place', audited⟩ := under
    rw [← same.places] at place place'
    refine absurd ?_ (none' n n' place below x place')
    by_cases under' : u.belowAudited x
    · exact (marks x).1 under'
    · exact ((marks x).2 under').trans audited
  · exact ⟨.inl ((marks (i, l)).2 under), fun _ => (marks (i, l)).2 under⟩

end

end Sys2Proof.Machine
end

section
/-! PROOFS. What a start reads of each sector, and the counter and the torn entries that it reports (R141, R142). -/

namespace Sys2Proof.Machine

/-! ## The sectors (R141) -/

theorem scannedSector_used {y : State} {i k : Nat} (inside : i < 32) (other : y.eraseRecord ≠ some i) (good : ¬ readsBad y.journal i)
    (low : k < 16) (used : markOf (entryIn y.journal i k) ≠ .blank)
    (above : ∀ l, k < l → l < 16 → markOf (entryIn y.journal i l) = .blank) : (scannedSector y i).used = k + 1 := by
  rw [scannedSector_entries inside other good low used]
  refine scanUsed_eq (sectorBytes_getElem? low) (Bool.eq_false_iff.mpr fun h => used ((slotBlank_iff _).mp h)) fun l e beyond at' => ?_
  have fits : l < 16 := by
    obtain ⟨fits, -⟩ := List.getElem?_eq_some_iff.mp at'
    exact sectorBytes_length y i ▸ fits
  rw [sectorBytes_getElem? fits, Option.some_inj] at at'
  exact at' ▸ (slotBlank_iff _).mpr (above l beyond fits)

theorem scannedSector_mark {y : State} {i k l : Nat} (inside : i < 32) (other : y.eraseRecord ≠ some i)
    (good : ¬ readsBad y.journal i) (low : k < 16) (used : markOf (entryIn y.journal i k) ≠ .blank) (slot : l < 16) :
    (scannedSector y i).marks.getD l .blank =
      if (i, l) ∈ tornPlaces y.eraseRecord y.journal then .torn else markOf (entryIn y.journal i l) := by
  rw [scannedSector_entries inside other good low used]
  dsimp only
  rw [List.getD_eq_getElem?_getD, List.getElem?_map, sectorBytes_getElem? slot]
  refine if_congr ?_ rfl rfl
  rw [mem_tornPlaces inside]
  exact ⟨fun tears => ⟨other, good, slot, tears⟩, fun torn => torn.2.2.2⟩

/-- A sector as a start shows it, by the cases of R141. -/
theorem ShowsScan.sector {y t : State} (shows : ShowsScan y t) {m : Memory} {erasing : Option Nat} (journal : y.journal = m)
    (record : y.eraseRecord = erasing) {i : Nat} (inside : i < 32) :
    let c := t.sector i
    let torn := tornPlaces erasing m
    let blank (i k : Nat) := markOf (entryIn m i k) = .blank
    c.kinds = (List.range 16).map (fun k => (entryIn m i k).getD 5 0#8) ∧
    (erasing = some i → c.state = .erasing) ∧
    (erasing ≠ some i → readsBad m i → c.state = .bad) ∧
    (erasing ≠ some i → ¬ readsBad m i → (∀ k, k < 16 → blank i k) → c.state = .blankUnchecked) ∧
    ∀ k, erasing ≠ some i → ¬ readsBad m i → k < 16 → ¬ blank i k → (∀ l, k < l → l < 16 → blank i l) →
      c.used = k + 1 ∧
      c.state = (if k < 15 ∧ (t.newest.bind t.lookup).map Prod.fst = some i then .filling else .full) ∧
      (∀ l, l < 16 → headerHolds (entryIn m i l) = true → (∀ d, d < l → headerHolds (entryIn m i d) = false) →
        c.first = some (entryNat (entryIn m i l) 1 4 - l)) ∧
      ∀ l, l < 16 →
        let mark := if (i, l) ∈ torn then .torn else markOf (entryIn m i l)
        (t.slotMark i l = mark ∨ t.slotMark i l = .audited) ∧
        ((∀ n n', (i, l) ∈ t.places n → n < n' → ∀ x ∈ t.places n', t.slotMark x.1 x.2 ≠ .audited) → t.slotMark i l = mark) := by
  subst journal record
  refine ⟨?_, fun erasing => ?_, fun other bad => ?_, fun other good blank => ?_, fun k other good low used above => ?_⟩
  · rw [shows.kinds inside, scannedSector_kinds]
  · have read := scannedSector_erasing inside erasing
    rw [shows.state_unheld inside (by rw [read]; decide), read]
  · have read := scannedSector_bad inside other bad
    rw [shows.state_unheld inside (by rw [read]; decide), read]
  · have read := scannedSector_blank inside other good blank
    rw [shows.state_unheld inside (by rw [read]; decide), read]
  · have count := scannedSector_used inside other good low used above
    refine ⟨by rw [shows.used inside, count], ?_, fun l slot holds lowest => ?_, fun l slot => ?_⟩
    · have full : (scannedSector y i).state = .full := by rw [scannedSector_entries inside other good low used]
      rw [shows.state inside, count, full]
      by_cases newest : t.newestSector = some i
      · rw [if_pos newest]
        refine if_congr ?_ rfl rfl
        rw [and_iff_left (show (t.newest.bind t.lookup).map Prod.fst = some i from newest)]
        omega
      · rw [if_neg newest, if_neg fun h => newest h.2]
    · have first : scanFirst (y.sectorBytes i) = some (entryNat (entryIn y.journal i l) 1 4 - l) := by
        refine scanFirst_eq (sectorBytes_getElem? slot) holds fun d e below at' => ?_
        rw [sectorBytes_getElem? (by omega), Option.some_inj] at at'
        exact at' ▸ lowest d below
      rw [shows.first inside, scannedSector_entries inside other good low used, first]
      rfl
    · have mark := shows.mark (l := l) inside
      rw [scannedSector_mark inside other good low used slot] at mark
      exact mark

/-! ## The torn entries (R141) -/

theorem scannedTorn_eq {y t : State} (shows : ShowsScan y t) : scannedTorn y =
    (tornPlaces y.eraseRecord y.journal).map (fun x => (t.sector x.1).first.getD 0 + x.2) := by
  rw [tornPlaces_eq, List.map_flatMap, scannedTorn]
  refine List.flatMap_congr fun i mem => ?_
  have inside := List.mem_range.mp mem
  have first : (State.sector { y with sectors := scannedSectors y } i).first = (t.sector i).first := by
    rw [shows.first inside, scannedSectors_sector rfl inside]
  rw [tornNumbers, List.map_map, first]
  rfl

/-! ## The counter (R142) -/

/-- The counter is one above the newest retained number, or stays at its last value, exhausted (R142). -/
def State.CounterFollows (s : State) (first : Nat) : Prop :=
  s.counter = s.newest.elim first (fun n => if n < 4294967295 then n + 1 else 4294967295) ∧
  s.exhausted = s.newest.elim false (fun n => if n < 4294967295 then false else true)

theorem startCounter_follows (s : State) : (startCounter s).counter = (s.newest.elim s.settings.firstReceipt
      (fun n => if n < 4294967295 then n + 1 else 4294967295)) ∧
    (startCounter s).exhausted = s.newest.elim false (fun n => if n < 4294967295 then false else true) := by
  rw [startCounter]
  cases s.newest with
  | none => exact ⟨rfl, rfl⟩
  | some n =>
    dsimp only [Option.elim_some]
    by_cases more : n < lastReceipt
    · rw [if_pos more, if_pos (show n < 4294967295 from more), if_pos (show n < 4294967295 from more)]
      exact ⟨rfl, rfl⟩
    · rw [if_neg more, if_neg (show ¬ n < 4294967295 from more), if_neg (show ¬ n < 4294967295 from more)]
      exact ⟨rfl, rfl⟩

theorem counterFollows_of {s t : State} (map : SameMap s t) (counter : t.counter = (startCounter s).counter)
    (exhausted : t.exhausted = (startCounter s).exhausted) : t.CounterFollows s.settings.firstReceipt := by
  obtain ⟨value, full⟩ := startCounter_follows s
  rw [State.CounterFollows, map.newest]
  exact ⟨counter.trans value, exhausted.trans full⟩

theorem State.CounterFollows.congr {s t : State} {first : Nat} (follows : s.CounterFollows first) (map : SameMap s t)
    (counter : t.counter = s.counter) (exhausted : t.exhausted = s.exhausted) : t.CounterFollows first := by
  rw [State.CounterFollows, map.newest, counter, exhausted]
  exact follows

theorem State.CounterFollows.cases {s : State} {first : Nat} (follows : s.CounterFollows first) :
    match s.newest with
    | some n => if n < 4294967295 then s.counter = n + 1 ∧ s.exhausted = false else s.counter = 4294967295 ∧ s.exhausted = true
    | none => s.counter = first ∧ s.exhausted = false := by
  obtain ⟨counter, exhausted⟩ := follows
  rw [counter, exhausted]
  cases s.newest with
  | none => exact ⟨rfl, rfl⟩
  | some n =>
    dsimp only [Option.elim_some]
    split <;> exact ⟨rfl, rfl⟩

end Sys2Proof.Machine
end

section
/-! PROOFS. What the start-up scan leaves: the array, the map, the counter, the erase and the torn entries (R141, R142). -/

namespace Sys2Proof.Machine

/-! ## The last stages of the scan -/

theorem restartErase_map (s : State) : SameMap s (restartErase s) ∧ (restartErase s).counter = s.counter ∧
    (restartErase s).exhausted = s.exhausted := by
  rw [restartErase]
  split <;> exact ⟨⟨rfl, rfl⟩, rfl, rfl⟩

theorem evalSpace_map (s : State) : SameMap s (evalSpace s) ∧ (evalSpace s).counter = s.counter ∧
    (evalSpace s).exhausted = s.exhausted := by
  rw [evalSpace_frame]
  exact ⟨⟨rfl, rfl⟩, rfl, rfl⟩

theorem startCounter_map (s : State) : SameMap s (startCounter s) := by
  rw [startCounter]
  split
  · split <;> exact ⟨rfl, rfl⟩
  · exact ⟨rfl, rfl⟩

theorem SameMap.trans {s t u : State} (h : SameMap s t) (k : SameMap t u) : SameMap s u :=
  ⟨k.sectors.trans h.sectors, k.head.trans h.head⟩

/-- The last stages of the scan leave the map, and set the counter. -/
theorem scanEnd_map (v : State) : SameMap v (restartErase (evalSpace (startCounter v))) ∧
    (restartErase (evalSpace (startCounter v))).counter = (startCounter v).counter ∧
    (restartErase (evalSpace (startCounter v))).exhausted = (startCounter v).exhausted := by
  obtain ⟨map, counter, exhausted⟩ := restartErase_map (evalSpace (startCounter v))
  obtain ⟨map', counter', exhausted'⟩ := evalSpace_map (startCounter v)
  exact ⟨(startCounter_map v).trans (map'.trans map), counter.trans counter', exhausted.trans exhausted'⟩

theorem restartErase_engine {s : State} {i : Nat} (record : s.eraseRecord = some i) :
    (restartErase s).engine.current = some .erase ∧ (restartErase s).engine.erase = some ⟨i, false, false, 0, false⟩ := by
  rw [restartErase, record]
  exact ⟨rfl, rfl⟩

theorem MapStep.record {s t : State} (h : MapStep s t) : t.eraseRecord = s.eraseRecord := by rw [h.frame]

/-- An erase that was in progress starts again (R141 case 1). -/
theorem scan_engine {r : State} {i : Nat} (record : r.eraseRecord = some i) :
    let w := restartErase (evalSpace (startCounter (backfillAudited (settleNewest r))))
    w.engine.current = some .erase ∧ w.engine.erase = some ⟨i, false, false, 0, false⟩ := by
  have before := ((mapStep_settleNewest r).trans <| (mapStep_backfillAudited _).trans <| (mapStep_startCounter _).trans <|
    mapStep_evalSpace _).record
  exact restartErase_engine (before.trans record)

/-! ## The report of the torn entries (R141, R168, R173) -/

theorem reportTorn_keeps (warm : Bool) (torn : List Nat) (s : State) : SameMap s (reportTorn warm torn s) ∧
    (reportTorn warm torn s).journal = s.journal ∧ (reportTorn warm torn s).eraseRecord = s.eraseRecord ∧
    (reportTorn warm torn s).tally = tornCounted warm torn s.tally := by
  rw [reportTorn_eq]
  cases minOf torn with
  | none => exact ⟨⟨rfl, rfl⟩, rfl, rfl, rfl⟩
  | some n =>
    rw [Option.elim_some, setFault_faulted]
    exact ⟨⟨rfl, rfl⟩, rfl, rfl, rfl⟩

theorem reportTorn_tornFound {s : State} (size : s.faults.length = 11) (warm : Bool) (torn : List Nat) :
    (torn = [] → (reportTorn warm torn s).fault .tornFound = s.fault .tornFound) ∧
    ∀ n ∈ torn, (∀ n' ∈ torn, n ≤ n') → (reportTorn warm torn s).fault .tornFound = some ⟨.receipt n, s.clock⟩ := by
  rw [reportTorn_eq]
  refine ⟨?_, fun n mem least => ?_⟩
  · rintro rfl
    rfl
  · rw [minOf_eq_some_iff.mpr ⟨mem, least⟩, Option.elim_some]
    exact (fault_congr rfl _).trans (setFault_fault_same size ..)

/-! ## The scan as a whole -/

/-- The state whose array the scan reads: its changes while the part had no power have been made. -/
def scanBase (decay : List (Nat × Byte)) (x : State) : State := { x with journal := memDecay x.journal 0 131072 decay }

section
variable (warm : Bool) (decay : List (Nat × Byte)) {x : State}

/-- The state in which the torn entries have been reported. -/
def scanReported (x : State) : State := reportTorn warm (scannedTorn (scanBase decay x)) (arrayRead (scanBase decay x))

theorem scanJournal_reported (x : State) : scanJournal warm decay x =
    restartErase (evalSpace (startCounter (backfillAudited (settleNewest (scanReported warm decay x))))) := rfl

theorem scanJournal_shows (free : x.head = none) : ShowsScan (scanBase decay x) (scanJournal warm decay x) := by
  obtain ⟨map, -⟩ := reportTorn_keeps warm (scannedTorn (scanBase decay x)) (arrayRead (scanBase decay x))
  obtain ⟨map', -⟩ := scanEnd_map (backfillAudited (settleNewest (scanReported warm decay x)))
  exact ⟨scanReported warm decay x, map.sectors, map.head.trans free, map'⟩

theorem scanJournal_journal (x : State) : (scanJournal warm decay x).journal = scannedJournal (scanBase decay x) := by
  obtain ⟨-, journal, -⟩ := reportTorn_keeps warm (scannedTorn (scanBase decay x)) (arrayRead (scanBase decay x))
  have scan := mapStep_scan (scanReported warm decay x)
  rw [scanJournal_reported]
  have kept {s t : State} (h : MapStep s t) : t.journal = s.journal := by rw [h.frame]
  exact (kept scan).trans journal

theorem scanJournal_tally (x : State) :
    (scanJournal warm decay x).tally = tornCounted warm (scannedTorn (scanBase decay x)) x.tally := by
  obtain ⟨-, -, -, tally⟩ := reportTorn_keeps warm (scannedTorn (scanBase decay x)) (arrayRead (scanBase decay x))
  have scan := mapStep_scan (scanReported warm decay x)
  rw [scanJournal_reported]
  have kept {s t : State} (h : MapStep s t) : t.tally = s.tally := by rw [h.frame]
  exact (kept scan).trans tally

theorem scanJournal_engine {i : Nat} (record : x.eraseRecord = some i) : (scanJournal warm decay x).engine.current = some .erase ∧
    (scanJournal warm decay x).engine.erase = some ⟨i, false, false, 0, false⟩ := by
  obtain ⟨-, -, record', -⟩ := reportTorn_keeps warm (scannedTorn (scanBase decay x)) (arrayRead (scanBase decay x))
  rw [scanJournal_reported]
  exact scan_engine (record'.trans record)

theorem scanJournal_tornFound (size : x.faults.length = 11) :
    let torn := scannedTorn (scanBase decay x)
    (torn = [] → (scanJournal warm decay x).fault .tornFound = x.fault .tornFound) ∧
    ∀ n ∈ torn, (∀ n' ∈ torn, n ≤ n') → (scanJournal warm decay x).fault .tornFound = some ⟨.receipt n, x.clock⟩ := by
  intro torn
  have scan := (mapStep_scan (scanReported warm decay x)).fault .tornFound
  obtain ⟨none', least⟩ := reportTorn_tornFound (s := arrayRead (scanBase decay x)) size warm torn
  rw [scanJournal_reported, scan]
  exact ⟨none', least⟩

theorem startKeeps_arrayRead (x : State) : StartKeeps x (arrayRead (scanBase decay x)) :=
  ⟨rfl, rfl, rfl, rfl, rfl, rfl, rfl, rfl, rfl, rfl, rfl, rfl, rfl, rfl, rfl, rfl, rfl, rfl, rfl⟩

/-- The counter follows the newest retained entry (R142). -/
theorem scanJournal_counter (x : State) : (scanJournal warm decay x).CounterFollows x.settings.firstReceipt := by
  have before : StartKeeps x (backfillAudited (settleNewest (scanReported warm decay x))) :=
    StartKeeps.trans (y := arrayRead (scanBase decay x)) (startKeeps_arrayRead decay x)
      ((scanStep_reportTorn ..).trans <| (scanStep_settleNewest _).trans (scanStep_backfillAudited _)).keeps
  rw [scanJournal_reported]
  generalize backfillAudited (settleNewest (scanReported warm decay x)) = v at *
  obtain ⟨map, counter, exhausted⟩ := scanEnd_map v
  rw [← before.settings]
  exact counterFollows_of map counter exhausted

end

end Sys2Proof.Machine
end

section
/-! PROOFS. What a start has read of the journal when it ends (R141, R142). -/

namespace Sys2Proof.Machine

section
variable (warm : Bool) (decay : List (Nat × Byte)) (s : State)

/-- The state whose array the scan of a start reads. -/
def startArray : State := scanBase decay (startFaults warm (startBase warm s))

/-- The array as a start finds it, and the sector whose erase was in progress. -/
theorem startArray_reads : (startArray warm decay s).journal = memDecay s.journal 0 131072 decay ∧
    (startArray warm decay s).eraseRecord = (if warm = true then s.eraseRecord else none) ∧
    (startFaults warm (startBase warm s)).head = none ∧
    (startFaults warm (startBase warm s)).eraseRecord = (if warm = true then s.eraseRecord else none) ∧
    (startFaults warm (startBase warm s)).journal = s.journal := by
  obtain ⟨-, -, -, -, -, -, -, -, -, -, record, journal, -⟩ := startFaults_books warm (startBase warm s)
  have keeps := startFaults_keeps warm (startBase warm s)
  obtain ⟨-, -, -, -, head, -⟩ := startBase_sets warm s
  have journal' : (startBase warm s).journal = s.journal := by cases warm <;> rfl
  have record' : (startBase warm s).eraseRecord = if warm = true then s.eraseRecord else none := by cases warm <;> rfl
  refine ⟨?_, record.trans record', keeps.head.trans head, record.trans record', journal.trans journal'⟩
  rw [← journal', ← journal]
  rfl

theorem startedScan_queue (x : State) : SameMap x (startQueue warm x) ∧ (startQueue warm x).journal = x.journal ∧
    (startQueue warm x).counter = x.counter ∧ (startQueue warm x).exhausted = x.exhausted ∧
    (startQueue warm x).engine = x.engine ∧ (startQueue warm x).tally = x.tally := by
  cases warm <;> exact ⟨⟨rfl, rfl⟩, rfl, rfl, rfl, rfl, rfl⟩

/-- What a start shows of the scan of its array. -/
theorem started_scan : let x := scanJournal warm decay (startFaults warm (startBase warm s))
    SameMap x (started warm decay s) ∧ (started warm decay s).journal = x.journal ∧ (started warm decay s).counter = x.counter ∧
    (started warm decay s).exhausted = x.exhausted ∧ (started warm decay s).engine = x.engine := by
  intro x
  obtain ⟨-, -, -, -, sectors, journal, counter, exhausted, engine⟩ := started_leaves warm decay s
  obtain ⟨map, journal', counter', exhausted', engine', -⟩ := startedScan_queue warm x
  have head : (started warm decay s).head = x.head := by
    rw [(started_keeps warm decay s).head, ((startFaults_keeps warm _).trans (scanJournal_keeps warm decay _)).head]
  exact ⟨⟨sectors.trans map.sectors, head⟩, journal.trans journal', counter.trans counter', exhausted.trans exhausted',
    engine.trans engine'⟩

theorem started_shows : ShowsScan (startArray warm decay s) (started warm decay s) := by
  obtain ⟨map, -⟩ := started_scan warm decay s
  obtain ⟨-, -, head, -⟩ := startArray_reads warm decay s
  obtain ⟨r, read, free, same⟩ := scanJournal_shows warm decay head
  exact ⟨r, read, free, same.trans map⟩

theorem started_journal : (started warm decay s).journal =
    tearsAt (tornPlaces (if warm = true then s.eraseRecord else none) (memDecay s.journal 0 131072 decay))
      (memDecay s.journal 0 131072 decay) := by
  obtain ⟨-, journal, -⟩ := started_scan warm decay s
  obtain ⟨array, record, -⟩ := startArray_reads warm decay s
  rw [journal, scanJournal_journal, ← startArray, scannedJournal_eq, array, record]

theorem started_engine {i : Nat} (record : (if warm = true then s.eraseRecord else none) = some i) :
    (started warm decay s).engine.current = some .erase ∧
    (started warm decay s).engine.erase = some ⟨i, false, false, 0, false⟩ := by
  obtain ⟨-, -, -, -, engine⟩ := started_scan warm decay s
  obtain ⟨-, -, -, record', -⟩ := startArray_reads warm decay s
  rw [engine]
  exact scanJournal_engine warm decay (record'.trans record)

theorem started_counter : (started warm decay s).CounterFollows (started warm decay s).settings.firstReceipt := by
  obtain ⟨map, -, counter, exhausted, -⟩ := started_scan warm decay s
  have settings := (started_keeps warm decay s).settings.trans (startFaults_keeps warm (startBase warm s)).settings.symm
  have scan := scanJournal_counter warm decay (startFaults warm (startBase warm s))
  generalize scanJournal warm decay (startFaults warm (startBase warm s)) = x at *
  generalize started warm decay s = t at *
  rw [settings]
  exact scan.congr map counter exhausted

theorem startFaults_size (size : s.faults.length = 11) : (startFaults warm (startBase warm s)).faults.length = 11 := by
  cases warm with
  | true =>
    rw [startFaults, if_pos rfl, warmFaults]
    split
    · exact (setFault_faults_length ..).trans size
    · exact size
  | false =>
    rw [startFaults, if_neg Bool.false_ne_true, coldFaults_eq, coldFaulted]
    split
    · exact (setFault_faults_length ..).trans ((setFault_faults_length ..).trans ((setFault_faults_length ..).trans rfl))
    · exact (setFault_faults_length ..).trans ((setFault_faults_length ..).trans rfl)

/-- TORN_FOUND, with the lowest number that the scan marked (R141). -/
theorem started_tornFound (size : s.faults.length = 11) :
    let torn := tornPlaces (if warm = true then s.eraseRecord else none) (memDecay s.journal 0 131072 decay)
    let t := started warm decay s
    let number (x : Nat × Nat) := (t.sector x.1).first.getD 0 + x.2
    (torn = [] → t.fault .tornFound = if warm = true then s.fault .tornFound else none) ∧
    ∀ x ∈ torn, (∀ x' ∈ torn, number x ≤ number x') → t.fault .tornFound = some ⟨.receipt (number x), t.clock⟩ := by
  intro torn t number
  obtain ⟨array, record, -⟩ := startArray_reads warm decay s
  have numbers : scannedTorn (scanBase decay (startFaults warm (startBase warm s))) = torn.map number := by
    rw [← startArray, scannedTorn_eq (started_shows warm decay s), array, record]
  obtain ⟨none', least⟩ := scanJournal_tornFound warm decay (startFaults_size warm s size)
  rw [numbers] at none' least
  have fault : t.fault .tornFound = (scanJournal warm decay (startFaults warm (startBase warm s))).fault .tornFound := by
    obtain ⟨-, faults, -⟩ := started_leaves warm decay s
    obtain ⟨-, -, -, -, -, -, -, -, -, -, queue⟩ := startQueue_books warm (scanJournal warm decay (startFaults warm (startBase warm s)))
    exact fault_congr (faults.trans queue) _
  have clock : t.clock = (startFaults warm (startBase warm s)).clock := by
    rw [(started_keeps warm decay s).clock, ← (startFaults_keeps warm _).clock]
  rw [fault, clock]
  refine ⟨fun empty => (none' (by rw [empty]; rfl)).trans ?_, fun x mem lowest => least _ (List.mem_map_of_mem mem) ?_⟩
  · cases warm with
    | true => exact (warmFaults_fault (x := startBase true s) (by decide)).trans (fault_congr rfl _)
    | false => exact (coldFaults_fault (startBase false s) _).trans (if_neg (by simp))
  · exact List.forall_mem_map.mpr lowest

end

end Sys2Proof.Machine
end

section
/-! PROOFS. The settlement list resolved at a warm start: the books and the print queue (R65, R109, R114, R164). -/

namespace Sys2Proof.Machine

/-! ## The receipt numbers that stand (R65, R114) -/

/-- A receipt number's entry stands as a completed receipt. -/
abbrev State.receiptStands (t : State) (n : Nat) : Prop :=
  t.entryMark n = some .complete ∨ t.entryMark n = some .printed ∨
    (t.entryMark n = some .audited ∧ (t.retainedBytes n).all (fun e => !carriesTorn e) = true)

theorem SameMap.entryMark {s t : State} (h : SameMap s t) (n : Nat) : t.entryMark n = s.entryMark n := by
  simp only [State.entryMark, h.lookup, h.slotMark]

theorem retainedBytes_eq (s : State) (n : Nat) : s.retainedBytes n = (s.lookup n).map (fun x => s.entryBytes x.1 x.2) := rfl

theorem committed_congr {s t : State} (map : SameMap s t) (journal : t.journal = s.journal) (n : Nat) :
    t.committed n = s.committed n := by
  have bytes : t.retainedBytes n = s.retainedBytes n := by
    rw [retainedBytes_eq, retainedBytes_eq, map.lookup]
    simp only [State.entryBytes, journal]
  rw [State.committed, map.entryMark, bytes, State.committed]

theorem committed_eq (s : State) (n : Nat) : s.committed n = decide (s.receiptStands n) := by
  have retained : s.entryMark n = some .audited →
      ((s.retainedBytes n).map (fun e => !carriesTorn e)).getD false = (s.retainedBytes n).all (fun e => !carriesTorn e) := by
    intro audited
    obtain ⟨i, slot, place, -⟩ := (entryMark_eq_some_iff s n _).mp audited
    rw [retainedBytes_eq, place]
    rfl
  rw [Bool.eq_iff_iff, decide_eq_true_eq, State.receiptStands, State.committed]
  cases mark : s.entryMark n with
  | none => simp
  | some m =>
    cases m with
    | audited => simp [retained mark]
    | _ => simp

/-! ## The print queue (R109, R164) -/

/-- A record is resolved in the print queue: its jobs are QUEUED when its receipt stands, else their slots are freed. -/
def queueResolved (stands : Nat → Bool) (x : State) (r : Settlement) : State :=
  (r.receipt.filter stands).elim (slotsFreed r.jobs x) (fun n => { x with jobs := jobsQueued n r.jobs x.jobs })

theorem set_map_job (f : Job → Job) (x : State) (slot : Nat) :
    x.jobs.set slot ((x.job slot).map f) = (x.job slot).elim x.jobs (fun j => x.jobs.set slot (some (f j))) := by
  cases held : x.job slot with
  | some j => rfl
  | none =>
    refine List.ext_getElem? fun i => ?_
    rw [Option.elim_none, Option.map_none, List.getElem?_set]
    split
    · rename_i own
      subst own
      rw [State.job, List.getD_eq_getElem?_getD] at held
      split
      · rename_i inside
        rw [List.getElem?_eq_getElem inside, Option.getD_some] at held
        rw [List.getElem?_eq_getElem inside, held]
      · rename_i outside
        rw [List.getElem?_eq_none (Nat.not_lt.mp outside)]
    · rfl

theorem jobsQueued_fold (n : Nat) (slots : List Nat) (x : State) :
    slots.foldl (fun (y : State) slot => { y with jobs := y.jobs.set slot ((y.job slot).map (jobQueued n)) }) x =
      { x with jobs := jobsQueued n slots x.jobs } := by
  induction slots generalizing x with
  | nil => rfl
  | cons slot slots ih =>
    rw [List.foldl_cons, ih, set_map_job]
    rfl

section
variable {stands : Nat → Bool}

theorem queueResolved_keeps_left {slot : Nat} {x : State} (left : SlotLeft slot x) (r : Settlement) :
    SlotLeft slot (queueResolved stands x r) := by
  rw [queueResolved]
  cases r.receipt.filter stands with
  | none => exact slotsFreed_keeps_left r.jobs left
  | some n =>
    have job : State.job { x with jobs := jobsQueued n r.jobs x.jobs } slot =
        if slot ∈ r.jobs then (x.job slot).map (jobQueued n) else x.job slot := jobsQueued_job ..
    rw [Option.elim_some, SlotLeft, job]
    split
    · rcases left with free | ⟨b, held, port, queued⟩
      · exact .inl (by rw [free]; rfl)
      · exact .inr ⟨jobQueued n b, by rw [held]; rfl, port, rfl⟩
    · exact left

/-- A slot whose record has no receipt that stands is left, whatever the records after it do. -/
theorem queueResolved_left {rs : List Settlement} {slot : Nat} {r : Settlement} (mem : r ∈ rs) (own : slot ∈ r.jobs)
    (fails : r.receipt.filter stands = none) (x : State) : SlotLeft slot (rs.foldl (queueResolved stands) x) := by
  have stays (rs : List Settlement) (x : State) (left : SlotLeft slot x) : SlotLeft slot (rs.foldl (queueResolved stands) x) := by
    induction rs generalizing x with
    | nil => exact left
    | cons r' rs ih => exact ih _ (queueResolved_keeps_left left r')
  induction rs generalizing x with
  | nil => exact absurd mem List.not_mem_nil
  | cons r' rs ih =>
    rcases List.mem_cons.mp mem with rfl | mem
    · refine stays rs _ ?_
      rw [queueResolved, fails]
      exact slotsFreed_left own x
    · exact ih mem _

theorem queueResolved_stays {slot : Nat} {r : Settlement} {j : Job} {x : State} (outside : slot ∉ r.jobs) (held : x.job slot = some j) :
    (queueResolved stands x r).job slot = some j := by
  rw [queueResolved]
  cases r.receipt.filter stands with
  | none => exact slotsFreed_stays outside held
  | some n =>
    have job : State.job { x with jobs := jobsQueued n r.jobs x.jobs } slot =
        if slot ∈ r.jobs then (x.job slot).map (jobQueued n) else x.job slot := jobsQueued_job ..
    exact job.trans ((if_neg outside).trans held)

/-- A job that belongs to no record stays. -/
theorem queueResolved_all_stay {rs : List Settlement} {slot : Nat} {j : Job} {x : State} (outside : ∀ r ∈ rs, slot ∉ r.jobs)
    (held : x.job slot = some j) : (rs.foldl (queueResolved stands) x).job slot = some j := by
  induction rs generalizing x with
  | nil => exact held
  | cons r rs ih =>
    exact ih (fun r' mem => outside r' (List.mem_cons_of_mem r mem)) (queueResolved_stays (outside r List.mem_cons_self) held)

theorem queueResolved_queues {slot n : Nat} {r : Settlement} {j : Job} {x : State} (own : slot ∈ r.jobs)
    (stood : r.receipt.filter stands = some n) (held : x.job slot = some j) :
    (queueResolved stands x r).job slot = some (jobQueued n j) := by
  have job : State.job { x with jobs := jobsQueued n r.jobs x.jobs } slot =
      if slot ∈ r.jobs then (x.job slot).map (jobQueued n) else x.job slot := jobsQueued_job ..
  rw [queueResolved, stood]
  exact job.trans (by rw [if_pos own, held]; rfl)

/-- The job of one record alone, whose receipt stands, is QUEUED with its number. -/
theorem queueResolved_queued {rs : List Settlement} {slot n : Nat} {r : Settlement} {j : Job} {x : State} (mem : r ∈ rs)
    (own : slot ∈ r.jobs) (alone : ∀ r' ∈ rs, slot ∈ r'.jobs → r' = r) (stood : r.receipt.filter stands = some n)
    (held : x.job slot = some j) : (rs.foldl (queueResolved stands) x).job slot = some (jobQueued n j) := by
  have stays (rs : List Settlement) (alone : ∀ r' ∈ rs, slot ∈ r'.jobs → r' = r) (x : State)
      (held : x.job slot = some (jobQueued n j)) : (rs.foldl (queueResolved stands) x).job slot = some (jobQueued n j) := by
    induction rs generalizing x with
    | nil => exact held
    | cons r' rs ih =>
      refine ih (fun r'' mem => alone r'' (List.mem_cons_of_mem r' mem)) _ ?_
      by_cases has : slot ∈ r'.jobs
      · obtain rfl := alone r' List.mem_cons_self has
        exact queueResolved_queues (j := jobQueued n j) own stood held
      · exact queueResolved_stays has held
  induction rs generalizing x with
  | nil => exact absurd mem List.not_mem_nil
  | cons r' rs ih =>
    have alone' := fun r'' mem => alone r'' (List.mem_cons_of_mem r' mem)
    by_cases has : slot ∈ r'.jobs
    · obtain rfl := alone r' List.mem_cons_self has
      exact stays rs alone' _ (queueResolved_queues own stood held)
    · have mem' : r ∈ rs := (List.mem_cons.mp mem).resolve_left fun same => has (same ▸ own)
      exact ih mem' alone' (queueResolved_stays has held)

end

/-! ## The settlement list (R65, R114) -/

/-- The return of a ticket takes nothing of the tally. -/
theorem returned_tally (clock : Nat) (r : Settlement) (b : Books) :
    (b.returned clock r).tally = b.tally ∧ (b.returned clock r).snapshot = b.snapshot := by
  rw [Books.returned]
  split
  · exact ⟨rfl, rfl⟩
  · split <;> exact ⟨rfl, rfl⟩

theorem recordReturned_books (r : Settlement) (x : State) : (recordReturned r x).books = x.books.returned x.clock r := by
  obtain ⟨tally, snapshot⟩ := returned_tally x.clock r x.books
  rw [State.books]
  exact congrArg₂ (Books.mk (x.books.returned x.clock r).tickets (x.books.returned x.clock r).holds) tally.symm snapshot.symm

/-- A record resolved, in the books, the print queue and the map. -/
theorem resolveRecord_step {stands : Nat → Bool} {x q : State} (stood : ∀ n, x.committed n = stands n)
    (same : x.walkView = q.walkView) (r : Settlement) : let x' := resolveRecord x r
    x'.books = Books.resolved x.clock stands x.books r ∧ x'.walkView = (queueResolved stands q r).walkView ∧
    x'.clock = x.clock ∧ SameMap x x' ∧ x'.journal = x.journal := by
  intro x'
  have filter : r.receipt.filter x.committed = r.receipt.filter stands := by rw [funext stood]
  simp only [State.walkView, Prod.mk.injEq] at same
  obtain ⟨jobs, backlog, age, free, sectors, head, marks⟩ := same
  cases stood' : r.receipt.filter stands with
  | some n =>
    have whole : x' = completeRecord r n x := by rw [show x' = resolveRecord x r from rfl, resolveRecord, filter, stood']
    rw [whole, completeRecord_eq, Books.resolved, queueResolved, stood']
    refine ⟨rfl, ?_, rfl, ⟨rfl, rfl⟩, rfl⟩
    rw [Option.elim_some]
    simp only [State.walkView, jobs, backlog, age, free, sectors, head, marks]
  | none =>
    have whole : x' = slotsFreed r.jobs (recordReturned r x) := by
      rw [show x' = resolveRecord x r from rfl, resolveRecord, filter, stood', ← failRecord_eq]
    have view : (recordReturned r x).walkView = q.walkView := by
      simp only [State.walkView, recordReturned, jobs, backlog, age, free, sectors, head, marks]
    have queue := slotsFreed_walkView r.jobs view
    have frame := slotsFreed_frame r.jobs (recordReturned r x)
    have resolved : Books.resolved x.clock stands x.books r = x.books.returned x.clock r := by rw [Books.resolved, stood']
    rw [queueResolved, stood', Option.elim_none, whole, resolved]
    generalize slotsFreed r.jobs (recordReturned r x) = w at *
    refine ⟨?_, queue, ?_, ⟨?_, ?_⟩, ?_⟩
    · rw [← recordReturned_books, frame]
      rfl
    all_goals
      rw [frame]
      rfl

/-- The settlement list resolved in order. -/
theorem resolveRecord_all {stands : Nat → Bool} (rs : List Settlement) {x q : State} (stood : ∀ n, x.committed n = stands n)
    (same : x.walkView = q.walkView) : let x' := rs.foldl resolveRecord x
    x'.books = rs.foldl (Books.resolved x.clock stands) x.books ∧
    x'.walkView = (rs.foldl (queueResolved stands) q).walkView ∧ x'.clock = x.clock := by
  induction rs generalizing x q with
  | nil => exact ⟨rfl, same, rfl⟩
  | cons r rs ih =>
    obtain ⟨books, queue, clock, map, journal⟩ := resolveRecord_step stood same r
    obtain ⟨books', queue', clock'⟩ := ih (fun n => (committed_congr map journal n).trans (stood n)) queue
    refine ⟨books'.trans ?_, queue', clock'.trans clock⟩
    rw [List.foldl_cons, clock, books]

end Sys2Proof.Machine
end

section
/-! PROOFS. The books and the print queue of a warm start (R64, R65, R99, R114, R164, R173). -/

namespace Sys2Proof.Machine

section
variable (decay : List (Nat × Byte)) (s : State)

/-- A warm start before its settlement list is resolved. -/
def warmReady : State := testBacklog (warmTickets (startScales (startedScan true decay s)))

theorem started_resolved : started true decay s =
    examineHolds { (warmReady decay s).settlements.foldl resolveRecord (warmReady decay s) with settlements := [] } := by
  rw [started_eq, startBooks_warm, warmResolve, warmReady]

theorem startQueue_warm (x : State) : (startQueue true x).jobs = x.jobs.map (Option.map warmJob) ∧ (startQueue true x).tally = x.tally :=
  ⟨rfl, rfl⟩

/-- The print queue of a warm start, before the backlog walk goes on. -/
theorem startedScan_warm : let y := startedScan true decay s
    y.jobs = s.jobs.map (Option.map warmJob) ∧ y.pendingMarks = [] ∧
    y.tally = (tornPlaces s.eraseRecord (memDecay s.journal 0 131072 decay)).foldl (fun x _ => x.addTorn) s.tally := by
  intro y
  have keeps := startedScan_keeps true decay s
  obtain ⟨-, -, -, -, -, -, -, marks, -⟩ := startBase_sets true s
  obtain ⟨-, -, -, -, jobs, -, -, -, -, -, -, -, tally⟩ := startFaults_books true (startBase true s)
  obtain ⟨-, -, -, -, -, jobs', -⟩ := scanJournal_books true decay (startFaults true (startBase true s))
  have tally' := scanJournal_tally true decay (startFaults true (startBase true s))
  obtain ⟨jobs'', tally''⟩ := startQueue_warm (scanJournal true decay (startFaults true (startBase true s)))
  obtain ⟨array, record, -⟩ := startArray_reads true decay s
  have torn := scannedTorn_eq (started_shows true decay s)
  rw [array, record, if_pos rfl, startArray] at torn
  refine ⟨jobs''.trans ?_, keeps.marks.trans marks, tally''.trans ?_⟩
  · rw [jobs', jobs]
    rfl
  · rw [tally', torn, tally, tornCounted, if_pos rfl, List.foldl_map]
    rfl

theorem startScales_warm (y : State) : let w := warmTickets (startScales y)
    w.walkView = y.walkView ∧ w.clock = y.clock ∧ w.settlements = y.settlements ∧ SameMap y w ∧ w.journal = y.journal ∧
    w.books = ⟨y.tickets.map (fun t => { t with claim := none, capture := none }), y.holds, y.tally, y.snapshot⟩ := by
  intro w
  have frame : w = warmTickets (startScales y) := rfl
  rw [frame, startScales_frame]
  exact ⟨rfl, rfl, rfl, ⟨rfl, rfl⟩, rfl, rfl⟩

theorem testBacklog_rest (w : State) : (testBacklog w).clock = w.clock ∧ (testBacklog w).settlements = w.settlements ∧
    SameMap w (testBacklog w) ∧ (testBacklog w).journal = w.journal ∧ (testBacklog w).books = w.books := by
  have frame := testBacklog_frame w
  generalize testBacklog w = t at *
  rw [frame]
  exact ⟨rfl, rfl, ⟨rfl, rfl⟩, rfl, rfl⟩

theorem warmReady_spec : let r := warmReady decay s
    r.clock = s.clock ∧ r.settlements = s.settlements ∧ SameMap (startedScan true decay s) r ∧
    r.journal = (startedScan true decay s).journal ∧
    r.walkView = (testBacklog (warmTickets (startScales (startedScan true decay s)))).walkView ∧
    r.books = ⟨s.tickets.map (fun t => { t with claim := none, capture := none }), s.holds,
      (tornPlaces s.eraseRecord (memDecay s.journal 0 131072 decay)).foldl (fun x _ => x.addTorn) s.tally, s.snapshot⟩ := by
  intro r
  have whole : r = testBacklog (warmTickets (startScales (startedScan true decay s))) := rfl
  obtain ⟨-, -, tally⟩ := startedScan_warm decay s
  obtain ⟨-, -, tickets, holds, settlements, -, -, -, snapshot, -⟩ := startedScan_books true decay s
  have clock := (startedScan_keeps true decay s).clock
  rw [whole]
  generalize startedScan true decay s = y at *
  obtain ⟨-, clock', settlements', map', journal', books'⟩ := startScales_warm y
  generalize warmTickets (startScales y) = w at *
  obtain ⟨clock'', settlements'', map'', journal'', books''⟩ := testBacklog_rest w
  refine ⟨clock''.trans (clock'.trans clock), settlements''.trans (settlements'.trans settlements), map'.trans map'',
    journal''.trans journal', rfl, ?_⟩
  rw [books'', books', tickets, holds, tally, snapshot]
  rfl

/-- What the walk of a warm start reads before it goes on. -/
theorem warmReady_walk {q : State} (jobs : q.jobs = s.jobs.map (Option.map warmJob)) (backlog : q.backlog = s.backlog)
    (age : q.ageCounter = s.ageCounter) (free : q.free = s.free) (sectors : q.sectors = (started true decay s).sectors)
    (head : q.head = none) (marks : q.pendingMarks = []) : (warmReady decay s).walkView = (testBacklog q).walkView := by
  obtain ⟨-, -, -, -, view, -⟩ := warmReady_spec decay s
  obtain ⟨jobs', marks', -⟩ := startedScan_warm decay s
  obtain ⟨-, -, -, -, -, backlog', age', free', -⟩ := startedScan_books true decay s
  obtain ⟨-, -, -, -, sectors', -⟩ := started_leaves true decay s
  have head' := (startedScan_keeps true decay s).head
  obtain ⟨walk, -⟩ := startScales_warm (startedScan true decay s)
  rw [view]
  refine testBacklog_congr (walk.trans ?_)
  rw [State.walkView, State.walkView, jobs, backlog, age, free, sectors, head, marks, jobs', backlog', age', free', sectors', head',
    marks']
  rfl

end

/-- The end of a warm start: its settlement list has been resolved, and its holds are examined. -/
theorem examineHolds_rest (x : State) : let t := examineHolds { x with settlements := [] }
    let due := x.holds.takeWhile (fun e => e.expiry ≤ x.clock)
    t.walkView = x.walkView ∧ t.tally = x.tally ∧ t.snapshot = x.snapshot ∧
    t.holds = x.holds.dropWhile (fun e => e.expiry ≤ x.clock) ∧
    t.tickets = x.tickets.map (fun u => if due.any (fun e => e.ticket == u.number) then { u with state := .payable } else u) := by
  intro t due
  have whole : t = examineHolds { x with settlements := [] } := rfl
  rw [whole, examineHolds_eq]
  exact ⟨rfl, rfl, rfl, rfl, rfl⟩

/-- The books and the print queue that a warm start leaves. -/
theorem started_warm {decay : List (Nat × Byte)} {s : State} {stands : Nat → Bool}
    (stood : ∀ n, (started true decay s).committed n = stands n) {q : State} (jobs : q.jobs = s.jobs.map (Option.map warmJob))
    (backlog : q.backlog = s.backlog) (age : q.ageCounter = s.ageCounter) (free : q.free = s.free)
    (sectors : q.sectors = (started true decay s).sectors) (head : q.head = none) (marks : q.pendingMarks = []) :
    let t := started true decay s
    let b := s.settlements.foldl (Books.resolved s.clock stands) ⟨s.tickets.map (fun u => { u with claim := none, capture := none }),
      s.holds, (tornPlaces s.eraseRecord (memDecay s.journal 0 131072 decay)).foldl (fun x _ => x.addTorn) s.tally, s.snapshot⟩
    let due := b.holds.takeWhile (fun e => e.expiry ≤ s.clock)
    t.walkView = (s.settlements.foldl (queueResolved stands) (testBacklog q)).walkView ∧
    t.holds = b.holds.dropWhile (fun e => e.expiry ≤ s.clock) ∧ t.tally = b.tally ∧ t.snapshot = b.snapshot ∧
    t.tickets = b.tickets.map (fun u => if due.any (fun e => e.ticket == u.number) then { u with state := .payable } else u) := by
  intro t b due
  have walk := warmReady_walk decay s jobs backlog age free sectors head marks
  obtain ⟨clock, settlements, map, journal, -, books⟩ := warmReady_spec decay s
  have stood' (n : Nat) : (warmReady decay s).committed n = stands n := by
    obtain ⟨-, -, -, -, sectors', journal', -⟩ := started_leaves true decay s
    have heads : (started true decay s).head = (startedScan true decay s).head :=
      (started_keeps true decay s).head.trans (startedScan_keeps true decay s).head.symm
    have shown : SameMap (startedScan true decay s) (started true decay s) := ⟨sectors', heads⟩
    rw [committed_congr map journal, ← committed_congr shown journal', stood]
  obtain ⟨books', walk', clock'⟩ := resolveRecord_all s.settlements stood' walk
  have whole : t = examineHolds { s.settlements.foldl resolveRecord (warmReady decay s) with settlements := [] } := by
    rw [← settlements]
    exact started_resolved decay s
  rw [books, clock] at books'
  rw [whole]
  generalize s.settlements.foldl resolveRecord (warmReady decay s) = x at *
  obtain ⟨view, tally, snapshot, holds, tickets⟩ := examineHolds_rest x
  have same : x.books = b := books'
  have now : x.clock = s.clock := clock'.trans clock
  refine ⟨view.trans walk', holds.trans ?_, tally.trans (congrArg Books.tally same), snapshot.trans (congrArg Books.snapshot same),
    tickets.trans ?_⟩
  · rw [now, ← same]
    rfl
  · rw [now, show x.tickets = b.tickets from congrArg Books.tickets same, show x.holds = b.holds from congrArg Books.holds same]

end Sys2Proof.Machine
end

section
/-! PROOFS. The backlog walk of a cold start, from the empty print queue (R165). -/

namespace Sys2Proof.Machine

/-- The first-print kind of a number's entry. -/
def State.walkKind (s : State) (k : Nat) : JobKind :=
  printKind ((s.lookup k).elim .shift (fun x => kindOf ((s.sector x.1).kinds.getD x.2 0#8)))

/-- The job that a walk from the empty queue puts into a slot. -/
def State.walkJob (s : State) (k slot : Nat) : Job := ⟨s.walkKind k, some k, none, .queued, 0, false, slot, 0⟩

/-- The queue after a walk from the empty queue has created the jobs of some numbers. -/
def State.walkJobs (s : State) (ks : List Nat) : List (Option Job) :=
  (List.range 16).map (fun i => ks[i]?.map (fun k => s.walkJob k i))

theorem walkJobs_getElem? (s : State) (ks : List Nat) (i : Nat) :
    (s.walkJobs ks)[i]? = if i < 16 then some (ks[i]?.map (fun k => s.walkJob k i)) else none := by
  rw [State.walkJobs, List.getElem?_map]
  split
  · rename_i inside
    rw [List.getElem?_range inside]
    rfl
  · rename_i outside
    rw [List.getElem?_eq_none (by rw [List.length_range]; omega)]
    rfl

theorem walkJobs_nil (s : State) : s.walkJobs [] = List.replicate 16 none := List.map_const' ..

/-- The next job goes into the lowest free slot. -/
theorem walkJobs_append (s : State) {ks : List Nat} (few : ks.length < 16) (k : Nat) :
    (s.walkJobs ks).set ks.length (some (s.walkJob k ks.length)) = s.walkJobs (ks ++ [k]) := by
  refine List.ext_getElem? fun i => ?_
  rw [List.getElem?_set, walkJobs_getElem?, walkJobs_getElem?]
  have size : (s.walkJobs ks).length = 16 := by rw [State.walkJobs, List.length_map, List.length_range]
  by_cases own : ks.length = i
  · subst own
    rw [if_pos rfl, if_pos (size ▸ few), if_pos few, List.getElem?_concat_length]
    rfl
  · rw [if_neg own]
    refine if_congr Iff.rfl (congrArg some (congrArg _ ?_)) rfl
    rw [List.getElem?_append]
    split
    · rfl
    · rw [List.getElem?_eq_none (by omega), List.getElem?_eq_none (by rw [List.length_singleton]; omega)]

theorem walkJobs_lowest (s : State) {ks : List Nat} (few : ks.length < 16) :
    (s.walkJobs ks).findIdx? Option.isNone = some ks.length := by
  have size : (s.walkJobs ks).length = 16 := by rw [State.walkJobs, List.length_map, List.length_range]
  have slot (i : Nat) (inside : i < 16) : (s.walkJobs ks)[i]'(size ▸ inside) = ks[i]?.map (fun k => s.walkJob k i) := by
    have at' := walkJobs_getElem? s ks i
    rw [if_pos inside, List.getElem?_eq_getElem (size ▸ inside), Option.some_inj] at at'
    exact at'
  refine List.findIdx?_eq_some_iff_getElem.mpr ⟨size ▸ few, ?_, fun i below => ?_⟩
  · rw [slot _ few, List.getElem?_eq_none (Nat.le_refl _)]
    rfl
  · rw [slot i (below.trans few), List.getElem?_eq_getElem below]
    exact Bool.false_ne_true

theorem mem_walkJobs {s : State} {ks : List Nat} {j : Job} (mem : some j ∈ s.walkJobs ks) : ∃ k ∈ ks, j.receipt = some k := by
  obtain ⟨i, -, held⟩ := List.mem_map.mp mem
  obtain ⟨k, at', rfl⟩ := Option.map_eq_some_iff.mp held
  exact ⟨k, List.mem_of_getElem? at', rfl⟩

/-- The jobs of a walk have no port. -/
theorem walkJobs_count (s : State) {ks : List Nat} (few : ks.length ≤ 8) :
    (s.walkJobs ks).countP (fun x => x.any (fun j => j.port.isNone)) = ks.length := by
  have counts (n : Nat) (few : n ≤ 8) : (List.range 16).countP (fun i => decide (i < n)) = n := by
    revert n
    decide
  rw [State.walkJobs, List.countP_map, ← counts ks.length few]
  refine List.countP_congr fun i _ => ?_
  rw [Function.comp_apply, decide_eq_true_eq]
  by_cases below : i < ks.length
  · rw [List.getElem?_eq_getElem below]
    exact iff_of_true rfl below
  · rw [List.getElem?_eq_none (Nat.not_lt.mp below)]
    exact iff_of_false Bool.false_ne_true below

/-- A walk from the empty queue has come to a number: it has created the jobs of some numbers before it. -/
structure Walking (s : State) (ks : List Nat) (k last : Nat) (w : State) : Prop where
  map : SameMap s w
  jobs : w.jobs = s.walkJobs ks
  age : w.ageCounter = ks.length
  marks : w.pendingMarks = []
  few : ks.length ≤ 8
  below : ∀ j ∈ ks, j < k
  eighth : ks.length = 8 → ∃ j, ks[7]? = some j ∧ k = j + 1
  backlog : w.backlog = if k ≤ last then some ⟨k, last⟩ else none

theorem SameMap.walkKind {s t : State} (h : SameMap s t) (k : Nat) : t.walkKind k = s.walkKind k := by
  simp only [State.walkKind, h.lookup, h.sector]

section
variable {s w : State} {ks : List Nat} {k last : Nat} (walking : Walking s ks k last w)
include walking

/-- Below 8 jobs the walk goes on to its end. -/
theorem Walking.walks (less : ks.length < 8) (open' : k ≤ last) : w.walks ⟨k, last⟩ := by
  rw [walks_iff, walking.jobs, walkJobs_count s walking.few]
  rintro (eight | full | past)
  · omega
  · have lowest := List.findIdx?_eq_some_iff_getElem.mp (walkJobs_lowest s (Nat.lt_trans less (by decide)))
    obtain ⟨inside, free, -⟩ := lowest
    exact full (Option.isNone_iff_eq_none.mp free ▸ List.getElem_mem inside)
  · exact absurd past (Nat.not_lt.mpr open')

/-- With 8 jobs, or at its end, the walk stands still. -/
theorem Walking.stands (ended : ks.length = 8 ∨ last < k) : testBacklog w = w := by
  refine testBacklog_stands fun b pending => ?_
  rw [walks_iff, not_not, walking.jobs, walkJobs_count s walking.few]
  rcases ended with eight | past
  · exact .inl (by omega)
  · rw [walking.backlog, if_neg (Nat.not_le.mpr past)] at pending
    exact absurd pending nofun

/-- The number of the walk is examined: its first print is created when its entry is COMPLETE. -/
theorem Walking.walkCreates : w.walkCreates k = if s.entryMark k = some .complete then some (s.walkKind k) else none := by
  split
  · rename_i complete
    have awaits : w.awaitsPrint k := by
      refine ⟨(walking.map.entryMark k).trans complete, fun m mem => ?_, fun j mem _ receipt => ?_⟩
      · rw [walking.marks] at mem
        exact absurd mem List.not_mem_nil
      · rw [walking.jobs] at mem
        obtain ⟨k', mem', receipt'⟩ := mem_walkJobs mem
        obtain rfl := Option.some_inj.mp (receipt.symm.trans receipt')
        exact absurd (walking.below k mem') (Nat.lt_irrefl k)
    obtain ⟨i, slot, place, -⟩ := (entryMark_eq_some_iff w k _).mp ((walking.map.entryMark k).trans complete)
    rw [walkCreates_eq place awaits, ← walking.map.walkKind, State.walkKind, place]
    rfl
  · rename_i other
    exact walkCreates_none fun awaits => other ((walking.map.entryMark k).symm.trans awaits.1)

theorem Walking.next (less : ks.length < 8) (open' : k ≤ last) :
    Walking s (if s.entryMark k = some .complete then ks ++ [k] else ks) (k + 1) last
      ((examineBacklog k w).withWalk (if k = last then none else some ⟨k + 1, last⟩)) := by
  have rest : (if k = last then none else some (⟨k + 1, last⟩ : Backlog)) = if k + 1 ≤ last then some ⟨k + 1, last⟩ else none := by
    by_cases ends : k = last
    · rw [if_pos ends, if_neg (by omega)]
    · rw [if_neg ends, if_pos (by omega)]
  rw [examineBacklog_eq, walking.walkCreates]
  by_cases complete : s.entryMark k = some .complete
  · have fits : w.ageCounter + 1 < 2 ^ 32 := by
      rw [walking.age]
      omega
    rw [if_pos complete, if_pos complete]
    dsimp only
    rw [createJob_eq, walking.jobs, walkJobs_lowest s (Nat.lt_trans less (by decide))]
    dsimp only
    rw [if_pos fits, if_pos fits]
    refine ⟨⟨walking.map.sectors, walking.map.head⟩, ?_, ?_, walking.marks, ?_, ?_, ?_, rest⟩
    · rw [← walkJobs_append s (Nat.lt_trans less (by decide)), State.walkJob, ← walking.age]
      rfl
    · rw [List.length_append, List.length_singleton, ← walking.age]
      rfl
    · rw [List.length_append, List.length_singleton]
      omega
    · intro j mem
      rcases List.mem_append.mp mem with old | new
      · exact Nat.lt_succ_of_lt (walking.below j old)
      · exact Nat.lt_succ_of_le (List.mem_singleton.mp new).le
    · intro eight
      rw [List.length_append, List.length_singleton] at eight
      obtain seven : ks.length = 7 := by omega
      exact ⟨k, by rw [← seven]; exact List.getElem?_concat_length, rfl⟩
  · rw [if_neg complete, if_neg complete]
    exact ⟨⟨walking.map.sectors, walking.map.head⟩, walking.jobs, walking.age, walking.marks, walking.few,
      fun j mem => Nat.lt_succ_of_lt (walking.below j mem), fun eight => absurd eight (by omega), rest⟩

end

/-- The numbers that a walk finds COMPLETE. -/
def State.unprintedFrom (s : State) (k last : Nat) : List Nat :=
  (List.range' k (last + 1 - k)).filter (fun j => s.entryMark j == some .complete)

theorem unprintedFrom_past (s : State) {k last : Nat} (past : last < k) : s.unprintedFrom k last = [] := by
  rw [State.unprintedFrom, Nat.sub_eq_zero_of_le past]
  rfl

theorem unprintedFrom_next (s : State) {k last : Nat} (open' : k ≤ last) : s.unprintedFrom k last =
    if s.entryMark k = some .complete then k :: s.unprintedFrom (k + 1) last else s.unprintedFrom (k + 1) last := by
  have count : last + 1 - k = (last + 1 - (k + 1)) + 1 := by omega
  rw [State.unprintedFrom, count, List.range'_succ, List.filter_cons]
  exact if_congr beq_iff_eq rfl rfl

/-- Where a walk that stops at its eighth job stands. -/
def walkLeft (all : List Nat) (last : Nat) : Option Backlog :=
  all[7]?.bind (fun k => if k < last then some ⟨k + 1, last⟩ else none)

/-- The walk of a cold start: the first prints of the 8 lowest numbers that are COMPLETE. -/
theorem Walking.ends {s w : State} {ks : List Nat} {k last : Nat} (walking : Walking s ks k last w) :
    (testBacklog w).jobs = s.walkJobs ((ks ++ s.unprintedFrom k last).take 8) ∧
    (testBacklog w).backlog = walkLeft (ks ++ s.unprintedFrom k last) last := by
  induction count : last + 1 - k generalizing ks k w with
  | zero =>
    have past : last < k := by omega
    rw [walking.stands (.inr past), unprintedFrom_past s past, List.append_nil, List.take_of_length_le walking.few,
      walking.backlog, if_neg (Nat.not_le.mpr past)]
    refine ⟨walking.jobs, ?_⟩
    rw [walkLeft]
    cases seventh : ks[7]? with
    | none => rfl
    | some j =>
      have size : ks.length = 8 := by
        obtain ⟨inside, -⟩ := List.getElem?_eq_some_iff.mp seventh
        have := walking.few
        omega
      obtain ⟨j', seventh', next⟩ := walking.eighth size
      obtain rfl := Option.some_inj.mp (seventh.symm.trans seventh')
      rw [Option.bind_some, if_neg (by omega)]
  | succ d ih =>
    have open' : k ≤ last := by omega
    have pending : w.backlog = some ⟨k, last⟩ := walking.backlog.trans (if_pos open')
    by_cases eight : ks.length = 8
    · obtain ⟨j, seventh, rfl⟩ := walking.eighth eight
      have first : (ks ++ s.unprintedFrom (j + 1) last)[7]? = some j := by
        rw [List.getElem?_append_left (by omega), seventh]
      rw [walking.stands (.inl eight), pending, walkLeft, first, Option.bind_some, if_pos (by omega), walking.jobs,
        List.take_append_of_le_length (by omega), List.take_of_length_le (by omega)]
      exact ⟨rfl, rfl⟩
    · have less : ks.length < 8 := by
        have := walking.few
        omega
      have all : (if s.entryMark k = some .complete then ks ++ [k] else ks) ++ s.unprintedFrom (k + 1) last =
          ks ++ s.unprintedFrom k last := by
        rw [unprintedFrom_next s open']
        split
        · rw [List.append_assoc, List.singleton_append]
        · rfl
      rw [testBacklog_goesOn pending (walking.walks less open'), ← all]
      exact ih (walking.next less open') (by omega)

end Sys2Proof.Machine
end

section
/-! PROOFS. The print queue and the tally of a cold start (R165, R174). -/

namespace Sys2Proof.Machine

/-! ## The tally (R174) -/

/-- The tally of some entries, none of which closes a shift. -/
def openTally (clock : Nat) : List (Nat × List Byte) → Tally
  | [] => Tally.first clock
  | (n, e) :: rest => ((n, e) :: rest).foldl (fun t x => rebuildEntry t x.2) { Tally.first (entryNat e 6 4) with incomplete := true }

/-- The tally of some entries, in receipt order. -/
def tallyOf (clock : Nat) (es : List (Nat × List Byte)) : Tally :=
  (es.reverse.find? (fun x => !carriesTorn x.2 && entryKind x.2 == .shift)).elim (openTally clock es) (fun y =>
    (es.filter (fun x => y.1 < x.1)).foldl (fun t x => rebuildEntry t x.2)
      { Tally.first (entryNat y.2 6 4) with shift := min max32 (entryNat y.2 204 4 + 1) })

/-- The entries that the rebuild walks. -/
def State.rebuiltEntries (s : State) : List (Nat × List Byte) := s.retainedEntries.map (fun x => (x.1, s.entryBytes x.2.1 x.2.2))

theorem rebuildTally_eq (s : State) : rebuildTally s = { s with tally := tallyOf s.clock s.rebuiltEntries, snapshot := none } := by
  rw [rebuildTally, tallyOf]
  dsimp only
  rw [← State.rebuiltEntries]
  cases s.rebuiltEntries.reverse.find? (fun x => !carriesTorn x.2 && entryKind x.2 == .shift) with
  | none => cases s.rebuiltEntries <;> rfl
  | some y => rfl

/-- An entry closes a shift, for the rebuild. -/
abbrev closesShift (y : Nat × List Byte) : Prop := carriesTorn y.2 = false ∧ entryKind y.2 = .shift

theorem closesShift_iff (y : Nat × List Byte) : (!carriesTorn y.2 && entryKind y.2 == .shift) = true ↔ closesShift y := by
  rw [Bool.and_eq_true, Bool.not_eq_true', beq_iff_eq]

theorem tallyOf_nil (clock : Nat) : tallyOf clock [] = Tally.first clock := rfl

theorem tallyOf_open {clock n : Nat} {e : List Byte} {rest : List (Nat × List Byte)} (none' : ∀ x ∈ (n, e) :: rest, ¬ closesShift x) :
    tallyOf clock ((n, e) :: rest) =
      ((n, e) :: rest).foldl (fun t x => rebuildEntry t x.2) { Tally.first (entryNat e 6 4) with incomplete := true } := by
  have search : ((n, e) :: rest).reverse.find? (fun x => !carriesTorn x.2 && entryKind x.2 == .shift) = none :=
    List.find?_eq_none.mpr fun x mem closes => none' x (List.mem_reverse.mp mem) ((closesShift_iff x).mp closes)
  rw [tallyOf, search]
  rfl

theorem tallyOf_closed {clock n : Nat} {e : List Byte} {before rest : List (Nat × List Byte)} (closes : closesShift (n, e))
    (last : ∀ x ∈ rest, ¬ closesShift x) : tallyOf clock (before ++ (n, e) :: rest) =
      ((before ++ (n, e) :: rest).filter (fun x => n < x.1)).foldl (fun t x => rebuildEntry t x.2)
        { Tally.first (entryNat e 6 4) with shift := min 4294967295 (entryNat e 204 4 + 1) } := by
  have search : (before ++ (n, e) :: rest).reverse.find? (fun x => !carriesTorn x.2 && entryKind x.2 == .shift) = some (n, e) := by
    have none' : rest.reverse.find? (fun x => !carriesTorn x.2 && entryKind x.2 == .shift) = none :=
      List.find?_eq_none.mpr fun x mem closes' => last x (List.mem_reverse.mp mem) ((closesShift_iff x).mp closes')
    rw [List.reverse_append, List.reverse_cons, List.find?_append, List.find?_append, none', Option.none_or, List.find?_cons_of_pos,
      Option.some_or]
    exact (closesShift_iff (n, e)).mpr closes
  rw [tallyOf, search]
  rfl

/-! ## The cold start -/

section
variable (decay : List (Nat × Byte)) (s : State)

/-- A cold start before its backlog walk. -/
def coldReady : State := startScales (startedScan false decay s)

theorem started_rebuilt : started false decay s = rebuildTally (setBacklog (coldReady decay s)) := by
  rw [started_eq, startBooks_cold, coldReady]

theorem startScales_map (x : State) : SameMap x (startScales x) ∧ (startScales x).journal = x.journal ∧ (startScales x).jobs = x.jobs ∧
    (startScales x).ageCounter = x.ageCounter ∧ (startScales x).pendingMarks = x.pendingMarks ∧
    (startScales x).backlog = x.backlog ∧ (startScales x).clock = x.clock := by
  rw [startScales_frame]
  exact ⟨⟨rfl, rfl⟩, rfl, rfl, rfl, rfl, rfl, rfl⟩

theorem startedScan_cold : (startedScan false decay s).jobs = List.replicate 16 none := by
  obtain ⟨-, -, -, -, jobs, -⟩ := startFaults_books false (startBase false s)
  obtain ⟨-, -, -, -, -, jobs', -⟩ := scanJournal_books false decay (startFaults false (startBase false s))
  have queue (x : State) : (startQueue false x).jobs = x.jobs := rfl
  exact (queue _).trans (jobs'.trans (jobs.trans rfl))

/-- The print queue of a cold start is empty before its backlog walk. -/
theorem coldReady_spec : let w := coldReady decay s
    w.jobs = List.replicate 16 none ∧ w.ageCounter = 0 ∧ w.pendingMarks = [] ∧ w.backlog = none ∧ w.clock = 0 := by
  intro w
  have whole : w = startScales (startedScan false decay s) := rfl
  have jobs := startedScan_cold decay s
  have keeps := startedScan_keeps false decay s
  obtain ⟨-, -, -, -, -, backlog, age, -⟩ := startedScan_books false decay s
  obtain ⟨-, -, -, -, -, -, -, marks, -⟩ := startBase_sets false s
  obtain ⟨clock, -⟩ := startBase_cold s
  rw [whole]
  replace marks := keeps.marks.trans marks
  replace clock := keeps.clock.trans clock
  replace age : (startedScan false decay s).ageCounter = 0 := age.trans rfl
  replace backlog : (startedScan false decay s).backlog = none := backlog.trans rfl
  clear keeps
  generalize startedScan false decay s = y at *
  obtain ⟨-, -, jobs', age', marks', backlog', clock'⟩ := startScales_map y
  exact ⟨jobs'.trans jobs, age'.trans age, marks'.trans marks, backlog'.trans backlog, clock'.trans clock⟩

theorem setBacklog_map (w : State) : SameMap w (setBacklog w) ∧ (setBacklog w).journal = w.journal ∧ (setBacklog w).clock = w.clock := by
  rw [setBacklog]
  split
  · rw [testBacklog_frame]
    exact ⟨⟨rfl, rfl⟩, rfl, rfl⟩
  · exact ⟨⟨rfl, rfl⟩, rfl, rfl⟩

theorem rebuiltEntries_congr {s t : State} (map : SameMap s t) (journal : t.journal = s.journal) :
    t.rebuiltEntries = s.rebuiltEntries := by
  rw [State.rebuiltEntries, map.entries.retainedEntries, State.rebuiltEntries]
  simp only [State.entryBytes, journal]

/-- A cold start, in the map, the array, the tally and the print queue. -/
theorem started_coldReady : let w := coldReady decay s
    let t := started false decay s
    SameMap w t ∧ t.journal = w.journal ∧ t.tally = tallyOf 0 t.rebuiltEntries ∧ t.snapshot = none ∧
    t.jobs = (setBacklog w).jobs ∧ t.backlog = (setBacklog w).backlog := by
  intro w t
  obtain ⟨-, -, -, -, clock⟩ := coldReady_spec decay s
  have whole : t = rebuildTally (setBacklog (coldReady decay s)) := started_rebuilt decay s
  have clock' : w.clock = 0 := clock
  rw [rebuildTally_eq] at whole
  obtain ⟨map, journal, clock''⟩ := setBacklog_map w
  have now := clock''.trans clock'
  have ready : setBacklog (coldReady decay s) = setBacklog w := rfl
  rw [ready] at whole
  clear ready
  generalize setBacklog w = v at *
  have map' : SameMap v t := by
    rw [whole]
    exact ⟨rfl, rfl⟩
  have journal' : t.journal = v.journal := by rw [whole]
  have entries := rebuiltEntries_congr map' journal'
  refine ⟨map.trans map', journal'.trans journal, ?_, ?_, ?_, ?_⟩
  · rw [entries, whole, ← now]
  all_goals rw [whole]

end

theorem setBacklog_none {w : State} (empty : w.newest = none) : setBacklog w = w := by
  rw [setBacklog, empty]
  split
  · rename_i found
    exact absurd found nofun
  · rfl

theorem setBacklog_some {w : State} {o n : Nat} (oldest : w.oldest = some o) (newest : w.newest = some n) :
    setBacklog w = testBacklog { w with backlog := some ⟨o, n⟩ } := by
  rw [setBacklog, oldest, newest]

/-- The numbers of the retained entries that are COMPLETE. -/
theorem unprintedFrom_eq {t : State} {o n : Nat} (oldest : t.oldest = some o) (newest : t.newest = some n) :
    t.retainedNumbers.filter (fun k => t.entryMark k == some .complete) = t.unprintedFrom o n := by
  have retained (k : Nat) : ((t.entryMark k == some .complete) && (t.lookup k).isSome) = (t.entryMark k == some .complete) := by
    rw [Bool.and_eq_left_iff_imp, beq_iff_eq]
    intro complete
    obtain ⟨i, slot, place, -⟩ := (entryMark_eq_some_iff t k _).mp complete
    rw [place]
    rfl
  rw [State.retainedNumbers, oldest, newest, State.unprintedFrom, List.range'_eq_map_range]
  dsimp only
  rw [List.filter_filter]
  simp only [retained]

/-- The walk from the empty queue over every retained entry (R165). -/
theorem setBacklog_walk {w t : State} (map : SameMap w t) (jobs : w.jobs = List.replicate 16 none) (age : w.ageCounter = 0)
    (marks : w.pendingMarks = []) {o n : Nat} (oldest : t.oldest = some o) (newest : t.newest = some n) :
    (setBacklog w).jobs = t.walkJobs ((t.retainedNumbers.filter (fun k => t.entryMark k == some .complete)).take 8) ∧
    (setBacklog w).backlog = walkLeft (t.retainedNumbers.filter (fun k => t.entryMark k == some .complete)) n := by
  have oldest' : w.oldest = some o := map.entries.oldest ▸ oldest
  have newest' : w.newest = some n := map.newest ▸ newest
  have shown : SameMap t { w with backlog := some ⟨o, n⟩ } := ⟨map.sectors.symm, map.head.symm⟩
  have range : o ≤ n := by
    obtain ⟨mem, -⟩ := minOf_eq_some_iff.mp oldest
    obtain ⟨i, entry⟩ := (mem_firsts_iff t o).mp mem
    obtain ⟨m, last, some', above⟩ := entryAt_last entry
    obtain ⟨-, highest⟩ := maxOf_eq_some_iff.mp newest
    exact above.trans (highest m ((mem_lasts_iff t m).mpr ⟨i, last, some'⟩))
  have walking : Walking t [] o n { w with backlog := some ⟨o, n⟩ } :=
    ⟨shown, jobs.trans (walkJobs_nil t).symm, age, marks, by decide, fun j mem => absurd mem List.not_mem_nil, nofun,
      (if_pos range).symm⟩
  rw [unprintedFrom_eq oldest newest, setBacklog_some oldest' newest']
  exact walking.ends

end Sys2Proof.Machine
end

section
/-! PROOFS. The obligation on what a start reads of the journal (R65, R114, R141, R142, R164, R165, R173, R174). -/

namespace Sys2Proof.Machine

/-- The change to RUN leaves all but the mode and the notices. -/
theorem startPart_rest (retained sense : Bool) (decay : List (Nat × Byte)) (s : State) :
    let z := started (warmStart retained sense s) decay s
    let t := startPart retained sense decay s
    SameMap z t ∧ t.journal = z.journal ∧ t.counter = z.counter ∧ t.exhausted = z.exhausted ∧ t.settings = z.settings ∧
    t.engine = z.engine ∧ t.clock = z.clock ∧ t.walkView = z.walkView ∧ t.books = z.books ∧ ∀ k, t.fault k = z.fault k := by
  intro z t
  have run : t = setMode .run z := startPart_run retained sense decay s
  rw [run, setMode_frame]
  exact ⟨⟨rfl, rfl⟩, rfl, rfl, rfl, rfl, rfl, rfl, rfl, rfl, fun _ => rfl⟩

/-- A start ends with no commit at work and no mark to program. -/
theorem started_idle (warm : Bool) (decay : List (Nat × Byte)) (s : State) : (started warm decay s).head = none ∧
    (started warm decay s).pendingMarks = [] := by
  have keeps := started_keeps warm decay s
  obtain ⟨-, -, -, -, head, -, -, marks, -⟩ := startBase_sets warm s
  exact ⟨keeps.head.trans head, keeps.marks.trans marks⟩

theorem walkView_marks {s t : State} (same : t.walkView = s.walkView) : t.pendingMarks = s.pendingMarks := by
  simp only [State.walkView, Prod.mk.injEq] at same
  obtain ⟨-, -, -, -, -, -, marks⟩ := same
  exact marks

theorem walkView_queue {s t : State} (same : t.walkView = s.walkView) :
    t.jobs = s.jobs ∧ t.backlog = s.backlog ∧ t.ageCounter = s.ageCounter ∧ t.free = s.free := by
  simp only [State.walkView, Prod.mk.injEq] at same
  obtain ⟨jobs, backlog, age, free, -, -, -⟩ := same
  exact ⟨jobs, backlog, age, free⟩

/-! ## A warm start -/

theorem getD_map_option {α : Type} (f : α → α) (l : List (Option α)) (i : Nat) :
    (l.map (Option.map f)).getD i none = (l.getD i none).map f := by
  rw [List.getD_eq_getElem?_getD, List.getD_eq_getElem?_getD, List.getElem?_map]
  cases l[i]? <;> rfl

theorem warmJob_reserved {j : Job} (reserved : j.state = .reserved) : warmJob j = j := by
  rw [warmJob, reserved]

/-- What becomes of the jobs of a warm start (R109, R164). -/
theorem warmQueue {s q t : State} {stands : Nat → Bool} (jobs : q.jobs = s.jobs.map (Option.map warmJob))
    (left : t.jobs = (s.settlements.foldl (queueResolved stands) (testBacklog q)).jobs) :
    (∀ slot j, s.job slot = some j → (∀ r ∈ s.settlements, slot ∉ r.jobs) → t.job slot = some (warmJob j)) ∧
    ∀ r ∈ s.settlements, ∀ slot ∈ r.jobs,
      (r.receipt.filter stands = none → SlotLeft slot t) ∧
      (∀ n j, r.receipt.filter stands = some n → (∀ r' ∈ s.settlements, slot ∈ r'.jobs → r' = r) → s.job slot = some j →
        j.state = .reserved → t.job slot = some (jobQueued n j)) := by
  have job (slot : Nat) : t.job slot = (s.settlements.foldl (queueResolved stands) (testBacklog q)).job slot := by
    rw [State.job, left, State.job]
  have kept {slot : Nat} {j : Job} (held : s.job slot = some j) : (testBacklog q).job slot = some (warmJob j) := by
    refine (testBacklog_grows q slot).stays ?_
    rw [State.job, jobs, getD_map_option, ← State.job, held]
    rfl
  refine ⟨fun slot j held outside => ?_, fun r mem slot own => ⟨fun fails => ?_, fun n j stood alone held reserved => ?_⟩⟩
  · rw [job]
    exact queueResolved_all_stay outside (kept held)
  · rw [SlotLeft, job]
    exact queueResolved_left mem own fails _
  · rw [job]
    exact queueResolved_queued mem own alone stood (warmJob_reserved reserved ▸ kept held)

/-! ## A cold start -/

/-- The jobs of a cold start, by the entries that they print (R165). -/
theorem coldQueue {y t : State} (shows : ShowsScan y t) {m : Memory} (journal : y.journal = m)
    (jobs : t.jobs = t.walkJobs ((t.retainedNumbers.filter (fun k => t.entryMark k == some .complete)).take 8)) {slot : Nat}
    (inside : slot < 16) : t.job slot =
      if slot < 8 then (t.retainedNumbers.filter (fun k => t.entryMark k == some .complete))[slot]?.map (fun k =>
        ⟨printKind (entryKind ((t.lookup k).elim [] (fun x => entryIn m x.1 x.2))), some k, none, .queued, 0, false, slot, 0⟩)
      else none := by
  subst journal
  rw [State.job, jobs, List.getD_eq_getElem?_getD, walkJobs_getElem?, if_pos inside, Option.getD_some, List.getElem?_take]
  split
  · cases at' : (t.retainedNumbers.filter (fun k => t.entryMark k == some .complete))[slot]? with
    | none => rfl
    | some k =>
      obtain ⟨-, complete⟩ := List.mem_filter.mp (List.mem_of_getElem? at')
      obtain ⟨i, l, place, -⟩ := (entryMark_eq_some_iff t k _).mp (beq_iff_eq.mp complete)
      obtain ⟨entry, low⟩ := (mem_places_iff t k i l).mp ((lookup_spec t k).2 _ place)
      have size : (entryIn y.journal i l).length = 256 := by rw [entryIn, memBytes_eq, List.length_map, List.length_range]
      have kind : (t.sector i).kinds.getD l 0#8 = kindByte (entryIn y.journal i l) := by
        rw [shows.kinds entry.1.1, scannedSector_kinds, kindByte_eq size, List.getD_eq_getElem?_getD, List.getElem?_map,
          List.getElem?_range (by omega)]
        rfl
      rw [Option.map_some, Option.map_some, State.walkJob, State.walkKind, place, Option.elim_some, Option.elim_some, kind]
      rfl
  · rfl

/-- What the rebuild of a cold start makes of its entries (R174). -/
theorem coldTally {t : State} (tally : t.tally = tallyOf 0 t.rebuiltEntries) :
    let es := t.rebuiltEntries
    (es = [] → t.tally = Tally.first 0) ∧
    (∀ n e rest, es = (n, e) :: rest → (∀ x ∈ es, ¬ closesShift x) →
      t.tally = es.foldl (fun x y => rebuildEntry x y.2) { Tally.first (entryNat e 6 4) with incomplete := true }) ∧
    ∀ before n e rest, es = before ++ (n, e) :: rest → closesShift (n, e) → (∀ x ∈ rest, ¬ closesShift x) →
      t.tally = (es.filter (fun x => n < x.1)).foldl (fun x y => rebuildEntry x y.2)
        { Tally.first (entryNat e 6 4) with shift := min 4294967295 (entryNat e 204 4 + 1) } := by
  intro es
  have made : t.tally = tallyOf 0 es := tally
  rw [made]
  generalize es = es
  refine ⟨?_, ?_, ?_⟩
  · rintro rfl
    exact tallyOf_nil 0
  · rintro n e rest rfl none'
    exact tallyOf_open none'
  · rintro before n e rest rfl closes last
    exact tallyOf_closed closes last

theorem walkLeft_eq (all : List Nat) (n : Nat) : walkLeft all n = match all[7]? with
    | some k => if k < n then some ⟨k + 1, n⟩ else none
    | none => none := by
  rw [walkLeft]
  cases all[7]? <;> rfl

/-- The print queue of a warm start as its records are resolved one after another. -/
theorem resolvedQueue (stands : Nat → Bool) (rs : List Settlement) (q : State) :
    rs.foldl (fun (x : State) r => match r.receipt.filter stands with
      | some n => r.jobs.foldl (fun (y : State) slot => { y with jobs := y.jobs.set slot ((y.job slot).map (fun j =>
          { j with state := .queued, receipt := if j.kind = .tally then none else some n })) }) x
      | none => r.jobs.foldl (fun y slot => slotFreed slot y) x) q = rs.foldl (queueResolved stands) q := by
  refine congrArg (fun f => List.foldl f q rs) (funext fun x => funext fun r => ?_)
  rw [queueResolved]
  cases r.receipt.filter stands with
  | none => rfl
  | some n => exact jobsQueued_fold n r.jobs x

/-! ## The obligation -/

/-- Settles O46: the array, the map, the counter and the torn entries by the scan; the books and the print queue by the settlement
list of a warm start, the tally and the walk from the empty queue by the retained entries of a cold one. -/
theorem startReadsTheJournal : Obligations.StartReadsTheJournal := by
  intro retained sense decay s wf size warm m erasing entry blank torn
  have wf' : m.wf = true := wf_memDecay wf ..
  obtain ⟨map, journal, counter, exhausted, settings, engine, clock, view, books, fault⟩ := startPart_rest retained sense decay s
  obtain ⟨array, record, -⟩ := startArray_reads (warmStart retained sense s) decay s
  have shows : ShowsScan (startArray (warmStart retained sense s) decay s) (startPart retained sense decay s) := by
    obtain ⟨r, read, free, same⟩ := started_shows (warmStart retained sense s) decay s
    exact ⟨r, read, free, same.trans map⟩
  have follows := (started_counter (warmStart retained sense s) decay s).congr map counter exhausted
  have tears := journal.trans (started_journal (warmStart retained sense s) decay s)
  obtain ⟨untorn, least⟩ := started_tornFound (warmStart retained sense s) decay s size
  have restarts {i : Nat} := started_engine (i := i) (warmStart retained sense s) decay s
  have carried := exec_start retained sense decay s
  generalize startPart retained sense decay s = t at *
  refine ⟨t, carried, fun y => ?_, fun i inside => ?_, fun n n' x place y place' below => shows.audited_below place place' below,
    ?_, ⟨?_, ?_⟩, fun isWarm => ?_, fun isCold => ?_⟩
  · rw [tears]
    exact memRead_tearsAt torn wf' y
  · obtain ⟨kinds, erased, bad, blanks, entries⟩ := shows.sector array record inside
    refine ⟨kinds, fun own => ?_, bad, blanks, entries⟩
    obtain ⟨current, erase⟩ := restarts own
    exact ⟨erased own, (congrArg Engine.current engine).trans current, (congrArg Engine.erase engine).trans erase⟩
  · rw [← settings] at follows
    exact follows.cases
  · exact fun none' => (fault _).trans (untorn none')
  · have number : (fun x : Nat × Nat => ((started (warmStart retained sense s) decay s).sector x.1).first.getD 0 + x.2) =
        fun x => (t.sector x.1).first.getD 0 + x.2 := funext fun x => by rw [map.sector]
    rw [number, ← clock] at least
    exact fun x mem lowest => (fault _).trans (least x mem lowest)
  · have isWarm' : warmStart retained sense s = true := isWarm
    have torn' : torn = tornPlaces s.eraseRecord m := congrArg (tornPlaces · m) (if_pos isWarm)
    intro stands b due queue
    rw [isWarm'] at map journal view books
    have stood (n : Nat) : (started true decay s).committed n = stands n :=
      (committed_congr map journal n).symm.trans (committed_eq t n)
    let q : State := { t with
      backlog := s.backlog, ageCounter := s.ageCounter, free := s.free, jobs := s.jobs.map (Option.map warmJob) }
    obtain ⟨head, marks⟩ := started_idle true decay s
    have head' : q.head = none := map.head.trans head
    have marks' : q.pendingMarks = [] := (walkView_marks view).trans marks
    obtain ⟨walk, holds, tally, snapshot, tickets⟩ := started_warm stood (q := q) rfl rfl rfl rfl map.sectors head' marks'
    rw [← torn'] at holds tally snapshot tickets
    have resolved : queue = s.settlements.foldl (queueResolved stands) (testBacklog q) :=
      resolvedQueue stands s.settlements (testBacklog q)
    have left := view.trans walk
    rw [← resolved] at left
    obtain ⟨jobs, backlog, age, free⟩ := walkView_queue left
    obtain ⟨stay, settled⟩ := warmQueue (q := q) (stands := stands) rfl (resolved ▸ jobs)
    generalize started true decay s = z at *
    exact ⟨jobs, backlog, age, free, retainedBytes_eq _, (congrArg Books.holds books).trans holds,
      (congrArg Books.tally books).trans tally, (congrArg Books.snapshot books).trans snapshot,
      (congrArg Books.tickets books).trans tickets, stay, settled⟩
  · have isCold' : warmStart retained sense s = false := Bool.eq_false_iff.mpr isCold
    intro es add closes
    rw [isCold'] at map journal view books
    obtain ⟨empty, age, marks, unwalked, -⟩ := coldReady_spec decay s
    obtain ⟨ready, -, tally, snapshot, jobs, backlog⟩ := started_coldReady decay s
    have entries := rebuiltEntries_congr map journal
    generalize coldReady decay s = w at *
    generalize started false decay s = z at *
    obtain ⟨jobs', backlog', -, -⟩ := walkView_queue view
    have shown := ready.trans map
    obtain ⟨blanks, opens, closed⟩ := coldTally (((congrArg Books.tally books).trans tally).trans (congrArg (tallyOf 0) entries.symm))
    refine ⟨(congrArg Books.snapshot books).trans snapshot, blanks, opens, closed, fun unwritten => ?_, fun o n oldest newest => ?_⟩
    · rw [jobs', jobs, backlog', backlog, setBacklog_none (shown.newest ▸ unwritten)]
      exact ⟨empty, unwalked⟩
    · obtain ⟨queue, left⟩ := setBacklog_walk shown empty age marks oldest newest
      intro unprinted
      rw [← jobs, ← jobs'] at queue
      exact ⟨fun slot inside => coldQueue shows array queue inside, (backlog'.trans backlog).trans (left.trans (walkLeft_eq _ n))⟩

end Sys2Proof.Machine
end
